-- ==== Sys2Proof/Word.lean ====
section
/-! DEFINITION. The words of the block and the sparse store of keyed data (spec/00_scope.md R11, R13). -/

namespace Sys2Proof

/-- A byte of memory or of a packet. -/
abbrev Byte := BitVec 8

/-- A 32-bit register, lane or accumulator word. -/
abbrev Word := BitVec 32

/-- A 64-bit scalar register. -/
abbrev DWord := BitVec 64

/-- Keyed data in one canonical form: keys strictly rising, no entry equal to the value of an unlisted key.
The operations that keep the form are `look` and `put` of Machine/Ops.lean. -/
abbrev Store (α : Type) := List (Nat × α)

end Sys2Proof
end

