-- ==== Sys2Proof/Config.lean ====
section
/-! DEFINITION. What the spec leaves open: constants with no body, so that no proof can lean on a value of one. Each is named in a row of notes/assumptions/. -/

namespace Sys2Proof

/-- The n-th free value: a result or datum the spec leaves undefined after a command that goes on. -/
opaque Config.freeValue : Nat → BitVec 64

/-- A byte of a code word whose symbol errors the code does not correct (R157, R246), by its unit, address and time. -/
opaque Config.eccByte : (unit addr time : Nat) → BitVec 8

/-- The payload of a NaN the vector unit makes in its n-th such operation, in a lane. -/
opaque Config.nanPayload : (n lane : Nat) → BitVec 32

/-- What the array gives where the spec leaves it unspecified (R64, R134, R238, R243): by cluster, entry or frond, and aclk. -/
opaque Config.arrayFree : (pcid unit aclk : Nat) → BitVec 64

/-- The device's choice inside the accuracy bound of R76 for function f on the operands a and b. -/
opaque Config.ulpChoice : (f : Nat) → (a b : Word) → Nat

/-- The device's choice inside the rotary bound of R331, for the angle's operands, the pair and the element of it. -/
opaque Config.ropeChoice : (pos i dims : Nat) → (base x y : Word) → (first : Bool) → Nat

/-- The n-th draw of a lane's stochastic generator under a committed seed (R70). -/
opaque Config.srDraw : (seed : DWord) → (lane n : Nat) → BitVec 16

/-- The mixing of the committed seed with a reserve's cluster epoch (R71). -/
opaque Config.seedMix : (seed : DWord) → (epoch : BitVec 16) → DWord

/-- SHA-512, which the spec names and an outside standard defines. -/
opaque Config.sha512 : List Byte → List Byte

/-- Ed25519 verification (RFC 8032): public key, message, signature. -/
opaque Config.ed25519Verify : (pub msg sig : List Byte) → Bool

/-- Ed25519 signature (RFC 8032): secret, message. -/
opaque Config.ed25519Sign : (secret msg : List Byte) → List Byte

/-- The public key of an Ed25519 secret. -/
opaque Config.ed25519Public : (secret : List Byte) → List Byte

/-- X25519 (RFC 7748): secret, public. -/
opaque Config.x25519 : (secret pub : List Byte) → List Byte

/-- HKDF-SHA-512 (RFC 5869): input keying material, salt, info, length. -/
opaque Config.hkdf : (ikm salt info : List Byte) → Nat → List Byte

/-- AES-256-GCM decryption: key, nonce, additional data, ciphertext with its tag; none when the tag fails. -/
opaque Config.gcmOpen : (key nonce aad ct : List Byte) → Option (List Byte)

/-- AES-256-GCM encryption: key, nonce, additional data, plaintext; the ciphertext with its tag. -/
opaque Config.gcmSeal : (key nonce aad pt : List Byte) → List Byte

/-- RFC 3394 key unwrap: key-encryption key, wrapped key; none when the check fails. -/
opaque Config.keyUnwrap : (kek wrapped : List Byte) → Option (List Byte)

/-- The security processor's random number generator: the n-th draw of a number of bytes. -/
opaque Config.random : (n len : Nat) → List Byte

/-- The root secret the PUF and the helper data give (R356). -/
opaque Config.pufSecret : (helper : List Byte) → List Byte

/-- The ROM's firmware and record verifying key (R357). -/
opaque Config.romKey : List Byte

/-- The energy coefficient of an activity kind at an operating point, in units of 0.01 W over a loop period (R436). -/
opaque Config.energyCoeff : (kind opp : Nat) → Nat

/-- Leakage per delivered edge at an operating point (R436). -/
opaque Config.leakCoeff : (opp : Nat) → Nat

/-- The capability bits of the device's hello, whose meaning R404 does not give. -/
opaque Config.capabilities : Nat

/-- Where the ring of a collective begins for element j of a row of members along a dimension: twice the place, and 1 more when it goes the other way (R421). -/
opaque Config.ringStart : (root dim row j : Nat) → (members : List Nat) → Nat

/-- The mean erase count of the flash's data blocks after a number of sectors written, as the controller levels it (R265). -/
opaque Config.flashErases : (sectors : Nat) → Nat

end Sys2Proof
end

