-- ==== Sys2Proof/Syntax.lean ====
section
/-! DEFINITION. The commands of the block: one constructor per row of the opcode table, in its order. -/

namespace Sys2Proof

/-- An accepted host request (R379): what checks 1 to 11 of R381 leave of a datagram. -/
structure Req where
  session : Nat
  seq     : Nat
  part    : Nat
  ctx     : Nat
  port    : Nat
  src     : Nat
  stamp   : Nat
  payload : List Byte
  deriving DecidableEq, Repr

/-- How a flash sector read came out (R262). -/
inductive FlashOutcome where
  | hard (bits : Nat)
  | soft (retries : Nat)
  | uncorrectable
  deriving DecidableEq, Repr

/-- One rail as the power controller samples it (R426): rail number, millivolts, milliamperes. -/
structure RailReading where
  rail : Nat
  mv   : Nat
  ma   : Nat
  deriving DecidableEq, Repr

/-- What a port measures at bring-up (R403): lock, loss in 0.1 dB, uncorrectable codewords, median round trip in 0.1 ns. -/
structure LinkMeasure where
  lock    : Bool
  loss    : Nat
  fecUe   : Nat
  medianRtt : Nat
  deriving DecidableEq, Repr

/-- A hello as it arrives (R404). -/
structure HelloMsg where
  xs : Nat
  ys : Nat
  zs : Nat
  self  : Nat
  epoch : Nat
  fwVersion : Nat
  caps  : Nat
  idPub : List Byte
  sig   : List Byte
  deriving DecidableEq, Repr

/-- What a pattern check of a stack met on a pseudo-channel (R254). -/
structure PatternErrs where
  stack : Nat
  pch : Nat
  corrected : Nat
  ue : Bool
  deriving DecidableEq, Repr

/-- The physical outcomes of a boot (R487): what the rails, the PUF, BIST, the stacks and the links did. -/
structure BootResults where
  railsOk  : Bool
  pufOk    : Bool
  bistFail : List Nat
  regionFail : List Nat
  badRows  : List (Nat × Nat × Nat)
  patterns : List PatternErrs
  ucieFail : List Nat
  deriving DecidableEq, Repr

/-- The commands. -/
inductive Instr where
  /-- HOST_DATAGRAM_ARRIVAL (R381). -/
  | hostDatagramArrival (port src : Nat) (bytes : List Byte)
  /-- SESSION_OPEN (R362). -/
  | sessionOpen (q : Req)
  /-- SESSION_CONFIRM (R365). -/
  | sessionConfirm (q : Req)
  /-- SESSION_CLOSE (R365). -/
  | sessionClose (q : Req)
  /-- PENDING_SESSION_LAPSE (R381). -/
  | pendingSessionLapse (sid : Nat)
  /-- ATTEST (R361). -/
  | attest (q : Req)
  /-- KEY_PUT (R366). -/
  | keyPut (q : Req)
  /-- KEY_DROP (R366). -/
  | keyDrop (q : Req)
  /-- PAR_CREATE (R350). -/
  | parCreate (q : Req)
  /-- PAR_SET (R352). -/
  | parSet (q : Req)
  /-- PAR_DESTROY (R355). -/
  | parDestroy (q : Req)
  /-- TEARDOWN_COMPLETE (R355). -/
  | teardownComplete (p : Nat)
  /-- CTX_CREATE (R348). -/
  | ctxCreate (q : Req)
  /-- CTX_DESTROY (R472). -/
  | ctxDestroy (q : Req)
  /-- REG_READ (R391). -/
  | regRead (q : Req)
  /-- REG_WRITE (R391). -/
  | regWrite (q : Req)
  /-- REGISTER_WRITE (R16). -/
  | registerWrite (p : Nat) (addr value : Word)
  /-- MEM_MAP (R219). -/
  | memMap (q : Req)
  /-- MEM_UNMAP (R219). -/
  | memUnmap (q : Req)
  /-- MEM_PROTECT (R219). -/
  | memProtect (q : Req)
  /-- TRANSLATION_CHANGE_COMPLETE (R224). -/
  | translationChangeComplete (id : Nat)
  /-- MEM_WRITE (R392). -/
  | memWrite (q : Req)
  /-- MEM_READ (R392). -/
  | memRead (q : Req)
  /-- MODEL_STAGE (R392). -/
  | modelStage (q : Req)
  /-- MODEL_LOAD (R296). -/
  | modelLoad (q : Req)
  /-- MODEL_UNLOAD (R313). -/
  | modelUnload (q : Req)
  /-- SWITCH_WEIGHTS (R311). -/
  | switchWeights (q : Req)
  /-- SHARD_PUT (R300). -/
  | shardPut (q : Req)
  /-- SHARD_TRY_TIMEOUT (R298). -/
  | shardTryTimeout (h e sh : Nat)
  /-- SHARD_TRY_COMPLETE (R298). -/
  | shardTryComplete (h e sh : Nat) (sourceRefuses : Bool) (data : List Byte)
  /-- SHARD_PLACED (R304). -/
  | shardPlaced (h e sh : Nat)
  /-- LOAD_COMPLETE (R302). -/
  | loadComplete (h e : Nat)
  /-- SHARD_RETRY_DUE (R303). -/
  | shardRetryDue (h e : Nat)
  /-- REHASH_DUE (R305). -/
  | rehashDue (h e sh : Nat)
  /-- REHASH_COMPLETE (R306). -/
  | rehashComplete (h e sh : Nat)
  /-- PEER_SHARD_REQUEST (R299). -/
  | peerShardRequest (job src model rev shard : Nat)
  /-- PEER_MISMATCH_REPORT (R299). -/
  | peerMismatchReport (job src model rev shard : Nat)
  /-- EPOCH_RELEASE (R313). -/
  | epochRelease (h e : Nat)
  /-- TABLE_LOAD (R287). -/
  | tableLoad (q : Req)
  /-- TABLE_CLEAR (R287). -/
  | tableClear (q : Req)
  /-- TABLE_LOAD_COMPLETE (R287). -/
  | tableLoadComplete (id : Nat)
  /-- TABLE_BUILD (R290). -/
  | tableBuild (q : Req)
  /-- TABLE_BUILD_COMPLETE (R291). -/
  | tableBuildComplete (id : Nat)
  /-- SLOT_LOAD (R514). -/
  | slotLoad (q : Req)
  /-- RUN_START (R393). -/
  | runStart (q : Req)
  /-- RUN_CANCEL (R138). -/
  | runCancel (q : Req)
  /-- STREAM_ARM (R188). -/
  | streamArm (q : Req)
  /-- STREAM_WITHDRAW (R195). -/
  | streamWithdraw (q : Req)
  /-- REQ_ADMIT (R394). -/
  | reqAdmit (q : Req)
  /-- REQ_END (R394). -/
  | reqEnd (q : Req)
  /-- KV_CREATE (R340). -/
  | kvCreate (q : Req)
  /-- KV_DESTROY (R339). -/
  | kvDestroy (q : Req)
  /-- KV_TRUNCATE (R339). -/
  | kvTruncate (q : Req)
  /-- KV_COPY (R339). -/
  | kvCopy (q : Req)
  /-- KV_SET (R339). -/
  | kvSet (q : Req)
  /-- KV_QUERY (R339). -/
  | kvQuery (q : Req)
  /-- KV_COMMAND_CARRY_OUT (R341). -/
  | kvCarryOut (id : Nat)
  /-- PWR_CAP (R442). -/
  | pwrCap (q : Req)
  /-- PWR_QUERY (R446). -/
  | pwrQuery (q : Req)
  /-- HBM_POINT (R257). -/
  | hbmPoint (q : Req)
  /-- HBM_POINT_CHANGE_COMPLETE (R257). -/
  | hbmPointChangeComplete (stack : Nat)
  /-- TEL_SET (R392). -/
  | telSet (q : Req)
  /-- TELEMETRY_PERIOD (R447). -/
  | telemetryPeriod (p : Nat)
  /-- EVT_ACK (R399). -/
  | evtAck (q : Req)
  /-- EVENT_RESEND (R399). -/
  | eventResend (p evt : Nat)
  /-- RESET (R480). -/
  | reset (q : Req)
  /-- CKPT_WRITE (R480). -/
  | ckptWrite (q : Req)
  /-- CKPT_READ (R480). -/
  | ckptRead (q : Req)
  /-- CKPT_TRANSFER_COMPLETE (R480). -/
  | ckptTransferComplete (id : Nat)
  /-- DUMP_READ (R480). -/
  | dumpRead (q : Req)
  /-- FLASH_UPDATE (R491). -/
  | flashUpdate (q : Req)
  /-- FLASH_WRITE_COMPLETE (R264). -/
  | flashWriteComplete (id : Nat)
  /-- JOB_SETUP (R414). -/
  | jobSetup (q : Req)
  /-- JOB_END (R417). -/
  | jobEnd (q : Req)
  /-- FAB_STATUS (R423). -/
  | fabStatus (q : Req)
  /-- DBG_OPEN (R368). -/
  | dbgOpen (q : Req)
  /-- DBG_CLOSE (R368). -/
  | dbgClose (q : Req)
  /-- DBG_READ (R368). -/
  | dbgRead (q : Req)
  /-- DBG_WRITE (R368). -/
  | dbgWrite (q : Req)
  /-- TIME_SYNC_MESSAGE (R377). -/
  | timeSyncMessage (port gmTime : Nat)
  /-- TIME_SYNC_LOSS (R377). -/
  | timeSyncLoss (regained : Bool) (port : Nat)
  /-- HOST_PORT_LINK_CHANGE (R487). -/
  | hostPortLinkChange (port : Nat) (up : Bool)
  /-- NEXT (R123). -/
  | next (c : Nat)
  /-- LOOP (R123). -/
  | loop (c : Nat) (level : BitVec 2) (count : BitVec 16)
  /-- ENDLOOP (R123). -/
  | endLoop (c : Nat) (level : BitVec 2)
  /-- END (R124). -/
  | endSlot (c : Nat)
  /-- PHASE_HINT (R125). -/
  | phaseHint (c : Nat) (opp : BitVec 3)
  /-- ANOP (R142). -/
  | anop (c : Nat)
  /-- FRONT (R95). -/
  | front (c : Nat) (frond wfmt afmt sa : BitVec 4) (off : BitVec 13)
  /-- ISSUE (R108). -/
  | issue (c : Nat) (frond : BitVec 4) (share : BitVec 2) (e0 : BitVec 8) (gen : Bool) (acc ports : BitVec 2)
  /-- MODE (R106). -/
  | mode (c : Nat) (m : BitVec 2)
  /-- VNOP (R147). -/
  | vnop (c : Nat)
  /-- VLD (R147). -/
  | vld (c : Nat) (vd sa ss : BitVec 4) (post port : Bool) (fmt : BitVec 4) (raw : Bool)
  /-- VST (R150). -/
  | vst (c : Nat) (vs sa ss : BitVec 4) (post : Bool) (shift : BitVec 5) (fmt : BitVec 4) (sr raw srcint : Bool)
  /-- ACCRD (R147). -/
  | accrd (c : Nat) (vd : BitVec 4) (entry : BitVec 8)
  /-- VADD (R147). -/
  | vadd (c : Nat) (vd va vb : BitVec 4)
  /-- VSUB (R147). -/
  | vsub (c : Nat) (vd va vb : BitVec 4)
  /-- VMUL (R147). -/
  | vmul (c : Nat) (vd va vb : BitVec 4)
  /-- VFMA (R147). -/
  | vfma (c : Nat) (vd va vb : BitVec 4)
  /-- VMAX (R75). -/
  | vmax (c : Nat) (vd va vb : BitVec 4)
  /-- VMIN (R75). -/
  | vmin (c : Nat) (vd va vb : BitVec 4)
  /-- VADDS (R147). -/
  | vadds (c : Nat) (vd va sb : BitVec 4)
  /-- VMULS (R147). -/
  | vmuls (c : Nat) (vd va sb : BitVec 4)
  /-- VEXP2 (R76). -/
  | vexp2 (c : Nat) (vd va : BitVec 4)
  /-- VEXP (R76). -/
  | vexp (c : Nat) (vd va : BitVec 4)
  /-- VRCP (R76). -/
  | vrcp (c : Nat) (vd va : BitVec 4)
  /-- VRSQRT (R76). -/
  | vrsqrt (c : Nat) (vd va : BitVec 4)
  /-- VDIV (R76). -/
  | vdiv (c : Nat) (vd va vb : BitVec 4)
  /-- VSUMR (R148). -/
  | vsumr (c : Nat) (vd va : BitVec 4)
  /-- VMAXR (R147). -/
  | vmaxr (c : Nat) (vd va : BitVec 4)
  /-- VABS (R147). -/
  | vabs (c : Nat) (vd va : BitVec 4)
  /-- VNEG (R147). -/
  | vneg (c : Nat) (vd va : BitVec 4)
  /-- VCVTIF (R147). -/
  | vcvtif (c : Nat) (vd va : BitVec 4)
  /-- VCVTFI (R147). -/
  | vcvtfi (c : Nat) (vd va : BitVec 4)
  /-- VIADD (R147). -/
  | viadd (c : Nat) (vd va vb : BitVec 4)
  /-- VMOV (R147). -/
  | vmov (c : Nat) (vd va : BitVec 4)
  /-- SNOP (R152). -/
  | snop (c : Nat)
  /-- LI (R152). -/
  | li (c : Nat) (sd : BitVec 4) (imm : BitVec 12)
  /-- LUI (R152). -/
  | lui (c : Nat) (sd : BitVec 4) (imm : BitVec 12)
  /-- ADD (R152). -/
  | add (c : Nat) (sd sa sb : BitVec 4)
  /-- SUB (R152). -/
  | sub (c : Nat) (sd sa sb : BitVec 4)
  /-- ADDI (R152). -/
  | addi (c : Nat) (sd sa : BitVec 4) (imm : BitVec 8)
  /-- AND (R152). -/
  | and (c : Nat) (sd sa sb : BitVec 4)
  /-- OR (R152). -/
  | or (c : Nat) (sd sa sb : BitVec 4)
  /-- XOR (R152). -/
  | xor (c : Nat) (sd sa sb : BitVec 4)
  /-- SHL (R152). -/
  | shl (c : Nat) (sd sa : BitVec 4) (n : BitVec 6)
  /-- SHR (R152). -/
  | shr (c : Nat) (sd sa : BitVec 4) (n : BitVec 6)
  /-- LDN (R152). -/
  | ldn (c : Nat) (sd sa : BitVec 4) (imm : BitVec 8)
  /-- STN (R162). -/
  | stn (c : Nat) (sb sa : BitVec 4) (imm : BitVec 8)
  /-- WREG (R153). -/
  | wreg (c : Nat) (num : BitVec 8) (sa : BitVec 4)
  /-- RDREG (R153). -/
  | rdreg (c : Nat) (sd : BitVec 4) (num : BitVec 8)
  /-- YNOP (R127). -/
  | ynop (c : Nat)
  /-- WAITSEM (R127). -/
  | waitsem (c : Nat) (sem : BitVec 8) (dl : BitVec 2) (n : BitVec 6)
  /-- SIGSEM (R130). -/
  | sigsem (c : Nat) (epoch : BitVec 16) (sem : BitVec 8) (n : BitVec 6)
  /-- ARRIVE (R208). -/
  | arrive (c : Nat) (epoch : BitVec 16) (bar : BitVec 5)
  /-- WAITBAR (R131). -/
  | waitbar (c : Nat) (bar : BitVec 5) (dl : BitVec 2)
  /-- ARRWAIT (R127). -/
  | arrwait (c : Nat) (epoch : BitVec 16) (bar : BitVec 5) (dl : BitVec 2)
  /-- CKPT (R210). -/
  | ckpt (c : Nat) (epoch : BitVec 16) (bar : BitVec 5) (dl : BitVec 2)
  /-- WAITHALF (R127). -/
  | waithalf (c : Nat) (stream : BitVec 6) (half : Bool) (dl : BitVec 2)
  /-- RELHALF (R190). -/
  | relhalf (c : Nat) (epoch : BitVec 16) (stream : BitVec 6) (half : Bool)
  /-- SWAP (R166). -/
  | swap (c : Nat) (pair : BitVec 4)
  /-- YIELDPT (R135). -/
  | yieldpt (c : Nat)
  /-- BARRIER_RELEASE (R208). -/
  | barrierRelease (p b : Nat)
  /-- FILLER_RAMP_DOWN_START (R443). -/
  | fillerRampDown (c : Nat)
  /-- WAIT_SATISFIED (R126). -/
  | waitSatisfied (c n : Nat)
  /-- WAIT_BUDGET_EXPIRY (R135). -/
  | waitBudgetExpiry (c : Nat)
  /-- HEARTBEAT (R140). -/
  | heartbeat (c : Nat)
  /-- HEARTBEAT_LOSS (R449). -/
  | heartbeatLoss (c : Nat)
  /-- CLU_SR_SEED_HI_WRITE (R85). -/
  | seedHiWrite (p lcid : Nat) (value : Word)
  /-- OAG_START (R113). -/
  | oagStart (p lcid gen : Nat) (value : Word)
  /-- SEQ_SLOT_CFG_WRITE (R514). -/
  | slotCfgWrite (p lcid n : Nat) (value : Word)
  /-- SPD_DBUF_WRITE (R164). -/
  | dbufWrite (p lcid n : Nat) (value : Word)
  /-- SCRATCHPAD_FILL (R171). -/
  | scratchpadFill (p lcid : Nat)
  /-- SCRATCHPAD_COPY (R171). -/
  | scratchpadCopy (p lcid : Nat)
  /-- FILL_COPY_COMPLETE (R170). -/
  | fillCopyComplete (c : Nat)
  /-- SPD_BANK_PWR_WRITE (R173). -/
  | bankPwrWrite (p lcid : Nat) (value : Word)
  /-- BANK_POWER_ON_COMPLETE (R173). -/
  | bankPowerOnComplete (c bank : Nat)
  /-- STR_SEM_WRITE (R207). -/
  | semWrite (p region k : Nat) (value : Word)
  /-- STR_BAR_MASK_WRITE (R213). -/
  | barMaskWrite (p bar : Nat) (hi : Bool) (value : Word)
  /-- SMBUS_WRITE (R511). -/
  | smbusWrite (code : Byte) (value : Word) (pecOk : Bool)
  /-- SMBUS_ALERT_RESPONSE (R510). -/
  | smbusAlertResponse
  /-- WHEEL_POSITION (R200). -/
  | wheelPosition (wheel pos : Nat)
  /-- STREAM_REQUEST_COMPLETE (R190). -/
  | streamRequestComplete (region stream : Nat)
  /-- STREAM_IDLE_RETURN (R196). -/
  | streamIdleReturn (region stream : Nat)
  /-- TRANSLATION_WALK_COMPLETE (R222). -/
  | translationWalkComplete (region stream : Nat)
  /-- HALF_DEADLINE (R192). -/
  | halfDeadline (region stream : Nat) (half : Bool)
  /-- BLOCK_EMISSION (R279). -/
  | blockEmission (c lane : Nat)
  /-- OUTBOUND_BLOCK_CODING (R285). -/
  | outboundBlockCoding (region : Nat)
  /-- LIFT_COMPLETE (R228). -/
  | liftComplete (lidx : Nat)
  /-- DROP_COMPLETE (R228). -/
  | dropComplete (lidx : Nat)
  /-- FLASH_SECTOR_READ_COMPLETE (R262). -/
  | flashSectorReadComplete (slot sector : Nat) (outcome : FlashOutcome)
  /-- HBM_REFRESH_DUE (R251). -/
  | hbmRefreshDue (stack pch group : Nat)
  /-- REFRESH_MAKEUP_BURST (R252). -/
  | refreshMakeupBurst (stack pch group : Nat)
  /-- MAINTENANCE_WINDOW (R249). -/
  | maintenanceWindow (stack pch : Nat)
  /-- DRIVE_STRENGTH_CALIBRATION (R254). -/
  | driveStrengthCalibration (stack : Nat)
  /-- FRAME_ZEROED (R259). -/
  | frameZeroed (frame : Nat)
  /-- ATTENTION_TASK_READY (R326). -/
  | attentionTaskReady (e : Nat)
  /-- ATTENTION_TASK_COMPLETE (R326). -/
  | attentionTaskComplete (e : Nat)
  /-- COLLAPSE_SUPPLY_SAMPLE (R176). -/
  | collapseSupplySample (c millivolts : Nat)
  /-- COLLAPSE_FAILURE (R177). -/
  | collapseFailure (c : Nat)
  /-- CLUSTER_REINTEGRATION (R478). -/
  | clusterReintegration (c : Nat) (bistPass : Bool)
  /-- POWER_SAMPLE (R426). -/
  | powerSample (rails : List RailReading) (temps : List Int)
  /-- LOOP_BOUNDARY (R438). -/
  | loopBoundary (meanVin : Nat)
  /-- OPP_SWITCH (R428). -/
  | oppSwitch (d : Nat)
  /-- THERMAL_TRIP (R445). -/
  | thermalTrip (sensor : Nat) (temp : Int)
  /-- CONTEXT_RESET (R452). -/
  | contextReset (p ctx cause : Nat)
  /-- CLUSTER_SUBSTITUTION (R462). -/
  | clusterSubstitution (c cause : Nat)
  /-- ATTENTION_ENGINE_RESET (R465). -/
  | attentionEngineReset (e cause : Nat)
  /-- STREAM_ENGINE_RESET (R465). -/
  | streamEngineReset (region cause : Nat)
  /-- PARTITION_RESET (R452). -/
  | partitionReset (p cause : Nat)
  /-- DIE_RESET (R452). -/
  | dieReset (d cause : Nat) (selfRefresh : Bool) (patterns : List PatternErrs) (bistFail : List Nat)
  /-- PACKAGE_RESET (R452). -/
  | packageReset (cause : Nat)
  /-- RECOVERY_STEP_COMPLETE (R466). -/
  | recoveryStepComplete (id : Nat)
  /-- STEP_WATCHDOG_EXPIRY (R453). -/
  | stepWatchdogExpiry (id : Nat)
  /-- MGMT_START_TIMEOUT (R454). -/
  | mgmtStartTimeout
  /-- TALLY_SCAN (R469). -/
  | tallyScan
  /-- SUSPECT_REPLAY (R470). -/
  | suspectReplay (p ctx : Nat)
  /-- NO_PROGRESS_WATCHDOG (R471). -/
  | noProgressWatchdog (p ctx : Nat)
  /-- PORT_BRING_UP (R403). -/
  | portBringUp (port : Nat) (m : LinkMeasure)
  /-- PORT_BRING_UP_RETRY (R403). -/
  | portBringUpRetry (port : Nat)
  /-- HELLO (R404). -/
  | hello (port : Nat) (h : HelloMsg)
  /-- CABLE_PRESENCE_CHANGE (R499). -/
  | cablePresenceChange (port : Nat) (present : Bool)
  /-- HOP_ACKNOWLEDGE (R406). -/
  | hopAcknowledge (port hseq : Nat)
  /-- HOP_REPLAY_REQUEST (R406). -/
  | hopReplayRequest (port hseq : Nat)
  /-- FEC_UNCORRECTABLE_CODEWORD (R406). -/
  | fecUncorrectable (port : Nat)
  /-- LINK_CREDIT_TIMEOUT (R406). -/
  | linkCreditTimeout (port vc : Nat)
  /-- LINK_SILENCE_TIMEOUT (R406). -/
  | linkSilenceTimeout (port : Nat) (lockLost : Bool)
  /-- PORT_FRAME_SEND (R416). -/
  | portFrameSend (port : Nat)
  /-- DATA_FRAME (R411). -/
  | dataFrame (port : Nat) (bytes : List Byte)
  /-- FLOW_ACKNOWLEDGE (R411). -/
  | flowAcknowledge (job dst flow fseq : Nat)
  /-- FLOW_NEGATIVE_ACKNOWLEDGE (R411). -/
  | flowNegativeAcknowledge (job dst flow fseq : Nat)
  /-- FLOW_RESEND_TIMER (R411). -/
  | flowResendTimer (job dst flow fseq : Nat)
  /-- EPOCH_NOTICE (R408). -/
  | epochNotice (port : Nat) (bytes : List Byte)
  /-- BARRIER_FRAME (R418). -/
  | barrierFrame (port job bar gen src dst : Nat) (release : Bool)
  /-- JOB_BARRIER_TIMEOUT (R419). -/
  | jobBarrierTimeout (p bar : Nat)
  /-- COLLECTIVE_COMPLETE (R422). -/
  | collectiveComplete (id : Nat) (ok : Bool)
  /-- PWR_EN_RISE (R505). -/
  | pwrEnRise
  /-- PWR_EN_FALL (R506). -/
  | pwrEnFall
  /-- POWER_OFF_HOLD_END (R506). -/
  | powerOffHoldEnd
  /-- RESET_N_ASSERT (R507). -/
  | resetNAssert (lowNs : Nat)
  /-- VIN_LOCKOUT (R504). -/
  | vinLockout (volts lastedNs : Nat)
  /-- TRIP_HOLD_END (R508). -/
  | tripHoldEnd
  /-- BOOT_SEQUENCE (R487). -/
  | bootSequence (r : BootResults)
  /-- BOOT_READY (R488). -/
  | bootReady
  /-- REPAIR_RECORD_WRITE (R490). -/
  | repairRecordWrite
  /-- RESET_N_RELEASE (R507). -/
  | resetNRelease
  /-- VAUX_CHANGE (R505). -/
  | vauxChange (applied : Bool)
  /-- VIN_ENTERS_RANGE (R505). -/
  | vinEntersRange (volts : Nat)
  /-- DEBUG_SCAN_ACCESS (R368). -/
  | debugScanAccess (boundary : Bool) (tdi : List Bool)
  /-- OPP_TRANSITION_END (R428). -/
  | oppTransitionEnd (d : Nat)
  /-- SECTOR_REFRESH_REWRITE_COMPLETE (R262). -/
  | sectorRefreshRewriteComplete (slot sector : Nat)
  /-- CHECKPOINT_CAPTURE_COMPLETE (R457). -/
  | checkpointCaptureComplete (c : Nat)
  deriving DecidableEq, Repr

end Sys2Proof
end

