-- ==== Sys2Proof/Machine/State.lean ====
section
/-! DEFINITION. The state of the block: plain data holding everything the spec gives the machine (INVENTORY.md, State). -/

namespace Sys2Proof.Machine

/-- Why a command stops the model. No command the spec gives an effect raises one. -/
inductive Fault where
  /-- Raised by no command of this model: every access of the block that the spec forbids is refused by status or
  handled as the fault causes of R449 say, which are next states. Safe. -/
  | outsideAddressSpace
  deriving DecidableEq, Repr

/-- Why a command has no meaning in the model. -/
inductive Refusal where
  /-- The arm of exec has no meaning yet, by the mnemonic of the opcode table. Safe. -/
  | notModelled (mnemonic : String)
  deriving DecidableEq, Repr

/-! ### Time -/

/-- The local count of R378, the timebase of R14 and R377, and the period of the cap loop (R434). -/
structure Clock where
  localNs  : Nat := 0
  timebase : Nat := 0
  /-- Nanoseconds still to be slewed into the timebase. -/
  slew     : Int := 0
  synced   : Bool := false
  holdover : Bool := false
  gmPort   : Nat := 0
  deriving DecidableEq, Repr

/-! ### Module pins and sideband (spec/18_module.md) -/

inductive PowerState where
  | off | sequencing | on | tripHold | faultOff
  deriving DecidableEq, Repr

structure ModulePins where
  vaux : Bool := false
  pwrEn : Bool := false
  resetN : Bool := true
  thermtripN : Bool := true
  sbAddr : BitVec 2 := 3
  st : PowerState := .off
  pcReq : Bool := false
  trip : Bool := false
  uvlo : Bool := false
  ovlo : Bool := false
  railFail : Bool := false
  tripHoldEnd : Option Nat := none
  offHoldEnd : Option Nat := none
  /-- PWR_EN has risen, and its start has not come yet (R505, R506, R508). -/
  armed : Bool := false
  tripTemp : Int := 0
  tripSensor : Nat := 0
  tripCount : Nat := 0
  tripReported : Bool := true
  vinVolts : Nat := 0
  vinPower : Nat := 0
  rails : Bool := false
  railReadings : List RailReading := []
  deriving DecidableEq, Repr

/-! ### Schedule slots and the sequencer (spec/04_cluster.md) -/

inductive SlotState where
  | empty | loaded | running | waiting | yielded | ended | cancelled | faulted
  deriving DecidableEq, Repr

/-- What a wait waits on (R127). -/
inductive WaitOn where
  | sem (k n : Nat)
  | bar (b gen : Nat)
  | half (stream : Nat) (half : Bool)
  deriving DecidableEq, Repr

/-- A wait that is satisfied: in which aclk, and what its satisfaction did, so that a cancel of the same aclk undoes it (R138): a semaphore
operation joined the log, one was absorbed by the log in replay, a half's first satisfaction was noted. -/
structure Taken where
  at_ : Nat
  logged : Bool := false
  absorbed : Bool := false
  first : Bool := false
  deriving DecidableEq, Repr

structure WaitRec where
  on : WaitOn
  budget : Nat
  since : Nat
  taken : Option Taken := none
  deriving DecidableEq, Repr

structure PlanRange where
  spd : Nat
  len : Nat
  src : Nat
  deriving DecidableEq, Repr

structure PlanRec where
  key : Nat
  ranges : List PlanRange
  deriving DecidableEq, Repr

/-- A task slot (R135 to R141, R514). -/
structure Slot where
  st : SlotState := .empty
  prio : Nat := 0
  base : Nat := 0
  len : Nat := 0
  ptr : Nat := 0
  depth : Nat := 0
  cnt : Store Nat := []
  start : Store Nat := []
  total : Store Nat := []
  part : Nat := 0
  ctx : Nat := 0
  dva : Nat := 0
  budgets : Store Nat := []
  yields : Nat := 0
  hint : Option Nat := none
  wait : Option WaitRec := none
  cancelling : Bool := false
  run : Nat := 0
  plan : List PlanRec := []
  /-- Held while another suspect replays (R470). -/
  held : Bool := false
  deriving DecidableEq, Repr

/-- A table that a SLOT_LOAD wrote and that no later one has overwritten (R514). -/
structure LoadedTable where
  base : Nat
  len : Nat
  part : Nat
  ctx : Nat
  dva : Nat
  plan : List PlanRec
  deriving DecidableEq, Repr

/-! ### The matrix array (spec/03_matrix_array.md) -/

/-- A weight front: its pairing, its timing, and the tile as the front read path has read it so far (R94 to R104). -/
structure Front where
  id : Nat
  frond : Nat
  wfmt : Nat
  afmt : Nat
  addr : Nat
  issued : Nat
  start : Nat
  groups : Nat
  side : Nat
  col : Nat
  dbuf : Store Word
  role : BitVec 16
  tile : List Byte
  scales : List Byte
  marks : List Bool
  /-- What each tile word read was last written as (Cluster.subst). -/
  tmarks : List Nat := []
  /-- The stream engine overwrote bytes it had not read yet (R134). -/
  torn : Bool := false
  /-- The context of the entry that started it. -/
  ctx : Nat := 0
  deriving DecidableEq, Repr

/-- An activation vector on its way through a frond, one lane of one ISSUE (R90, R91, R108). -/
structure VecFlight where
  frond : Nat
  front : Option Nat
  wfmt : Nat
  afmt : Nat
  issued : Nat
  side : Nat
  per : Nat
  acts : List (BitVec 16)
  scales : List Byte
  /-- The entry it writes first, before the numbers wrap modulo the slice (R108). -/
  entry : Nat
  add : Bool
  deriving DecidableEq, Repr

structure Frond where
  wfmt : Nat := 0
  afmt : Nat := 0
  front : Option Nat := none
  lastVec : Option Nat := none
  deriving DecidableEq, Repr

structure ArrayState where
  mode : Nat := 0
  modeUntil : Nat := 0
  fronds : Store Frond := []
  fronts : List Front := []
  vecs : List VecFlight := []
  acc : Store Word := []
  /-- The accumulation type that last wrote an entry: 0 none, 1 integer, 2 float. The MODEL's own: the device keeps no tag (R64). -/
  kinds : Store Nat := []
  /-- A result that no ACCRD has read yet: the entry number, before it wrapped, under which it was written, plus 1. The MODEL's own (R108). -/
  live : Store Nat := []
  nextId : Nat := 0
  deriving DecidableEq, Repr

/-- An operand address generator: its registers by local number and its walk (R110 to R113). -/
structure Oag where
  regs : Store Word := [(11, 0x00111100)]
  ky : Nat := 0
  kx : Nat := 0
  cb : Nat := 0
  b : Nat := 0
  oy : Nat := 0
  ox : Nat := 0
  pass : Nat := 0
  vec : Nat := 0
  done : Bool := true
  deriving DecidableEq, Repr

/-- A result on its way to its destination: it takes effect at the end of aclk `due` (R113, R128, R145, R151, R160). -/
inductive Landing where
  | vreg (r : Nat) (vals : List Word)
  | sreg (r : Nat) (val : DWord)
  | spd (addr : Nat) (bytes : List Byte)
  | stn (addr : Nat) (bytes : List Byte)
  | reg (num : Nat) (val : Word)
  | role (pair : Nat)
  | sem (region k n : Nat)
  | rel (region stream : Nat) (half : Bool)
  deriving DecidableEq, Repr

structure FlightItem where
  due : Nat
  /-- The aclk of issue: of two that land together the later issued takes effect (R145). -/
  issued : Nat
  what : Landing
  deriving DecidableEq, Repr

/-- A vector load reading its parts, one an aclk (R147, R160). -/
structure VldFlight where
  vd : Nat
  fmt : Nat
  raw : Bool
  issued : Nat
  parts : List (List Nat)
  total : Nat
  data : List Byte
  scale : List Byte
  lost : Bool
  /-- The context of the entry that started it. -/
  ctx : Nat := 0
  deriving DecidableEq, Repr

/-! ### Codec (spec/09_block_codec.md) -/

structure CodecSlot where
  valid : Bool := false
  image : List Byte := []
  deriving DecidableEq, Repr

/-- A lane buffer: the stored block of a stream as far as it has arrived (R278): its block number, DVA, bytes, the bytes asked for and
needed, the aclk of its last byte, and whether it failed once (R282). -/
structure LaneBuf where
  region : Nat
  stream : Nat
  half : Bool
  block : Nat
  dva : Nat
  bytes : List Byte
  asked : Nat
  /-- Bytes that have arrived, each at its place. -/
  got : Nat
  need : Nat
  headBack : Bool
  complete : Option Nat
  failed : Bool
  deriving DecidableEq, Repr

structure Lane where
  bufs : List LaneBuf := []
  lastEmit : Nat := 0
  deriving DecidableEq, Repr

/-! ### Clusters -/

inductive ClusterSvc where
  | outOfService
  | clean
  | owned
  | collapsing (since below : Nat) (reason : Nat)
  | fenced
  deriving DecidableEq, Repr

structure NumStatus where
  ternBad : Bool := false
  scaleNan : Bool := false
  nanOut : Bool := false
  infOut : Bool := false
  intSat : Bool := false
  cvtSat : Bool := false
  deriving DecidableEq, Repr

structure EccRec where
  ceCount : Nat := 0
  lastBank : Nat := 0
  lastRow : Nat := 0
  ue : Bool := false
  rowErrs : Store Nat := []
  /-- The defective row each spare row of the banks replaces, plus 1, by bank × 8 + spare; 0: the spare is free (R179). -/
  spareRows : Store Nat := []
  deriving DecidableEq, Repr

/-- Filler of a cluster (R443), in 256ths of the array's maximum current: a ramp of 16 steps from `start` to `target` over `span` ns
from local ns `since`, and the instant its ramp-down is to begin. -/
structure Filler where
  start : Nat := 0
  target : Nat := 0
  since : Nat := 0
  span : Nat := 0
  downDue : Option Nat := none
  deriving DecidableEq, Repr

/-- One entry of the semaphore log of R460. -/
structure SemOp where
  wait : Bool
  sem : Nat
  n : Nat
  deriving DecidableEq, Repr

/-- Replay mode of a lcid (R464): the log entries absorbed and the arrivals replayed. -/
structure Replay where
  pos : Nat := 0
  arrived : Store Nat := []
  deriving DecidableEq, Repr

/-- A capture under way: its last aclk and the keys of the plan records it uses, by slot (R457, R458). -/
structure Capture where
  endAt : Nat
  keys : List (Nat × Nat)
  deriving DecidableEq, Repr

structure FillCopy where
  copy : Bool
  dst : Nat
  src : Nat
  len : Nat
  part : Nat
  /-- Bytes moved so far, 128 an aclk (R171). -/
  moved : Nat := 0
  deriving DecidableEq, Repr

/-- A code word's bytes of an inbound stream that wait for slot W of their bank in the 16 KiB staging buffer (R163): the stream and half they
are of, where they go, how they were written (Cluster.subst). -/
structure Staged where
  region : Nat
  stream : Nat
  half : Bool
  addr : Nat
  bytes : List Byte
  form : Nat
  deriving DecidableEq, Repr

structure Cluster where
  svc : ClusterSvc := .outOfService
  lcid : Option Nat := none
  epoch : BitVec 16 := 0
  bistPass : Bool := false
  failed : Bool := false
  retired : Bool := false
  failCount : Nat := 0
  aclk : Nat := 0
  parked : Bool := false
  /-- When an unparked cluster's edges resume (R441). -/
  unparkAt : Option Nat := none
  lastBeat : Nat := 0
  slots : Store Slot := []
  cur : Nat := 0
  issueAt : Nat := 0
  /-- The fields of the entry at the current slot's pointer that have acted: array 0, vector 1, stream/sync 2, scalar 3, hint 4 (R120). -/
  acted : BitVec 5 := 0
  /-- The entry's YIELDPT found a ready slot of higher priority (R135). -/
  yielding : Bool := false
  table : Store (BitVec 128) := []
  loads : List LoadedTable := []
  sreg : Store DWord := []
  vreg : Store Word := []
  flight : List FlightItem := []
  vlds : List VldFlight := []
  entryW : List (Nat × Bool) := []
  uses : List (Nat × Nat × Nat) := []
  ports : List (Nat × Nat) := []
  arr : ArrayState := {}
  oag0 : Oag := {}
  oag1 : Oag := {}
  satFp : Bool := true
  num : NumStatus := {}
  seedLo : Word := 0
  seedHi : Word := 0
  seed : DWord := 0
  /-- The cluster epoch the committed seed is mixed with, on a reserve that took the lcid over (R71). -/
  mixed : Option (BitVec 16) := none
  draws : Nat := 0
  dbuf : Store Word := []
  role : BitVec 16 := 0
  bankPwr : Word := 0
  bankReady : Store Nat := []
  opDst : Word := 0
  opSrc : Word := 0
  opLen : Word := 0
  opPat : Word := 0
  op : BitVec 2 := 0
  opBusy : Option FillCopy := none
  staged : List Staged := []
  spd : Store Byte := []
  written : Store Bool := []
  /-- The substitution flag (R242) with how it came: 0 not set, 1 by a copy in element slots, 2 by a packed copy, 3 by a layout that
  breaks R238. Only 0 or not is the device's; the rest is the MODEL's own. -/
  subst : Store Nat := []
  /-- What the 288 stored bits of a code word differ by from the code word of its data (R156). -/
  spdErr : Store (BitVec 288) := []
  ecc : EccRec := {}
  codec : Store CodecSlot := []
  fail1 : Nat := 0
  fail2 : Nat := 0
  rawBlocks : Nat := 0
  lanes : Store Lane := []
  activity : Store Nat := []
  filler : Filler := {}
  replay : Option Replay := none
  capture : Option Capture := none
  deriving DecidableEq, Repr

/-! ### Streams (spec/06_streams_barriers.md) -/

/-- A stream descriptor (R185) with the arm command that brought it: its instant, session, number and context. -/
structure Desc where
  dva : Nat := 0
  length : Nat := 0
  run : Nat := 0
  n1 : Nat := 0
  n2 : Nat := 0
  n3 : Nat := 0
  s1 : Int := 0
  s2 : Int := 0
  s3 : Int := 0
  spdBase : Nat := 0
  spdHalf : Nat := 0
  rate : Nat := 0
  notify : Bool := false
  tslot : Nat := 0
  codec : Nat := 0
  dir : Nat := 0
  lcid : Nat := 0
  deadline : Nat := 0
  fallback : Nat := 0
  dva2 : Nat := 0
  ctx : Nat := 0
  session : Nat := 0
  seqNo : Nat := 0
  armed : Nat := 0
  deriving DecidableEq, Repr

inductive StreamState where
  | idle | active | faulted | stopping
  deriving DecidableEq, Repr

/-- One physical half of a stream's scratchpad range (R189 to R192): its holder, the descriptor and its byte range
given to it, the bytes requested and moved, and how each stream block of an inbound half stands (R239). -/
structure Half where
  desc : Option Desc := none
  eng : Bool := false
  handover : Nat := 0
  start : Nat := 0
  want : Nat := 0
  issued : Nat := 0
  got : Nat := 0
  ready : Bool := false
  /-- The aclk of its cluster in which it was marked ready; a wait sees it from the next on (R128). -/
  readyAt : Option Nat := none
  satisfied : Option Nat := none
  /-- Bytes of each stream block that are in the banks. -/
  land : Store Nat := []
  substd : List Nat := []
  /-- Ranges of missing blocks of kind 0 to be asked for again when their pages may be read: stream byte index and length (R239). -/
  again : List (Nat × Nat) := []
  expired : Bool := false
  /-- stream_late has been raised for it. -/
  lateSent : Bool := false
  deriving DecidableEq, Repr

/-- What a request of a stream is (R199, R276). -/
inductive ReqKind where
  | data | head | body
  /-- A read of a fallback table entry or a compact copy (R241). -/
  | subst
  deriving DecidableEq, Repr

/-- An entry of a descriptor's fallback table (R237): kind, slot width, weights, patch, source, whether it lies in the scratchpad. -/
structure FbEntry where
  kind : Nat
  slotw : Nat
  weights : Nat
  patch : Nat
  src : Nat
  spd : Bool
  deriving DecidableEq, Repr

/-- A missing block on its way to its substitution (R238 to R241): the bytes being read, of its table entry or, with the entry known, of its
compact copy. -/
structure SubJob where
  half : Bool
  block : Nat
  /-- Only when its patch lies in this block, which is of kind 2 and missing (R238). -/
  via : Option Nat
  /-- Asked for at the half's deadline. -/
  due : Bool
  /-- What is to be asked for again when the entry is of kind 0. -/
  ranges : List (Nat × Nat)
  entry : Option FbEntry
  dva : Nat
  len : Nat
  asked : Nat
  data : List Byte
  got : Nat
  deriving DecidableEq, Repr

/-- A request of a stream (R199): stream byte index, DVA and length, the bytes a write moves, the bytes it adds to the half or the
copy when it lands, its translation, and the bytes of remote and stack positions it still needs (R201). -/
structure StreamReq where
  write : Bool
  kind : ReqKind
  half : Bool
  idx : Nat
  dva : Nat
  len : Nat
  data : List Byte
  credit : Nat
  walking : Bool
  phys : Option Nat
  flash : Option (Nat × Nat)
  lidx : Option Nat
  /-- A window of a job (R415): job and window of its setup; the bytes still to be returned or acknowledged. -/
  window : Option (Nat × Nat)
  await : Nat
  remoteLeft : Nat
  left : Nat
  /-- Discarded when it completes: its half was substituted, or its stream stopped or rewound (R192, R195, R459). -/
  drop : Bool
  deriving DecidableEq, Repr

/-- Bytes an outbound or copy stream has ready to write: half, DVA, bytes and what they add when they land. -/
structure Piece where
  half : Bool
  dva : Nat
  bytes : List Byte
  credit : Nat
  deriving DecidableEq, Repr

structure Stream where
  st : StreamState := .idle
  active : Option Desc := none
  next : Option Desc := none
  retired : List Desc := []
  /-- The descriptor last active, whose range names the halves while none is (R167). -/
  last : Option Desc := none
  cause : Nat := 0
  h0 : Half := {}
  h1 : Half := {}
  nextHalf : Bool := false
  handed : Nat := 0
  done : Nat := 0
  reqs : List StreamReq := []
  pieces : List Piece := []
  subs : List SubJob := []
  fidelity : Nat := 0
  descFb : Nat := 0
  relDup : Bool := false
  late : Bool := false
  /-- The dry instant of R198 in the units of dryUnit; none: infinity. -/
  dry : Option Nat := none
  deriving DecidableEq, Repr

/-! ### Attention (spec/11_attention_kv.md) -/

structure KvBlock where
  pos : Nat
  count : Nat
  span : Nat
  slot : Nat
  score : Word
  deriving DecidableEq, Repr

/-- The record of a list (R324) with the blocks its committed table names. -/
structure KvList where
  active : Bool := false
  gen : Nat := 0
  crc : Word := 0
  blocks : List KvBlock := []
  last : Nat := 0xFFFFFFFF
  run : Nat := 0
  task : Nat := 0
  broken : Bool := false
  deriving DecidableEq, Repr

/-- A sequence: its descriptor (R320) and the records of its lists. -/
structure KvSeq where
  valid : Bool := false
  part : Nat := 0
  ctx : Nat := 0
  kvBase : Nat := 0
  kvLen : Nat := 0
  layers : Nat := 0
  heads : Nat := 0
  g : Nat := 0
  dim : Nat := 0
  fmt : Nat := 0
  pe : Nat := 0
  pair : Bool := false
  sink : Bool := false
  budget : Nat := 0
  budget0 : Nat := 0
  anchors : Nat := 0
  recent : Nat := 0
  recent0 : Nat := 0
  ropeDims : Nat := 0
  window : Nat := 0
  smScale : Word := 0
  kScale : Word := 0
  vScale : Word := 0
  decay : Word := 0
  ropeBase : Word := 0
  engines : BitVec 16 := 0
  lists : Store KvList := []
  deriving DecidableEq, Repr

/-- A task descriptor (R325). -/
structure AttnTask where
  seq : Nat
  layer : Nat
  h0 : Nat
  hcount : Nat
  append : Bool
  attend : Bool
  srcDva : Bool
  dstDva : Bool
  qfmt : Nat
  ofmt : Nat
  tokens : Nat
  p0 : Nat
  span : Nat
  lcid : Nat
  q : Nat
  k : Nat
  v : Nat
  o : Nat
  wsem : Nat
  wn : Nat
  ssem : Nat
  sn : Nat
  due : Nat
  bad : Bool
  deriving DecidableEq, Repr

/-- A request of an attention engine (R319): where it goes, none for a page in flash, and the bytes of remote and stack positions it still
needs (R201). -/
structure EngReq where
  write : Bool
  phys : Option Nat
  len : Nat
  remoteLeft : Nat
  left : Nat
  deriving DecidableEq, Repr

/-- What a task has computed and not yet committed (R324, R326), the timebase at which it was ready, and its requests that still need
positions (R319). -/
structure AttnWork where
  task : AttnTask
  lists : List (Nat × KvList)
  evicted : Nat
  outs : List (Nat × List Byte)
  ready : Nat
  reqs : List EngReq
  deriving DecidableEq, Repr

inductive EngState where
  | idle | running | holding | faulted | resetting
  deriving DecidableEq, Repr

structure Engine where
  st : EngState := .idle
  part : Option Nat := none
  run : Nat := 0
  ctx : Nat := 0
  dva : Nat := 0
  count : Nat := 0
  index : Nat := 0
  waitDone : Bool := false
  work : Option AttnWork := none
  faultValid : Bool := false
  faultCause : Nat := 0
  faultCtx : Nat := 0
  faultSeq : Nat := 0
  races : Nat := 0
  evict : Nat := 0
  parked : Bool := false
  activity : Nat := 0
  deriving DecidableEq, Repr

/-! ### Regions -/

structure StreamRec where
  stream : Nat
  /-- Fallback blocks of the active descriptor so far (R193). -/
  descFb : Nat
  active : Option Desc
  next : Option Desc
  h0 : Half
  h1 : Half
  nextHalf : Bool
  handed : Nat
  done : Nat
  deriving DecidableEq, Repr

/-- The state part and carry part of a mirror image (R455). -/
structure Image where
  slots : Store Slot
  cur : Nat
  sreg : Store DWord
  oag0 : Oag
  oag1 : Oag
  satFp : Bool
  seed : DWord
  mixed : Option (BitVec 16)
  dbuf : Store Word
  role : BitVec 16
  streams : List StreamRec
  arrivals : Store Nat
  carry : List (Nat × List Byte)
  /-- The ranges that a restore reads from memory. -/
  dvas : List PlanRange
  deriving DecidableEq, Repr

/-- The mirror slice of one lcid (R455) with the semaphore log of R460. -/
structure Mirror where
  current : Option Image := none
  log : List SemOp := []
  overflow : Bool := false
  deriving DecidableEq, Repr

structure TlbEntry where
  set : Nat
  way : Nat
  part : Nat
  page : Nat
  large : Bool
  deriving DecidableEq, Repr

/-- A walk in flight (R222). -/
structure Walk where
  part : Nat
  page : Nat
  stream : Nat
  /-- Physical addresses still to be read, and whether the first still needs its remote position. -/
  reads : List Nat
  remote : Bool
  /-- Every address the walk reads. -/
  addrs : List Nat
  deriving DecidableEq, Repr

structure Region where
  sems : Store Nat := []
  semFlight : List (Nat × Nat × Nat) := []
  /-- Signals of the region's engine on their way: semaphore, count, local ns (R326). -/
  sigFlight : List (Nat × Nat × Nat) := []
  streams : Store Stream := []
  eng : Engine := {}
  mirror : Store Mirror := []
  tlb : List TlbEntry := []
  l1cache : List (Nat × Nat) := []
  walks : List Walk := []
  reserve : Option Nat := none
  busy : Bool := false
  inUse : Bool := false
  block : Nat := 0
  /-- Raw blocks read for the region encoder: stream, half, stream byte index (R285). -/
  encQueue : List (Nat × Bool × Nat) := []
  /-- The bytes read so far of the block at the queue's front. -/
  encData : List Byte := []
  deriving DecidableEq, Repr

structure Die where
  opp : Nat := 0
  target : Option Nat := none
  pendTarget : Option Nat := none
  switchDone : Bool := true
  switchAt : Nat := 0
  endAt : Nat := 0
  toEdge : Nat := 420
  edges : Nat := 0
  /-- The next gap between edges is the 40 ns of a switch (R428). -/
  gap : Bool := false
  request : Nat := 0
  limit : Nat := 22
  lock : Nat := 5
  junction : Int := 0
  stackTemp : Int := 0
  hot : Bool := false
  allCool : Bool := true
  out : Bool := false
  deriving DecidableEq, Repr

/-! ### Memory tiers -/

/-- A page of a partition's DVA space as its level-2 entry holds it (R217). -/
structure Pte where
  v : Bool := false
  lg : Bool := false
  rd : Bool := false
  wr : Bool := false
  wt : Bool := false
  fl : Bool := false
  lidx : Nat := 0
  frame : Nat := 0
  deriving DecidableEq, Repr

inductive FrameUse where
  | free
  | used (part : Nat)
  | zeroing (part : Nat) (teardown : Bool)
  | retired
  deriving DecidableEq, Repr

structure Frame where
  use : FrameUse := .free
  marked : Bool := false
  ces : List Nat := []
  deriving DecidableEq, Repr

inductive LState where
  | free | flash | lifting | hbm | hbmOnly | dropping | absent
  deriving DecidableEq, Repr

/-- A ledger entry (R226). -/
structure LedgerEntry where
  st : LState := .free
  dpage : Nat := 0
  slot : Option Nat := none
  frame : Nat := 0
  part : Nat := 0
  pin : Bool := false
  suspect : Bool := false
  inflight : Nat := 0
  liftHeld : Bool := false
  sectors : List Nat := []
  deriving DecidableEq, Repr

structure Stack where
  postEn : Bool := true
  point : Nat := 0
  failed : Bool := false
  riskNs : Nat := 2000
  interval : Nat := 3900
  makeups : Nat := 0
  owedPeak : Nat := 0
  owed : Store Nat := []
  dlySel : Word := 0
  delays : Store Nat := []
  /-- The data-rate points whose delay set the delay record in use holds (R253). -/
  sets : BitVec 4 := 0
  /-- The point whose timing and delay sets are active (R257). -/
  setPoint : Nat := 0
  /-- The last due time of each refresh group that has been met, plus 1; 0: none yet (R250). -/
  refAt : Store Nat := []
  /-- The point whose timing and delay sets the shadow registers hold (R257). -/
  shadow : Option Nat := none
  changing : Option Nat := none
  ceCount : Nat := 0
  lastPch : Nat := 0
  lastLane : Nat := 0
  laneWarn : Bool := false
  laneErrs : Store (List Nat) := []
  ue : Bool := false
  passes : Nat := 0
  /-- The next chunk of the pass, and the local ns the pass began at (R258). -/
  patrol : Nat := 0
  patrolFrom : Nat := 0
  selfRefresh : Bool := false
  calAt : Nat := 0
  /-- The row each bank of each pseudo-channel holds open, plus 1; 0: none (R248). -/
  rows : Store Nat := []
  /-- The timebase at which each pseudo-channel's last maintenance window began, plus 1; 0: none yet (R249). -/
  windows : Store Nat := []
  deriving DecidableEq, Repr

/-- A position of a wheel (R201, R204): who holds it, as a write position, and since when. -/
structure WheelPos where
  owner : Option Nat := none
  write : Bool := false
  order : Nat := 0
  zeroing : Bool := false
  deriving DecidableEq, Repr

structure FlashCkpt where
  part : Nat
  id : Nat
  len : Nat
  sealed : List Byte
  good : Bool
  deriving DecidableEq, Repr

structure KeptPackage where
  part : Nat
  model : Nat
  rev : Nat
  manifest : List Byte
  shards : Store (List Byte)
  /-- Every sector of it can be read (R263). -/
  good : Bool := true
  deriving DecidableEq, Repr

/-- The header of a flash sector: what it names, and its write sequence (R261). -/
structure SectorHead where
  slot : Nat := 0
  sector : Nat := 0
  seq : Nat := 0
  deriving DecidableEq, Repr

structure Flash where
  records : Store (List Byte) := []
  slots : Store (List Byte) := []
  usedSlots : Store Nat := []
  /-- The headers of the sectors of page slots, by slot × 16 + sector (R261). -/
  heads : Store SectorHead := []
  /-- Record copies with an uncorrectable sector, by type × 2 + copy (R263). -/
  unread : List Nat := []
  ckpts : List FlashCkpt := []
  kept : List KeptPackage := []
  /-- Sectors written outside the reserved area, and the mean erase count of the data blocks they come to (R265). -/
  written : Nat := 0
  erases : Nat := 0
  wearRaised : Bool := false
  /-- Channels out of service (R266). -/
  failedCh : BitVec 32 := 0
  /-- How the last sector read was reported: slot, sector, outcome (R262). -/
  report : Option (Nat × Nat × FlashOutcome) := none
  soft : Nat := 0
  ue : Nat := 0
  rewritten : Nat := 0
  threshold : Nat := 0
  rewrites : List (Nat × Nat) := []
  updBuf : List Byte := []
  updTotal : Nat := 0
  writing : Option Nat := none
  deriving DecidableEq, Repr

/-! ### Weights (spec/10_weights.md) -/

inductive ShardState where
  | waiting | fetching | placing | resident | suspect | missing
  deriving DecidableEq, Repr

structure Shard where
  st : ShardState := .waiting
  kind : Bool := false
  pin : Bool := false
  offset : Nat := 0
  length : Nat := 0
  nonce : List Byte := []
  digest : List Byte := []
  source : Nat := 0
  tries : Nat := 0
  peersTried : List Nat := []
  received : List Byte := []
  /-- A try is open. -/
  trying : Bool := false
  /-- It was missing from a resident epoch, so its return is reported (R303). -/
  restoring : Bool := false
  lastByte : Nat := 0
  lastCause : Nat := 0
  /-- Sources whose bytes had the right tag and another digest: the source's code, and the device of a peer (R298). -/
  mismatches : List (Nat × Nat) := []
  plain : List Byte := []
  hashedAt : Nat := 0
  hashing : Bool := false
  deriving DecidableEq, Repr

structure LayerRec where
  first : Nat
  count : Nat
  fb : Bool
  deriving DecidableEq, Repr

structure PrefetchEntry where
  dva : Nat
  pages : Nat
  start : Nat
  last : Nat
  drop : Bool
  deriving DecidableEq, Repr

structure Schedule where
  barrier : Nat
  cycle : Nat
  entries : List PrefetchEntry
  deriving DecidableEq, Repr

inductive EpochState where
  | empty | loading | standby | current | draining
  deriving DecidableEq, Repr

structure Epoch where
  st : EpochState := .empty
  revision : Nat := 0
  degraded : Bool := false
  stream : Bool := false
  darino : Bool := false
  keyId : Nat := 0
  modelKey : List Byte := []
  wbase : Nat := 0
  fbase : Nat := 0
  wsize : Nat := 0
  fsize : Nat := 0
  pool : Nat := 0
  keep : Bool := false
  srcOrder : Byte := 0
  peers : List Nat := []
  peerJob : Nat := 0
  devices : List (List Byte) := []
  manifest : List Byte := []
  shards : Store Shard := []
  nshards : Nat := 0
  layers : List LayerRec := []
  tables : List Nat := []
  sched : Option Schedule := none
  pos : Nat := 0
  ledBase : Nat := 0
  pageKey : List Byte := []
  /-- Frames of its pool that hold no page (R230). -/
  free : List Nat := []
  digestFails : Nat := 0
  tryFails : Nat := 0
  work : Option Nat := none
  lastRetry : Nat := 0
  releasing : Bool := false
  deriving DecidableEq, Repr

structure Model where
  valid : Bool := false
  part : Nat := 0
  modelId : Nat := 0
  cur : Nat := 0
  rehash : Nat := 600
  ep0 : Epoch := {}
  ep1 : Epoch := {}
  deriving DecidableEq, Repr

/-! ### Partitions (spec/12_partitions_security.md) -/

structure Context where
  quarantined : Bool := false
  restart : Nat := 0
  pausedAt : Option Nat := none
  held : Bool := false
  deriving DecidableEq, Repr

/-- A barrier id of a partition (R208 to R213, R418). `gen` is the generation its members' waits see; `released` counts the
generations released whose release has not reached the members yet, so the generation arrivals count to is gen + released. -/
structure Barrier where
  mask : BitVec 64 := 0
  gen : BitVec 16 := 0
  ckpt : Bool := false
  near : Bool := false
  arrived : BitVec 64 := 0
  /-- The generation an lcid last arrived at, plus 1; 0 when it has made none since the generation was set to 0. -/
  lastArr : Store Nat := []
  released : Nat := 0
  relCkpt : List Bool := []
  /-- For each release on its way, on a barrier within one die: the cluster of the last arrival and the aclk of it in which the members see
  the release (R5, R128). -/
  relAt : List (Option (Nat × Nat)) := []
  /-- The schedule entries whose CKPT arrived, by lcid: slot and pointer (R457). -/
  ckptPtr : Store (Option (Nat × Nat)) := []
  job : Option Nat := none
  localDone : Option Nat := none
  children : List Nat := []
  timedOut : Bool := false
  /-- PWR_FILLp as the generation's filler uses it. -/
  fill : Word := 0
  deriving DecidableEq, Repr

/-- An admitted request (R394). -/
structure Request where
  id : Nat
  handle : Nat
  epoch : Nat
  rev : Nat
  ctx : Nat
  session : Nat
  seqNo : Nat
  ending : Bool
  fidelity : Nat
  runs : Nat
  served : Nat
  deriving DecidableEq, Repr

/-- An event packet's content (R397). -/
structure Event where
  code : Nat
  status : Nat
  part : Nat
  ctx : Nat
  origSeq : Nat
  origOp : Nat
  payload : List Byte
  stamp : Nat
  deriving DecidableEq, Repr

/-- A ring entry (R399): the event, the sessions yet to acknowledge it with their numbers, its sendings. -/
structure RingEntry where
  id : Nat
  ev : Event
  due : List (Nat × Nat)
  toAll : Bool
  sends : Nat
  last : Nat
  deriving DecidableEq, Repr

structure Partition where
  valid : Bool := false
  conf : Bool := false
  tearing : Bool := false
  tearStep : Nat := 0
  prio : Nat := 0
  power : Nat := 0
  lcids : BitVec 64 := 0
  engines : BitVec 16 := 0
  ctxBase : Nat := 0
  ctxCount : Nat := 0
  seqBase : Nat := 0
  seqCount : Nat := 0
  hndBase : Nat := 0
  hndCount : Nat := 0
  quota : Store Nat := []
  ways : Store Nat := []
  wayBase : Store Nat := []
  strBase : Store Nat := []
  strCount : Store Nat := []
  semBase : Store Nat := []
  semCount : Store Nat := []
  awnRd : Word := 0
  awnWr : Word := 0
  awnRm : Word := 0
  borrow : BitVec 3 := 0
  tenant : List Byte := []
  measure : List Byte := []
  contexts : Store (Option Context) := []
  barriers : Store Barrier := []
  root : Nat := 0
  /-- The level-2 tables that valid level-1 entries point to, by level-1 index, in 128 KiB units; 0: the entry is not valid (R217). -/
  tables : Store Nat := []
  pages : Store Pte := []
  mmuValid : Bool := false
  mmuCause : Nat := 0
  mmuCtx : Nat := 0
  mmuRegion : Nat := 0
  mmuStream : Nat := 0
  mmuDva : Nat := 0
  skipped : Nat := 0
  modelKeys : List (Nat × List Byte × List Byte) := []
  jobKeys : List (Nat × List Byte) := []
  ckptKey : Option (List Byte) := none
  staging : List Byte := []
  requests : List Request := []
  ring : List RingEntry := []
  evtNext : Nat := 1
  evtLost : Nat := 0
  evtLostNew : Nat := 0
  telPeriod : Nat := 0
  telMask : Word := 0
  telLast : Nat := 0
  wdog : Nat := 10000
  dumpLo : Nat := 0
  dumpHi : Nat := 0
  dumpLen : Nat := 0
  dumpPos : Nat := 0
  dumping : Bool := false
  recSeq : Nat := 0
  hangs : Nat := 0
  recovering : Bool := false
  faults : Store Nat := []
  fidTotal : Nat := 0
  wdogExpiries : Nat := 0
  step : Nat := 22
  parked : Bool := false
  floor : Bool := false
  hold : Bool := false
  heldLast : Bool := false
  allow : Nat := 0
  est : Nat := 0
  parkEst : Nat := 0
  energy : Nat := 0
  fill : Word := 0
  deriving DecidableEq, Repr

/-! ### Host interface -/

/-- A session (R362 to R365) with the replies of its window (R386). -/
structure Session where
  id : Nat
  part : Nat
  confirmed : Bool
  closed : Bool
  transcript : List Byte
  h2d : List Byte
  d2h : List Byte
  ivH : List Byte
  ivD : List Byte
  repliedAt : Nat
  highest : Nat
  window : List (Nat × List Byte × Option (List Byte))
  evtNo : Nat
  addr : Nat
  port : Nat
  deriving DecidableEq, Repr

/-- What a status reports (R395). -/
inductive Status where
  | ok | accepted | badOpcode | lengthRange | badField | notPermitted | authFailed | streamBusy | weightsBusy
  | tableInUse | noResource | shardUnavailable | digestMismatch | degraded | capClamped | recovering | notReady | dataLost
  deriving DecidableEq, Repr

/-- What leaves the block: replies, events, frames, sideband answers. -/
inductive Out where
  | reply (port dst : Nat) (part : Nat) (session seq : Nat) (status : Status) (payload : List Byte)
  | resent (port dst : Nat) (session seq : Nat) (payload : List Byte)
  | event (session number : Nat) (ev : Event)
  | frame (port : Nat) (bytes : List Byte)
  | control (port : Nat) (kind hseq : Nat)
  | hello (port : Nat) (h : HelloMsg)
  | alertAddress (addr : Nat)
  | scanOut (bits : List Bool)
  | uart (code : Nat)
  deriving DecidableEq, Repr

/-- An accepted command that has not completed (R383), with what its completion needs. -/
inductive WorkKind where
  /-- Frames an unmap frees; the stream requests (region, stream, DVA) translated before the change. -/
  | unmap (frames : List Nat) (old : List (Nat × Nat × Nat))
  | protect (old : List (Nat × Nat × Nat))
  | tableLoad (lcids : List Nat) (slot : Nat) (image : List Byte)
  | tableBuild (width : Nat) (all : Bool) (length src dst : Nat)
  | kvCreate (seq : Nat)
  | kvDestroy (seq : Nat)
  | kvTruncate (seq pos : Nat)
  | kvCopy (src dst : Nat)
  | kvSet (seq anchors recent budget window : Nat) (decay : Word)
  | hbmPoint (stack point : Nat)
  | load (h e : Nat)
  | unload (h e : Nat)
  | ckptWrite (id dva len : Nat)
  | ckptRead (id dva len : Nat)
  | flashImage (type : Nat)
  | flashKeep (h e : Nat)
  | fillCopy (pcid : Nat)
  | jobEnd (job : Nat)
  | recovery (step : Nat)
  | teardown (p : Nat)
  | run (id : Nat)
  | reqEnd (ids : List Nat)
  deriving DecidableEq, Repr

structure Work where
  id : Nat
  part : Nat
  ctx : Nat
  session : Nat
  seqNo : Nat
  opcode : Nat
  kind : WorkKind
  deriving DecidableEq, Repr

structure Run where
  id : Nat
  part : Nat
  ctx : Nat
  session : Nat
  seqNo : Nat
  handle : Option Nat
  epoch : Nat
  slots : List (Nat × Nat)
  engines : List Nat
  requests : List Nat
  ended : List (Nat × Nat × Nat × Nat)
  recovering : Bool
  fidelity : Nat
  deriving DecidableEq, Repr

structure HostIf where
  rx : List (Nat × Req) := []
  sessions : List Session := []
  sidCount : Nat := 0
  udpPort : Nat := 47210
  jumbo0 : Bool := false
  jumbo1 : Bool := false
  link0 : Bool := false
  link1 : Bool := false
  gm0 : Bool := false
  gm1 : Bool := false
  mac0 : List Byte := []
  mac1 : List Byte := []
  addr0 : List Byte := []
  addr1 : List Byte := []
  malformed0 : Nat := 0
  malformed1 : Nat := 0
  queueFull0 : Nat := 0
  queueFull1 : Nat := 0
  stale : Nat := 0
  mismatch : Nat := 0
  deriving DecidableEq, Repr

structure Security where
  idOk : Bool := false
  dbgOpen : Bool := false
  fwVersion : Nat := 0
  authFail : Nat := 0
  root : List Byte := []
  idPub : List Byte := []
  idSecret : List Byte := []
  kaPub : List Byte := []
  kaSecret : List Byte := []
  mFw : List Byte := []
  mCfg : List Byte := []
  randoms : Nat := 0
  deriving DecidableEq, Repr

structure Boot where
  phase : Nat := 0
  fwCopy : Bool := false
  fwABad : Bool := false
  cold : Bool := false
  recCause : Nat := 0
  ms : Nat := 0
  bad : BitVec 16 := 0
  inB : BitVec 16 := 0
  fullNext : Bool := false
  bistDone : Bool := false
  hbmDone : Bool := false
  startNs : Nat := 0
  repairDirty : Bool := false
  retireDirty : Bool := false
  mgmtStarted : Bool := false
  /-- The key of the owner record in use. -/
  owner : Option (List Byte) := none
  layout : List Nat := [0, 1, 2, 3, 4, 5, 6, 7, 8, 9, 10, 11, 12, 13, 14, 15]
  deriving DecidableEq, Repr

/-! ### Fabric (spec/14_fabric.md) -/

inductive PortState where
  | disabled | training | measuring | hello | up | failed
  deriving DecidableEq, Repr

structure TxFrame where
  bytes : List Byte
  job : Nat
  vc : Nat
  barrier : Bool
  deriving DecidableEq, Repr

structure Port where
  st : PortState := .disabled
  cause : Nat := 0
  partner : Nat := 0
  length : Nat := 0
  loss : Nat := 0
  replays : Nat := 0
  fecUe : Nat := 0
  cable : Bool := false
  failedAt : Nat := 0
  /-- When the hello exchange began (R403). -/
  helloAt : Nat := 0
  txHseq : Nat := 0
  replay : List (Nat × Nat × List Byte) := []
  queue : List TxFrame := []
  ueTimes : List Nat := []
  lastCtl : Nat := 0
  partnerPub : List Byte := []
  creditAt : Store Nat := []
  deficits : Store Nat := []
  rxHseq : Nat := 0
  /-- The table store of the port codec (R267); no command loads it. -/
  codec : Store CodecSlot := []
  deriving DecidableEq, Repr

structure Window where
  dva : Nat
  len : Nat
  dev : Nat
  rdva : Nat
  deriving DecidableEq, Repr

structure CollEntry where
  op : Nat
  dtype : Nat
  bar : Nat
  codec : Bool
  width : Nat
  src : Nat
  dst : Nat
  len : Nat
  table : Nat
  region : Nat
  sem : Nat
  n : Nat
  deriving DecidableEq, Repr

structure Job where
  valid : Bool := false
  part : Nat := 0
  job : Nat := 0
  root : Nat := 0
  bars : Word := 0
  weight : Nat := 0
  flows : Nat := 0
  timeout : Nat := 0
  members : List Nat := []
  windows : List Window := []
  colls : List CollEntry := []
  /-- The table images of its collectives, by DVA (R420). -/
  tables : List (Nat × List Byte) := []
  jobKey : List Byte := []
  setupVal : List Byte := []
  trafficKey : List Byte := []
  peerKeys : Store (List Byte) := []
  deriving DecidableEq, Repr

/-- A frame its source keeps until it is acknowledged (R411). -/
structure KeptFrame where
  fseq : Nat
  payload : List Byte
  codec : Bool
  sends : Nat
  sentAt : Nat
  deriving DecidableEq, Repr

structure Flow where
  job : Nat
  peer : Nat
  flow : Nat
  outbound : Bool
  nextSeq : Nat
  kept : List KeptFrame
  ahead : List (Nat × List Byte)
  failed : Bool
  deriving DecidableEq, Repr

/-- A collective entry whose barrier released: its index in the job's table, whether it has sent its chunks, whether it failed (R420). -/
structure Collective where
  id : Nat
  part : Nat
  job : Nat
  idx : Nat
  entry : CollEntry
  started : Bool := false
  failed : Bool := false
  deriving DecidableEq, Repr

structure Fabric where
  selfId : Nat := 0
  xs : Nat := 1
  ys : Nat := 1
  zs : Nat := 1
  bond6 : Option Nat := none
  bond7 : Option Nat := none
  enabled : BitVec 8 := 0
  epoch : BitVec 8 := 0
  ports : Store Port := []
  jobs : Store Job := []
  flows : List Flow := []
  srcEpochs : Store (Option Nat) := []
  colls : List Collective := []
  nextColl : Nat := 0
  delivered : List (Nat × Nat × Nat × List Byte) := []
  deriving DecidableEq, Repr

/-! ### Power and recovery -/

structure PowerCtl where
  cap : Nat := 350
  capNext : Nat := 350
  capDefault : Nat := 350
  preg : Nat := 14950
  overCap : Bool := false
  flashHold : Bool := false
  overCount : Nat := 0
  meanVin : Nat := 0
  lastBoundary : Nat := 0
  lastBoundaryLocal : Nat := 0
  temps : List Int := []
  deriving DecidableEq, Repr

/-- The unit a recovery step acts on. -/
inductive RecUnit where
  | ctx (p c : Nat)
  | cluster (pcid : Nat)
  | engine (e : Nat)
  | streamEng (r : Nat)
  | part (p : Nat)
  | die (d : Nat)
  | package
  deriving DecidableEq, Repr

structure FaultRec where
  cause : Nat
  unit : RecUnit
  detail : Nat
  /-- The timebase at detection. -/
  seen : Nat
  /-- The RESET commands the step answers. -/
  works : List Nat := []
  /-- The context is to be quarantined (R470). -/
  quar : Bool := false
  /-- The context whose work met a fault that does not name it (R157). -/
  ctx : Nat := 0
  deriving DecidableEq, Repr

/-- A step in progress (R451): its unit, the partitions with work on it, whether it came from the package queue, and what the next step
would act on. -/
structure RecStep where
  id : Nat
  unit : RecUnit
  parts : List Nat
  cause : Nat
  detail : Nat
  startNs : Nat
  pkg : Bool
  works : List Nat
  next : List RecUnit
  deriving DecidableEq, Repr

/-- A dump record in the buffer (R473): whose it is, the step it belongs to, and its bytes in the two copies, the number left out. -/
structure DumpRecord where
  part : Option Nat
  step : Nat
  full : List Byte
  mgmt : List Byte
  deriving DecidableEq, Repr

/-- A waiting party of the wait table (R468). -/
inductive Party where
  | slot (pcid n : Nat)
  | task (e : Nat)
  | stream (r st : Nat)
  | kv (work : Nat)
  deriving DecidableEq, Repr

/-- What a party waits on (R468): a semaphore of a region, a barrier generation, a stream, the cluster's RELHALF of a stream, a sequence. -/
inductive WaitObj where
  | sem (r j : Nat)
  | bar (p b gen : Nat)
  | half (r st : Nat)
  | rel (r st : Nat)
  | seq (i : Nat)
  deriving DecidableEq, Repr

/-- A row of the wait table (R468, R469): at how many scans the party has stood at the object, and whether the last found it live. -/
structure WaitRow where
  party : Party
  obj : WaitObj
  scans : Nat
  live : Bool
  deriving DecidableEq, Repr

/-- Where a suspect stands (R470): not replayed yet, replaying since a local ns, held after its replay, or named. -/
inductive Suspicion where
  | todo
  | replaying (since : Nat)
  | held
  | named
  deriving DecidableEq, Repr

structure Recovery where
  queues : Store (List FaultRec) := []
  pkgQueue : List FaultRec := []
  steps : List RecStep := []
  nextStep : Nat := 1
  scans : Nat := 0
  lastScan : Nat := 0
  drops : Nat := 0
  table : List WaitRow := []
  suspects : List (Nat × Nat × Suspicion) := []
  /-- The suspects of a round that named none (R470). -/
  survivors : List (Nat × Nat) := []
  dumps : List DumpRecord := []
  mgmtArea : Store Byte := []
  mgmtPos : Nat := 0
  mgmtSeq : Nat := 0
  resetAt : Option Nat := none
  deriving DecidableEq, Repr

/-! ### The block -/

/-- Everything of the block but its clocks, its pins and its queue. -/
structure Chip where
  clusters : Store Cluster := []
  dies : Store Die := []
  regions : Store Region := []
  parts : Store Partition := []
  hbms : Store Stack := []
  hbm : List Host.Cell := []
  /-- What the 288 stored bits of an HBM code word differ by from the code word of its data (R244). -/
  hbmErr : Store (BitVec 288) := []
  frames : Store Frame := []
  ledger : Store LedgerEntry := []
  flash : Flash := {}
  models : Store Model := []
  seqs : Store KvSeq := []
  wheels : Store WheelPos := []
  wheelOrder : Nat := 0
  lcidMap : Store (Option Nat) := []
  runs : List Run := []
  nextRun : Nat := 1
  works : List Work := []
  nextWork : Nat := 1
  host : HostIf := {}
  sec : Security := {}
  boot : Boot := {}
  fabric : Fabric := {}
  power : PowerCtl := {}
  rcv : Recovery := {}
  wire : List Out := []
  free : Nat := 0
  deriving DecidableEq, Repr

/-- The state: the clocks, the module's pins, the block, and the commands waiting, first in first out. -/
structure State where
  clk : Clock
  mod : ModulePins
  chip : Chip
  pending : List Instr
  deriving DecidableEq, Repr

/-- The machine before any supply is applied: every register at the value its table gives for reset, and no command waiting. -/
def State.reset : State := { clk := {}, mod := {}, chip := {}, pending := [] }

end Sys2Proof.Machine
end

