-- ==== Sys2Proof/Machine/Ops.lean ====
section
/-! DEFINITION. The named operations over memory, registers, packets, events and faults that every family shares. -/

namespace Sys2Proof.Machine

/-- The outcome of a command of this model. -/
abbrev Res := Host.Outcome State Fault Refusal

/-- The outcome of a command that changes nothing but the block. -/
def onChip (s : State) (f : Clock → Chip → Chip) : Res := .next { s with chip := f s.clk s.chip }

/-- The outcome of a command that changes the block's clocks too. -/
def onClock (s : State) (f : Clock → Chip → Clock × Chip) : Res :=
  .next { s with clk := (f s.clk s.chip).1, chip := (f s.clk s.chip).2 }

/-- The outcome of a command that changes the module's pins too. -/
def onModule (s : State) (f : Clock → ModulePins → Chip → ModulePins × Chip) : Res :=
  .next { s with mod := (f s.clk s.mod s.chip).1, chip := (f s.clk s.mod s.chip).2 }

/-! ### Sparse stores -/

/-- The value a store holds at a key; an unlisted key holds d. -/
def look (d : α) : Store α → Nat → α
  | [], _ => d
  | (k, v) :: t, i => if k = i then v else look d t i

/-- The store with a key's value replaced, in canonical form. -/
def put [DecidableEq α] (d : α) : Store α → Nat → α → Store α
  | [], i, v => if v = d then [] else [(i, v)]
  | (k, w) :: t, i, v =>
    if i < k then (if v = d then (k, w) :: t else (i, v) :: (k, w) :: t)
    else if i = k then (if v = d then t else (i, v) :: t)
    else (k, w) :: put d t i v

/-- The store with a key's value changed by f. -/
def upd [DecidableEq α] (d : α) (m : Store α) (i : Nat) (f : α → α) : Store α := put d m i (f (look d m i))

/-- The canonical form: keys strictly rising, no entry at the default. -/
def Store.wf [DecidableEq α] (d : α) : Store α → Bool
  | [] => true
  | [(_, v)] => v ≠ d
  | (k, v) :: (k', w) :: t => decide (v ≠ d) && decide (k < k') && Store.wf d ((k', w) :: t)

/-- The keys of a store whose value satisfies p, in rising order. -/
def keysWhere (p : Nat → α → Bool) (m : Store α) : List Nat := (m.filter fun e => p e.1 e.2).map Prod.fst

/-! ### Numbers, bits and bytes -/

/-- Bits [lo + width - 1 : lo] of a number (R11). -/
def bitsAt (x lo width : Nat) : Nat := x / 2 ^ lo % 2 ^ width

def bitAt (x i : Nat) : Bool := x / 2 ^ i % 2 = 1

/-- A counter that stops at its largest value. -/
def satTo (top n : Nat) : Nat := if n ≤ top then n else top

def ceilDiv (a b : Nat) : Nat := (a + b - 1) / b

/-- Little-endian bytes as a number (R13). -/
def leNat : List Byte → Nat
  | [] => 0
  | b :: t => b.toNat + 256 * leNat t

/-- Big-endian bytes as a number (R13). -/
def beNat (bs : List Byte) : Nat := leNat bs.reverse

/-- A number as n little-endian bytes. -/
def toLe (x : Nat) : Nat → List Byte
  | 0 => []
  | n + 1 => BitVec.ofNat 8 x :: toLe (x / 256) n

/-- A number as n big-endian bytes. -/
def toBe (x n : Nat) : List Byte := (toLe x n).reverse

def slice (bs : List Byte) (off n : Nat) : List Byte := (bs.drop off).take n

/-- A big-endian packet field of n bytes at an offset. -/
def beAt (bs : List Byte) (off n : Nat) : Nat := beNat (slice bs off n)

/-- A little-endian structure field of n bytes at an offset. -/
def leAt (bs : List Byte) (off n : Nat) : Nat := leNat (slice bs off n)

def zeros (n : Nat) : List Byte := List.replicate n 0

/-- A two's complement field of the given width. -/
def signedOf (x width : Nat) : Int := if x < 2 ^ (width - 1) then x else (x : Int) - (2 ^ width : Nat)

/-- Bytes of a sparse byte store; an unlisted byte reads 0. -/
def readBytes (m : Store Byte) (a : Nat) : Nat → List Byte
  | 0 => []
  | n + 1 => look 0 m a :: readBytes m (a + 1) n

/-- Bytes written to consecutive addresses of a sparse byte store. -/
def writeBytes (m : Store Byte) (a : Nat) : List Byte → Store Byte
  | [] => m
  | b :: t => writeBytes (put 0 m a b) (a + 1) t

def setAt (l : List α) (i : Nat) (v : α) : List α := l.set i v

/-- The first element that satisfies p, changed by f. -/
def takeFirst (p : α → Bool) (f : α → α) : List α → List α
  | [] => []
  | a :: t => if p a then f a :: t else a :: takeFirst p f t

/-- Insertion into a list ordered by a key. -/
def insBy (key : α → Nat) (x : α) : List α → List α
  | [] => [x]
  | y :: t => if key x ≤ key y then x :: y :: t else y :: insBy key x t

/-- A list in rising order of a key. -/
def sortBy (key : α → Nat) (l : List α) : List α := l.foldr (insBy key) []

/-- Whether a range meets another; an empty one meets none. -/
def overlaps (a n b m : Nat) : Bool := decide (0 < n) && decide (0 < m) && decide (a < b + m) && decide (b < a + n)

def optBool (b : Bool) : Nat := if b then 1 else 0

/-! ### Parts of the block -/

/-- The timebase is a 64-bit count (R14). -/
def wrap64 (t : Nat) : Nat := t % 2 ^ 64

def Chip.cl (ch : Chip) (c : Nat) : Cluster := look {} ch.clusters c
def Chip.die (ch : Chip) (d : Nat) : Die := look {} ch.dies d
def Chip.rg (ch : Chip) (r : Nat) : Region := look {} ch.regions r
def Chip.pt (ch : Chip) (p : Nat) : Partition := look {} ch.parts p
def Chip.sk (ch : Chip) (s : Nat) : Stack := look {} ch.hbms s
def Chip.fr (ch : Chip) (f : Nat) : Frame := look {} ch.frames f
def Chip.led (ch : Chip) (i : Nat) : LedgerEntry := look {} ch.ledger i
def Chip.mdl (ch : Chip) (h : Nat) : Model := look {} ch.models h
def Chip.sq (ch : Chip) (i : Nat) : KvSeq := look {} ch.seqs i
def Chip.wp (ch : Chip) (i : Nat) : WheelPos := look {} ch.wheels i
def Chip.prt (ch : Chip) (i : Nat) : Port := look {} ch.fabric.ports i

def Chip.modCl (ch : Chip) (c : Nat) (f : Cluster → Cluster) : Chip := { ch with clusters := upd {} ch.clusters c f }
def Chip.modDie (ch : Chip) (d : Nat) (f : Die → Die) : Chip := { ch with dies := upd {} ch.dies d f }
def Chip.modRg (ch : Chip) (r : Nat) (f : Region → Region) : Chip := { ch with regions := upd {} ch.regions r f }
def Chip.modPt (ch : Chip) (p : Nat) (f : Partition → Partition) : Chip := { ch with parts := upd {} ch.parts p f }
def Chip.modSk (ch : Chip) (s : Nat) (f : Stack → Stack) : Chip := { ch with hbms := upd {} ch.hbms s f }
def Chip.modFr (ch : Chip) (i : Nat) (f : Frame → Frame) : Chip := { ch with frames := upd {} ch.frames i f }
def Chip.modLed (ch : Chip) (i : Nat) (f : LedgerEntry → LedgerEntry) : Chip := { ch with ledger := upd {} ch.ledger i f }
def Chip.modMdl (ch : Chip) (h : Nat) (f : Model → Model) : Chip := { ch with models := upd {} ch.models h f }
def Chip.modSq (ch : Chip) (i : Nat) (f : KvSeq → KvSeq) : Chip := { ch with seqs := upd {} ch.seqs i f }
def Chip.modPort (ch : Chip) (i : Nat) (f : Port → Port) : Chip :=
  { ch with fabric := { ch.fabric with ports := upd {} ch.fabric.ports i f } }

def Region.str (r : Region) (n : Nat) : Stream := look {} r.streams n
def Region.mir (r : Region) (lcid : Nat) : Mirror := look {} r.mirror lcid
def Cluster.slot (c : Cluster) (n : Nat) : Slot := look {} c.slots n
def Partition.bar (p : Partition) (b : Nat) : Barrier := look {} p.barriers b
def Model.ep (m : Model) (e : Nat) : Epoch := if e = 0 then m.ep0 else m.ep1
def Model.modEp (m : Model) (e : Nat) (f : Epoch → Epoch) : Model :=
  if e = 0 then { m with ep0 := f m.ep0 } else { m with ep1 := f m.ep1 }
def Epoch.shard (e : Epoch) (i : Nat) : Shard := look {} e.shards i

def Chip.str (ch : Chip) (r n : Nat) : Stream := (ch.rg r).str n
def Chip.modStr (ch : Chip) (r n : Nat) (f : Stream → Stream) : Chip :=
  ch.modRg r fun g => { g with streams := upd {} g.streams n f }
def Chip.modMir (ch : Chip) (r lcid : Nat) (f : Mirror → Mirror) : Chip :=
  ch.modRg r fun g => { g with mirror := upd {} g.mirror lcid f }
def Chip.modSlot (ch : Chip) (c n : Nat) (f : Slot → Slot) : Chip :=
  ch.modCl c fun x => { x with slots := upd {} x.slots n f }
def Chip.modBar (ch : Chip) (p b : Nat) (f : Barrier → Barrier) : Chip :=
  ch.modPt p fun x => { x with barriers := upd {} x.barriers b f }
def Chip.modEp (ch : Chip) (h e : Nat) (f : Epoch → Epoch) : Chip := ch.modMdl h fun m => m.modEp e f
def Chip.modShard (ch : Chip) (h e i : Nat) (f : Shard → Shard) : Chip :=
  ch.modEp h e fun x => { x with shards := upd {} x.shards i f }
def Chip.modEng (ch : Chip) (e : Nat) (f : Engine → Engine) : Chip :=
  ch.modRg e fun g => { g with eng := f g.eng }

/-- Region, counted die × 4 + region, of a physical cluster (R7). -/
def regionOf (pcid : Nat) : Nat := pcid / 5
def dieOf (pcid : Nat) : Nat := pcid / 20
def dieOfRegion (r : Nat) : Nat := r / 4

/-- The physical cluster that serves a logical cluster, by the repair map (R8, R9). -/
def Chip.pcid (ch : Chip) (lcid : Nat) : Option Nat := look none ch.lcidMap lcid

/-- The partition that owns a logical cluster (R347). -/
def Chip.ownerOf (ch : Chip) (lcid : Nat) : Option Nat :=
  (ch.parts.find? fun e => e.2.valid && e.2.lcids.getLsbD lcid).map Prod.fst

/-- The partition whose lcid a physical cluster serves. -/
def Chip.ownerOfCl (ch : Chip) (c : Nat) : Option Nat := (ch.cl c).lcid.bind ch.ownerOf

def Partition.ownsLcid (p : Partition) (l : Nat) : Bool := p.lcids.getLsbD l
def Partition.ownsEng (p : Partition) (e : Nat) : Bool := p.engines.getLsbD e
def Partition.ownsStream (p : Partition) (r n : Nat) : Bool :=
  decide (look 0 p.strBase r ≤ n) && decide (n < look 0 p.strBase r + look 0 p.strCount r)
def Partition.ownsSem (p : Partition) (r k : Nat) : Bool :=
  decide (look 0 p.semBase r ≤ k) && decide (k < look 0 p.semBase r + look 0 p.semCount r)

/-- The lcids of a partition, ascending. -/
def Partition.lcidList (p : Partition) : List Nat := (List.range 64).filter p.ownsLcid

/-- The physical clusters of a partition. -/
def Chip.clustersOf (ch : Chip) (p : Nat) : List Nat := (ch.pt p).lcidList.filterMap ch.pcid

/-- Whether lcid l lies, or would lie, in region r: the lcid block the region serves (R488). -/
def Chip.regionOfLcid (ch : Chip) (l : Nat) : Nat := ch.boot.layout.getD (l / 4) 0

/-- The next free value (Config.freeValue), and the block with the sequence advanced. -/
def Chip.fresh (ch : Chip) : BitVec 64 × Chip := (Config.freeValue ch.free, { ch with free := ch.free + 1 })

/-! ### Clocks of the dies (R427) -/

/-- The period of aclk at an operating point, in 1/42 ns. -/
def oppPeriod (o : Nat) : Nat := [420, 336, 280, 210, 168, 140, 120, 105].getD o 105

/-- The present aclk period of a die, in 1/42 ns. -/
def Chip.period (ch : Chip) (d : Nat) : Nat := oppPeriod (ch.die d).opp

/-! ### Stream halves and the dry instant (R198) -/

def Desc.halfBytes (d : Desc) : Nat := d.spdHalf * 512

def Stream.half (x : Stream) (h : Bool) : Half := if h then x.h1 else x.h0
def Stream.modHalf (x : Stream) (h : Bool) (f : Half → Half) : Stream := if h then { x with h1 := f x.h1 } else { x with h0 := f x.h0 }

/-- The half the cluster is consuming or filling: of two that it holds, the one whose WAITHALF was satisfied last (R198, log entry 69). -/
def Stream.clusterHalf (x : Stream) : Half :=
  if x.h0.eng then x.h1
  else if x.h1.eng then x.h0
  else match x.h0.satisfied, x.h1.satisfied with
    | some a, some b => if a < b then x.h1 else x.h0
    | none, some _ => x.h1
    | _, none => x.h0

/-- Dry instants are counted in 1/(42 × 720,720) ns, in which every period at every duty is whole. -/
def dryUnit : Nat := 42 * 720720

/-- Issue duty of a ladder step (R430). -/
def stepDuty (s : Nat) : Nat := if 16 ≤ s then 16 else s + 1

/-- The issue duty of a cluster: its partition's step under the die's thermal limit, 1 under an energy hold (R429, R432, R433, R439). -/
def Chip.dutyOf (ch : Chip) (c : Nat) : Nat :=
  match ch.ownerOfCl c with
  | none => 16
  | some p => if (ch.pt p).hold then 1 else stepDuty (min (ch.pt p).step (ch.die (dieOf c)).limit)

/-- The dry instant; none is infinity (R198, R429). -/
def Stream.dryNow (x : Stream) (period duty now : Nat) : Option Nat :=
  match x.active with
  | none => none
  | some d =>
    if d.rate = 0 || d.dir = 2 then none
    else if x.h0.eng && x.h1.eng then some (max x.h0.handover x.h1.handover * dryUnit)
    else some ((x.clusterHalf.satisfied.getD now) * dryUnit + ceilDiv (d.halfBytes * 16) d.rate * period * (16 * 720720 / duty))

/-- The dry instant recomputed: at a hand-over, a ready mark, a satisfied WAITHALF and a change of operating point (R198). -/
def Chip.redry (ch : Chip) (k : Clock) (r st : Nat) : Chip :=
  let duty := match (ch.str r st).active with | some d => (match ch.pcid d.lcid with | some c => ch.dutyOf c | none => 16) | none => 16
  ch.modStr r st fun x => { x with dry := x.dryNow (ch.period (dieOfRegion r)) duty k.timebase }

/-! ### Status and packets -/

/-- The status codes of R395. -/
def Status.code : Status → Nat
  | .ok => 0x0000 | .accepted => 0x0001 | .badOpcode => 0x0101 | .lengthRange => 0x0102 | .badField => 0x0103
  | .notPermitted => 0x0201 | .authFailed => 0x0202 | .streamBusy => 0x0301 | .weightsBusy => 0x0302
  | .tableInUse => 0x0303 | .noResource => 0x0304 | .shardUnavailable => 0x0401 | .digestMismatch => 0x0402
  | .degraded => 0x0501 | .capClamped => 0x0502 | .recovering => 0x0503 | .notReady => 0x0504 | .dataLost => 0x0505

def Chip.send (ch : Chip) (o : Out) : Chip := { ch with wire := ch.wire ++ [o] }

def Chip.session? (ch : Chip) (sid : Nat) : Option Session := ch.host.sessions.find? fun x => x.id = sid

def Chip.modSession (ch : Chip) (sid : Nat) (f : Session → Session) : Chip :=
  { ch with host := { ch.host with sessions := ch.host.sessions.map fun x => if x.id = sid then f x else x } }

/-- The reply to a request: it leaves by the port of arrival (R374, R382), the session keeps it (R386), and a session whose last number it
was closes (R364). -/
def Chip.reply (ch : Chip) (q : Req) (st : Status) (payload : List Byte) : Chip :=
  let ch := ch.send (.reply q.port q.src q.part q.session q.seq st payload)
  let rx := ch.host.rx.filter fun e => !(decide (e.2.session = q.session) && decide (e.2.seq = q.seq))
  let keep : Session → Session := fun x =>
    if x.id = q.session then { x with window := x.window.map fun w => if w.1 = q.seq then (w.1, w.2.1, some (toBe st.code 2 ++ payload)) else w } else x
  let ss := (ch.host.sessions.map keep).filter fun x => !(decide (x.id = q.session) && decide (q.seq = 0xFFFFFFFF))
  { ch with host := { ch.host with rx := rx, sessions := ss } }

/-- A refusal and the payload offset of the field that caused it (R384). -/
abbrev Refuse := Status × Option Nat

def Chip.refuse (ch : Chip) (q : Req) (r : Refuse) : Chip :=
  ch.reply q r.1 (toBe (r.2.getD 0xFFFFFFFF) 4 ++ zeros 4)

/-! ### Events (R397 to R399) -/

/-- The payload of an event as it travels: the originating command, then its own bytes (R397). -/
def Event.bytes (e : Event) : List Byte := toBe e.origSeq 4 ++ toBe e.origOp 2 ++ zeros 2 ++ e.payload

def Session.open (x : Session) : Bool := x.confirmed && !x.closed

/-- Sends an event in one session under its next number of class 1 (R364). -/
def Chip.sendEvent (ch : Chip) (sid : Nat) (ev : Event) : Chip :=
  match ch.session? sid with
  | none => ch
  | some x =>
    let ch := ch.send (.event sid x.evtNo ev)
    if x.evtNo = 0xFFFFFFFF then { ch with host := { ch.host with sessions := ch.host.sessions.filter fun y => y.id ≠ sid } }
    else ch.modSession sid fun y => { y with evtNo := y.evtNo + 1 }

/-- Puts an event into the partition's ring of 4,096, the oldest overwritten and counted when it is full (R399). -/
def Chip.ringPush (ch : Chip) (p : Nat) (e : RingEntry) : Chip :=
  ch.modPt p fun x =>
    if x.ring.length < 4096 then { x with ring := x.ring ++ [e], evtNext := x.evtNext + 1 }
    else { x with ring := x.ring.drop 1 ++ [e], evtNext := x.evtNext + 1,
                  evtLost := satTo 0xFFFFFFFF (x.evtLost + 1), evtLostNew := x.evtLostNew + 1 }

/-- Raises an event to the sessions named; with none it waits in the ring (R398). -/
def Chip.raiseTo (ch : Chip) (k : Clock) (p : Nat) (sids : List Nat) (ev : Event) : Chip :=
  let due := sids.filterMap fun i => (ch.session? i).map fun x => (i, x.evtNo)
  let ch' := ch.ringPush p { id := (ch.pt p).evtNext, ev := ev, due := due, toAll := sids.isEmpty, sends := if sids.isEmpty then 0 else 1, last := k.localNs }
  sids.foldl (fun c i => c.sendEvent i ev) ch'

def Chip.openSessions (ch : Chip) (p : Nat) : List Nat :=
  (ch.host.sessions.filter fun x => x.open && decide (x.part = p)).map (·.id)

/-- An event to every open session of a partition (R398). -/
def Chip.raise (ch : Chip) (k : Clock) (p code : Nat) (st : Status) (ctx : Nat) (payload : List Byte) : Chip :=
  ch.raiseTo k p (ch.openSessions p)
    { code := code, status := st.code, part := p, ctx := ctx, origSeq := 0, origOp := 0, payload := payload, stamp := k.timebase }

/-- A completion event to the sender of a command (R398): dropped when its own session was closed by SESSION_CLOSE (R365). -/
def Chip.complete (ch : Chip) (k : Clock) (w : Work) (code : Nat) (st : Status) (payload : List Byte) : Chip :=
  let ch := { ch with works := ch.works.filter fun x => x.id ≠ w.id }
  let ev : Event := { code := code, status := st.code, part := w.part, ctx := w.ctx, origSeq := w.seqNo, origOp := w.opcode, payload := payload, stamp := k.timebase }
  match ch.session? w.session with
  | some x => if x.closed then ch else ch.raiseTo k w.part [w.session] ev
  | none => ch.raiseTo k w.part (ch.openSessions w.part) ev

/-- An event to every partition that has an open session (R371, R397). -/
def Chip.raiseAll (ch : Chip) (k : Clock) (code : Nat) (st : Status) (payload : List Byte) : Chip :=
  (List.range 8).foldl (fun c p => if (c.openSessions p).isEmpty then c else c.raise k p code st 0 payload) ch

/-- An accepted command that will complete later (R383). -/
def Chip.accept (ch : Chip) (_ : Clock) (q : Req) (op : Nat) (kind : WorkKind) : Work × Chip :=
  let w : Work := { id := ch.nextWork, part := q.part, ctx := q.ctx, session := q.session, seqNo := q.seq, opcode := op, kind := kind }
  (w, { ch with works := ch.works ++ [w], nextWork := ch.nextWork + 1 })

def Chip.work? (ch : Chip) (id : Nat) : Option Work := ch.works.find? fun w => w.id = id

/-! ### Faults (R449, R466, R467, R481) -/

/-- Bytes 16 to 18 of a fault event: lcid or engine, die, region (R481). -/
def Chip.unitBytes (ch : Chip) : RecUnit → List Byte
  | .ctx _ _ => [0xFF, 0xFF, 0xFF]
  | .cluster c => [BitVec.ofNat 8 ((ch.cl c).lcid.getD 0xFF), BitVec.ofNat 8 (c / 20), BitVec.ofNat 8 (c / 5 % 4)]
  | .engine e => [BitVec.ofNat 8 e, BitVec.ofNat 8 (e / 4), BitVec.ofNat 8 (e % 4)]
  | .streamEng r => [0xFF, BitVec.ofNat 8 (r / 4), BitVec.ofNat 8 (r % 4)]
  | .part _ => [0xFF, 0xFF, 0xFF]
  | .die d => [0xFF, BitVec.ofNat 8 d, 0xFF]
  | .package => [0xFF, 0xFF, 0xFF]

/-- The step code of R451 that a unit's first step has. -/
def RecUnit.code : RecUnit → Nat
  | .ctx _ _ => 1
  | .cluster _ => 2
  | .engine _ => 2
  | .streamEng _ => 2
  | .part _ => 3
  | .die _ => 4
  | .package => 5

/-- Every fault that waits in a queue. -/
def Recovery.waiting (r : Recovery) : List FaultRec := r.queues.flatMap (·.2) ++ r.pkgQueue

/-- The flags of a record or fault event of a unit: a named context, and whether it is quarantined or to be (R474, R481). -/
def Chip.faultFlags (ch : Chip) (u : RecUnit) : Nat :=
  match u with
  | .ctx p x => 1 + 2 * optBool ((match look none (ch.pt p).contexts x with | some y => y.quarantined | none => false) || ch.rcv.waiting.any fun f => decide (f.unit = u) && f.quar)
  | _ => 0

/-- The number of the record of a completed step in a partition's area; none before, or without an area (R476, R481). -/
def Partition.recordNo (x : Partition) (phase : Nat) : Nat := if phase ≠ 1 || x.dumpLen = 0 || x.recSeq = 0 then 0xFFFFFFFF else x.recSeq

/-- The fault event of R481, to each partition with affected work. -/
def Chip.faultEvent (ch : Chip) (k : Clock) (ps : List Nat) (cause phase : Nat) (u : RecUnit) (detail : Nat) (ctx : Nat := 0) : Chip :=
  ps.foldl (fun c p =>
    c.raise k p 0xE016 (if phase = 1 then .ok else .recovering) (match u with | .ctx _ x => x | _ => ctx)
      (toBe cause 2 ++ toBe u.code 1 ++ toBe phase 1 ++ toBe ((c.pt p).recordNo phase) 4 ++ ch.unitBytes u ++ toBe (ch.faultFlags u) 1 ++ toBe detail 8)) ch

/-- The partitions with work on a unit (R28, R451). -/
def Chip.partsOn (ch : Chip) : RecUnit → List Nat
  | .ctx p _ => [p]
  | .part p => [p]
  | .cluster c => (ch.ownerOfCl c).toList
  | .engine e => ((List.range 8).filter fun p => (ch.pt p).valid && (ch.pt p).ownsEng e)
  | .streamEng r => ((List.range 8).filter fun p => (ch.pt p).valid && decide (0 < look 0 (ch.pt p).strCount r))
  | .die d => ((List.range 8).filter fun p => (ch.pt p).valid &&
      (((ch.pt p).lcidList.any fun l => decide (ch.regionOfLcid l / 4 = d)) ||
       ((List.range 16).any fun e => (ch.pt p).ownsEng e && decide (e / 4 = d)) ||
       (ch.frames.any fun f => decide (f.2.use = .used p) && decide (f.1 / 524288 = d))))
  | .package => (List.range 8).filter fun p => (ch.pt p).valid

/-- What the next step of the ladder acts on (R451): the units on which a context reset has not completed, every partition with work
on a unit, the dies of a partition. -/
def Chip.nextUnits (ch : Chip) : RecUnit → List RecUnit
  | .ctx p c =>
    let cs := (ch.clustersOf p).filter fun x => (List.range 4).any fun n =>
      let s := (ch.cl x).slot n
      decide (s.ctx = c) && (decide (s.st = .running) || decide (s.st = .waiting) || decide (s.st = .yielded))
    let es := (List.range 16).filter fun e =>
      let g := (ch.rg e).eng
      decide (g.part = some p) && decide (g.ctx = c) && (decide (g.st = .running) || decide (g.st = .holding))
    if cs.isEmpty && es.isEmpty then [.part p] else cs.map .cluster ++ es.map .engine
  | .cluster c => match ch.ownerOfCl c with | some p => [.part p] | none => [.die (dieOf c)]
  | .engine e => let ps := ch.partsOn (.engine e); if ps.isEmpty then [.die (e / 4)] else ps.map .part
  | .streamEng r => let ps := ch.partsOn (.streamEng r); if ps.isEmpty then [.die (r / 4)] else ps.map .part
  | .part p =>
    let ds := (List.range 4).filter fun d => (ch.pt p).lcidList.any fun l => decide (ch.regionOfLcid l / 4 = d)
    if ds.isEmpty then [.package] else ds.map .die
  | .die _ => [.package]
  | .package => [.package]

/-- Whether a unit lies in the domain of a step's unit (R467). -/
def RecUnit.inDomain : RecUnit → RecUnit → Bool
  | .cluster c, .cluster d => regionOf c = regionOf d
  | .cluster c, .streamEng r => regionOf c = r
  | .streamEng r, .cluster c => regionOf c = r
  | .streamEng r, .streamEng r' => r = r'
  | .engine e, .engine e' => e = e'
  | _, _ => false

def Chip.works' (fs : List FaultRec) : List Nat := fs.flatMap (·.works)

/-- Puts a fault into its queue (R466): the queue of the one partition its units belong to, else the package's; a full queue becomes a
partition reset of that partition alone, or a package reset. -/
def Chip.enqueue (ch : Chip) (f : FaultRec) : Chip :=
  let pkg (ch : Chip) : Chip :=
    let q := ch.rcv.pkgQueue
    { ch with rcv := { ch.rcv with pkgQueue := if q.length < 16 then q ++ [f] else [{ f with unit := .package, works := Chip.works' (q ++ [f]) }] } }
  match ch.partsOn f.unit with
  | [p] =>
    if f.unit.code ≤ 3 then
      let q := look [] ch.rcv.queues p
      { ch with rcv := { ch.rcv with queues := put [] ch.rcv.queues p (if q.length < 16 then q ++ [f] else [{ f with unit := .part p, works := Chip.works' (q ++ [f]) }]) } }
    else pkg ch
  | _ => pkg ch

/-- What is queued for a condition on units, taken out of the queues. -/
def Recovery.without (r : Recovery) (f : RecUnit → Bool) : Recovery :=
  { r with queues := (r.queues.map fun e => (e.1, e.2.filter fun x => !f x.unit)).filter (fun e => !e.2.isEmpty), pkgQueue := r.pkgQueue.filter fun x => !f x.unit }

/-- A step in progress is abandoned (R453, R467): its partitions hear that it escalates, and a cluster it fenced goes on to its collapse. -/
def Chip.abandon (ch : Chip) (k : Clock) (s : RecStep) : Chip :=
  let ch := if s.cause = 0 then ch else ch.faultEvent k s.parts s.cause 2 s.unit s.detail
  let ch := { ch with rcv := { ch.rcv with steps := ch.rcv.steps.filter fun x => x.id ≠ s.id } }
  match s.unit with
  | .cluster c => (ch.modCl c fun x => if x.svc = .fenced then { x with svc := .collapsing k.localNs 0 1 } else x).modRg (regionOf c) fun g => { g with busy := false }
  | _ => ch

/-- Records a fault in its queue. A fault in the domain of a step in progress or queued, or in a region whose reserve is in use,
escalates one step, and that step with it (R26, R467); a further named fault of a context under reset is absorbed. A fault of a unit
records the context whose work met it (R157). -/
def Chip.fault (ch : Chip) (k : Clock) (cause : Nat) (u : RecUnit) (detail : Nat) (ctx : Nat := 0) : Chip :=
  let busy := ch.rcv.steps.map (·.unit) ++ ch.rcv.waiting.map (·.unit)
  if (match u with | .ctx _ _ => decide (u ∈ busy) | _ => false) then ch
  else
    let hit := u.inDomain
    let spent := match u with | .cluster c => (ch.rg (regionOf c)).inUse | _ => false
    if busy.any hit || spent then
      let olds := ch.rcv.steps.filter fun s => hit s.unit
      let ws := olds.flatMap (·.works) ++ Chip.works' (ch.rcv.waiting.filter fun f => hit f.unit)
      let units := ((ch.nextUnits u) ++ olds.flatMap (·.next)).eraseDups
      let ch := olds.foldl (fun c s => c.abandon k s) { ch with rcv := ch.rcv.without hit }
      (units.zipIdx).foldl (fun c x =>
        (c.faultEvent k (c.partsOn x.1) cause 0 x.1 detail ctx).enqueue { cause := cause, unit := x.1, detail := detail, seen := k.timebase, works := if x.2 = 0 then ws else [], ctx := ctx }) ch
    else (ch.faultEvent k (ch.partsOn u) cause 0 u detail ctx).enqueue { cause := cause, unit := u, detail := detail, seen := k.timebase, ctx := ctx }

/-! ### HBM, pages and frames -/

/-- Frames of a stack: 64 KiB frames of 32 GiB less the device region (R215, R216). -/
def framesPerStack : Nat := 516096

/-- The global number of frame i of stack s, so that frame × 65,536 is the physical address (R215). -/
def frameNo (s i : Nat) : Nat := s * 524288 + i

def stackOfFrame (f : Nat) : Nat := f / 524288

/-- The level-2 entry of a partition's page (R217). -/
def Partition.pte (p : Partition) (page : Nat) : Pte := look {} p.pages page

/-- The physical address a page entry gives for a DVA: a large page's entries hold its base frame and the walker adds
DVA[20:16] (R218). -/
def Pte.phys (e : Pte) (dva : Nat) : Nat :=
  (if e.lg then e.frame + dva / 65536 % 32 else e.frame) * 65536 + dva % 65536

/-- Translation causes of R223 for an access. -/
def Partition.transFault (p : Partition) (dva : Nat) (write : Bool) : Option Nat :=
  let page := dva / 65536
  let e := p.pte page
  if e.v then
    if write then (if e.wr then none else some 4) else (if e.rd then none else some 3)
  else if look 0 p.tables (page / 16384) ≠ 0 then some 2 else some 1

/-- The code words a range touches (R244): 32 bytes each. -/
def wordsOf (a n : Nat) : List Nat := if n = 0 then [] else (List.range ((a + n - 1) / 32 - a / 32 + 1)).map (a / 32 + ·)

/-- The frames of a stack that count to a partition's quota: those it uses and those being zeroed for it (R219). -/
def Chip.framesOf (ch : Chip) (p s : Nat) : Nat :=
  (ch.frames.filter fun f => decide (stackOfFrame f.1 = s) && (decide (f.2.use = .used p) || decide (f.2.use = .zeroing p false))).length

def Chip.zeroingOf (ch : Chip) (p s : Nat) : Nat :=
  (ch.frames.filter fun f => decide (stackOfFrame f.1 = s) && decide (f.2.use = .zeroing p false)).length

def FrameUse.tearing : FrameUse → Bool
  | .zeroing _ t => t
  | _ => false

/-- The frames of a stack that teardown zeroing still holds (R259). -/
def Chip.tearFrames (ch : Chip) (s : Nat) : Nat :=
  (ch.frames.filter fun f => decide (stackOfFrame f.1 = s) && f.2.use.tearing).length

/-- The lowest n runs of `al` frames of a stack, aligned to `al`, whose uses are all acceptable (R218): the place is the controller's
choice. A stack out of service gives none (R254). -/
def Chip.framesFor (ch : Chip) (s n al : Nat) (ok : FrameUse → Bool) : List Nat :=
  if (ch.sk s).failed then [] else
  let used := (ch.frames.filter fun f => decide (stackOfFrame f.1 = s) && !ok f.2.use).map fun f => f.1 % 524288
  let starts := ((List.range (used.length + n + 1)).map (· * al)).filter fun i =>
    decide (i + al ≤ framesPerStack) && !(used.any fun u => decide (i ≤ u) && decide (u < i + al))
  ((starts.take n).map (frameNo s))

/-- The lowest n runs of free frames. -/
def Chip.freeFrames (ch : Chip) (s n al : Nat) : List Nat := ch.framesFor s n al fun u => decide (u = .free)

/-- Frees a frame of a living partition or of a teardown: it is zeroed first (R259). -/
def Chip.freeFrame (ch : Chip) (f p : Nat) (teardown : Bool) : Chip := ch.modFr f fun x => { x with use := .zeroing p teardown }

/-- Marks a frame for retirement (R247). -/
def Chip.markFrame (ch : Chip) (f : Nat) : Chip := ch.modFr f fun x => { x with marked := true }

/-- The maximum payload of a host port (R376). -/
def Chip.maxPayload (ch : Chip) (port : Nat) : Nat :=
  if (if port = 0 then ch.host.jumbo0 else ch.host.jumbo1) then 8896 else 1344

/-- Whether the device takes work, and whether it is in recovery mode (R487, R492). -/
def Chip.ready (ch : Chip) : Bool := decide (ch.boot.phase = 6)
def Chip.inRecoveryMode (ch : Chip) : Bool := decide (ch.boot.phase = 7)

/-- Whether the pattern check of a stack found a failed pseudo-channel: any uncorrectable error, or more than 16 corrected ones (R254). -/
def patternBad (ps : List PatternErrs) (s : Nat) : Bool := ps.any fun x => decide (x.stack = s) && (x.ue || decide (16 < x.corrected))

/-- A management notice (R397). -/
def Chip.notice (ch : Chip) (k : Clock) (kind unit : Nat) : Chip := ch.raise k 0 0xE032 .ok 0 (toBe kind 2 ++ toBe unit 2)

end Sys2Proof.Machine
end

