-- ==== Sys2Proof/Machine/Code.lean ====
section
/-! DEFINITION. The RS(36,32) code of scratchpad and HBM code words (spec/05_scratchpad.md R156; spec/08_dram_flash.md R244). -/

namespace Sys2Proof.Machine

/-- A product in GF(2^8) with the field polynomial x^8 + x^4 + x^3 + x^2 + 1 (R156). -/
def gfMul (a b : Nat) : Nat :=
  (List.range 8).foldr (fun i acc => (if acc < 128 then 2 * acc else (2 * acc) ^^^ 0x11D) ^^^ (if bitAt b i then a else 0)) 0

/-- Check bytes c0 to c3 of data bytes d0 to d31: the remainder by the generator polynomial
(x − α^0)(x − α^1)(x − α^2)(x − α^3) = x^4 + 15 x^3 + 54 x^2 + 120 x + 64 (R156). -/
def rsCheck (data : List Byte) : List Byte :=
  let r := data.foldl (fun (c : Nat × Nat × Nat × Nat) d =>
    let f := d.toNat ^^^ c.1
    (c.2.1 ^^^ gfMul f 15, c.2.2.1 ^^^ gfMul f 54, c.2.2.2 ^^^ gfMul f 120, gfMul f 64)) (0, 0, 0, 0)
  [BitVec.ofNat 8 r.1, BitVec.ofNat 8 r.2.1, BitVec.ofNat 8 r.2.2.1, BitVec.ofNat 8 r.2.2.2]

/-- The 288 bits of a code word: data byte i at bits [8i + 7 : 8i], check byte j at bits [256 + 8j + 7 : 256 + 8j] (R156). -/
def codeWord (data : List Byte) : BitVec 288 := BitVec.ofNat 288 (leNat (data ++ rsCheck data))

/-- Symbols, data or check, in which two code words differ, by the exclusive OR of the two. -/
def symErrs (x : BitVec 288) : Nat := ((List.range 36).filter fun i => decide (bitsAt x.toNat (8 * i) 8 ≠ 0)).length

/-- The first symbol in which two code words differ. -/
def firstErr (x : BitVec 288) : Nat := ((List.range 36).find? fun i => decide (bitsAt x.toNat (8 * i) 8 ≠ 0)).getD 0

end Sys2Proof.Machine
end

