-- ==== Sys2Proof/Machine/Numerics.lean ====
section
/-! DEFINITION. Number formats and arithmetic (spec/02_numerics.md): decoding, exact sums, the one rounding, conversions. -/

namespace Sys2Proof.Machine

/-! ### Exact values -/

/-- A decoded operand: NaN, an infinity, or the exact number (−1)^neg · m · 2^e (R46). -/
inductive FVal where
  | nan
  | inf (neg : Bool)
  | fin (neg : Bool) (m : Nat) (e : Int)
  deriving DecidableEq, Repr

def FVal.zero : FVal := .fin false 0 0

/-- An integer as an exact value. -/
def FVal.ofInt (i : Int) : FVal := .fin (decide (i < 0)) i.natAbs 0

/-- Scaling by a power of two (R52, R59). -/
def FVal.scale : FVal → Int → FVal
  | .fin n m e, k => .fin n m (e + k)
  | v, _ => v

def FVal.neg : FVal → FVal
  | .nan => .nan
  | .inf n => .inf (!n)
  | .fin n m e => .fin (!n) m e

/-- The signed mantissa of (−1)^n · m · 2^e on the exponent lo. -/
def alignTo (n : Bool) (m : Nat) (e lo : Int) : Int :=
  let x : Int := (m * 2 ^ (e - lo).toNat : Nat)
  if n then -x else x

/-- The exact sum with IEEE 754's signs of zero (R47, R62). -/
def FVal.add : FVal → FVal → FVal
  | .nan, _ => .nan
  | _, .nan => .nan
  | .inf a, .inf b => if a = b then .inf a else .nan
  | .inf a, _ => .inf a
  | _, .inf b => .inf b
  | .fin na ma ea, .fin nb mb eb =>
    let lo := min ea eb
    let s := alignTo na ma ea lo + alignTo nb mb eb lo
    if s = 0 then .fin (na && nb && decide (ma = 0) && decide (mb = 0)) 0 0 else .fin (decide (s < 0)) s.natAbs lo

/-- The exact product (R62). -/
def FVal.mul : FVal → FVal → FVal
  | .nan, _ => .nan
  | _, .nan => .nan
  | .inf a, .inf b => .inf (a != b)
  | .inf a, .fin n m _ => if m = 0 then .nan else .inf (a != n)
  | .fin n m _, .inf b => if m = 0 then .nan else .inf (n != b)
  | .fin na ma ea, .fin nb mb eb => .fin (na != nb) (ma * mb) (ea + eb)

/-! ### Formats (R44 to R54) -/

/-- A floating-point element format: exponent and mantissa bits, bias, largest finite code, and whether the codes above it
are NaN only (E4M3), infinity and NaN (IEEE), or do not exist. -/
structure FFmt where
  eb : Nat
  mb : Nat
  bias : Nat
  top : Nat
  ieee : Bool
  deriving DecidableEq, Repr

def fE4M3 : FFmt := { eb := 4, mb := 3, bias := 7, top := 0x7E, ieee := false }
def fE5M2 : FFmt := { eb := 5, mb := 2, bias := 15, top := 0x7B, ieee := true }
def fE3M2 : FFmt := { eb := 3, mb := 2, bias := 3, top := 0x1F, ieee := false }
def fE2M3 : FFmt := { eb := 2, mb := 3, bias := 1, top := 0x1F, ieee := false }
def fE2M1 : FFmt := { eb := 2, mb := 1, bias := 1, top := 0x7, ieee := false }
def fBF16 : FFmt := { eb := 8, mb := 7, bias := 127, top := 0x7F7F, ieee := true }
def fFP16 : FFmt := { eb := 5, mb := 10, bias := 15, top := 0x7BFF, ieee := true }
def fFP32 : FFmt := { eb := 8, mb := 23, bias := 127, top := 0x7F7FFFFF, ieee := true }

/-- The value of a code of a format (R46). -/
def FFmt.decode (f : FFmt) (x : Nat) : FVal :=
  let neg := bitAt x (f.eb + f.mb)
  let mag := x % 2 ^ (f.eb + f.mb)
  let ex := mag / 2 ^ f.mb
  let mt := mag % 2 ^ f.mb
  if f.top < mag then (if f.ieee && decide (mt = 0) then .inf neg else .nan)
  else if ex = 0 then .fin neg mt (1 - (f.bias : Int) - f.mb)
  else .fin neg (2 ^ f.mb + mt) ((ex : Int) - f.bias - f.mb)

def f32 (w : Word) : FVal := fFP32.decode w.toNat

/-- The rounding mode of a writeback (R68): to nearest even, or stochastic with the draw r. -/
inductive Rnd where
  | rne
  | sr (r : BitVec 16)
  deriving DecidableEq, Repr

/-- The magnitude m · 2^e rounded to a whole number of quanta 2^q (R59, R68, R69). -/
def roundMag (rd : Rnd) (m : Nat) (e q : Int) : Nat :=
  if e ≥ q then m * 2 ^ (e - q).toNat
  else
    let sh := (q - e).toNat
    let n := m / 2 ^ sh
    let rem := m % 2 ^ sh
    match rd with
    | .rne => if 2 * rem > 2 ^ sh ∨ (2 * rem = 2 ^ sh ∧ n % 2 = 1) then n + 1 else n
    | .sr r =>
      let f := if sh ≥ 16 then rem / 2 ^ (sh - 16) else rem * 2 ^ (16 - sh)
      if f + r.toNat ≥ 65536 then n + 1 else n

/-- The position of the leading one of a magnitude m > 0. -/
def log2Of (m : Nat) : Nat := Nat.log2 m

/-- The code of the rounded magnitude in a format, before the check for overflow: codes count quanta in order. -/
def FFmt.codeOf (f : FFmt) (rd : Rnd) (m : Nat) (e : Int) : Nat :=
  if m = 0 then 0
  else
    let q := max ((log2Of m : Int) + e - f.mb) (1 - (f.bias : Int) - f.mb)
    ((q + f.mb + f.bias - 1).toNat) * 2 ^ f.mb + roundMag rd m e q

def FFmt.signBit (f : FFmt) (neg : Bool) : Nat := if neg then 2 ^ (f.eb + f.mb) else 0

/-- The code of infinity in an IEEE format. -/
def FFmt.infCode (f : FFmt) : Nat := (2 ^ f.eb - 1) * 2 ^ f.mb

/-- Rounding to FP32 under round-to-nearest-even: overflow gives an infinity, NaN the canonical quiet NaN (R59, R62). -/
def toF32 : FVal → Word
  | .nan => 0x7FC00000
  | .inf n => BitVec.ofNat 32 (fFP32.signBit n + fFP32.infCode)
  | .fin n m e => BitVec.ofNat 32 (fFP32.signBit n + min (fFP32.codeOf .rne m e) fFP32.infCode)

def isNaN32 (w : Word) : Bool := decide (w.toNat % 2 ^ 31 > 0x7F800000)
def isInf32 (w : Word) : Bool := decide (w.toNat % 2 ^ 31 = 0x7F800000)

/-- The number formats' codes (R44). -/
def fltOf : Nat → Option FFmt
  | 0x4 => some fE4M3
  | 0x5 => some fE5M2
  | 0x6 => some fE4M3
  | 0x7 => some fE5M2
  | 0x8 => some fE3M2
  | 0x9 => some fE2M3
  | 0xA => some fE2M1
  | 0xC => some fBF16
  | 0xD => some fFP16
  | _ => none

/-- Whether a format has E8M0 block scales (R44). -/
def hasScale (fmt : Nat) : Bool := decide (fmt = 0x3) || (decide (0x6 ≤ fmt) && decide (fmt ≤ 0xB))

/-- Element bits of a format other than ternary (R44). -/
def elemBits (fmt : Nat) : Nat :=
  if fmt = 0x1 || fmt = 0xA then 4 else if fmt = 0x8 || fmt = 0x9 then 6 else if fmt = 0xC || fmt = 0xD then 16 else 8

/-- The unscaled value of an element's code (R45, R46, R53). -/
def elemVal (fmt code : Nat) : FVal :=
  match fltOf fmt with
  | some f => f.decode code
  | none =>
    if fmt = 0x1 then .ofInt (signedOf code 4)
    else if fmt = 0xB then (FVal.ofInt (signedOf code 8)).scale (-6)
    else .ofInt (signedOf code 8)

/-- Element i of packed data, at the format's width (R45, R48). -/
def elemCode (fmt : Nat) (bs : List Byte) (i : Nat) : Nat :=
  let w := elemBits fmt
  bitsAt (leAt bs (i * w / 8) 3) (i * w % 8) w

/-- The scale exponent of an E8M0 byte, none for NaN (R52). -/
def e8m0 (x : Nat) : Option Int := if x = 255 then none else some ((x : Int) - 127)

/-- The five ternary digits of a byte, as weights; an invalid byte is five zeros (R49, R51). -/
def ternOf (b : Nat) (i : Nat) : Int := if b ≤ 242 then ((b / 3 ^ i % 3 : Nat) : Int) - 1 else 0

/-- Weight i of a 7-byte ternary block (R50). -/
def ternBlock (bs : List Byte) (i : Nat) : Int := ternOf ((bs.getD (i / 5) 121).toNat) (i % 5)

/-! ### Pairings (R56, R57, R88) -/

/-- What a pairing gives a frond: integer accumulation, the row class, lanes, weights per cell, rows a group. -/
structure Pairing where
  int : Bool
  row : Bool
  lanes : Nat
  w : Nat
  q : Nat
  deriving DecidableEq, Repr

def isF8 (f : Nat) : Bool := decide (f = 0x4) || decide (f = 0x5) || decide (f = 0x6) || decide (f = 0x7)
def isByteF (f : Nat) : Bool := isF8 f || decide (f = 0xB)

/-- The pairing table of R56 with the classes of R88; none for a pairing absent from it. -/
def pairing (wf af : Nat) : Option Pairing :=
  if wf = 0x0 && af = 0x0 then some { int := true, row := false, lanes := 1, w := 1, q := 4 }
  else if isByteF wf && isByteF af then some { int := false, row := false, lanes := 1, w := 1, q := 4 }
  else if wf = 0x1 && af = 0x0 then some { int := true, row := false, lanes := 2, w := 1, q := 8 }
  else if wf = 0xA && isByteF af then some { int := false, row := false, lanes := 2, w := 1, q := 8 }
  else if (wf = 0x8 || wf = 0x9) && isByteF af then some { int := false, row := false, lanes := 2, w := 1, q := 4 }
  else if (wf = 0x2 || wf = 0x3) && isF8 af then some { int := false, row := false, lanes := 1, w := 2, q := 8 }
  else if wf = 0x1 && af = 0x1 then some { int := true, row := false, lanes := 4, w := 1, q := 8 }
  else if wf = 0xA && af = 0xA then some { int := false, row := false, lanes := 4, w := 1, q := 8 }
  else if wf = 0x2 && af = 0x0 then some { int := true, row := false, lanes := 2, w := 2, q := 8 }
  else if wf = 0x3 && (af = 0x0 || af = 0xB) then some { int := false, row := false, lanes := 2, w := 2, q := 8 }
  else if wf = 0xC && af = 0xC then some { int := false, row := true, lanes := 1, w := 1, q := 1 }
  else if wf = 0xD && af = 0xD then some { int := false, row := true, lanes := 1, w := 1, q := 1 }
  else none

/-! ### Sums in the array (R58 to R67) -/

/-- The exact sum of one segment's products (R58). -/
def segSum (ws as : List FVal) : FVal := (List.zipWith FVal.mul ws as).foldl FVal.add .zero

/-- A segment join of a float-accumulating pairing: one rounding (R59). -/
def joinF (run : Word) (sum : FVal) (shift : Int) : Word := toF32 ((f32 run).add (sum.scale shift))

/-- A value saturated to INT32, and whether it saturated (R63). -/
def satI32 (x : Int) : Word × Bool :=
  if x > 0x7FFFFFFF then (0x7FFFFFFF, true) else if x < -0x80000000 then (0x80000000, true) else (BitVec.ofInt 32 x, false)

def addI32 (a : Word) (x : Int) : Word × Bool := satI32 (a.toInt + x)

/-- A signed number divided by 2^n and rounded to nearest even (R67, R73). -/
def shiftRne (x : Int) (n : Nat) : Int :=
  let r : Int := (roundMag .rne x.natAbs 0 n : Nat)
  if x < 0 then -r else r

/-- The integer join of a fallback segment (R67): the sum shifted by x − 127; a NaN scale adds 0. -/
def fallbackInt (sum : Int) (x : Nat) : Int :=
  if x = 255 then 0 else if x ≥ 127 then sum * 2 ^ (x - 127) else shiftRne sum (127 - x)

/-- One row of a row-class column: the product rounded to FP32, then one FP32 addition (R61). -/
def rowAdd (run : Word) (p : FVal) : Word := toF32 ((f32 run).add (f32 (toF32 p)))

/-- The pass result entering an accumulator entry that adds (R63). -/
def accAddF (old v : Word) : Word := toF32 ((f32 old).add (f32 v))

/-! ### Writeback conversions (R68 to R74) -/

/-- What a conversion gives: the code and the status bits it sets. -/
structure Conv where
  code : Nat
  sat : Bool := false
  inf : Bool := false
  deriving DecidableEq, Repr

/-- To a float format (R68, R72). -/
def convF (f : FFmt) (isBf : Bool) (satFp : Bool) (rd : Rnd) : FVal → Conv
  | .nan => { code := if isBf then f.infCode + 2 ^ (f.mb - 1) else 0x7F }
  | .inf n => overflow n
  | .fin n m e =>
    let c := f.codeOf rd m e
    if c ≤ f.top then { code := f.signBit n + c } else overflow n
where
  /-- An overflow or an infinity (the table of R72). -/
  overflow (n : Bool) : Conv :=
    if isBf then { code := f.signBit n + f.infCode, inf := true }
    else if satFp then { code := f.signBit n + f.top, sat := true }
    else if f.ieee then { code := f.signBit n + f.infCode, inf := true }
    else { code := f.signBit n + 0x7F }

/-- To an integer of `bits` bits (R72, R73). -/
def convI (bits : Nat) (rd : Rnd) : FVal → Conv
  | .nan => { code := 0 }
  | .inf n => { code := if n then 2 ^ (bits - 1) else 2 ^ (bits - 1) - 1, sat := true }
  | .fin n m e =>
    let r := roundMag rd m e 0
    if n then (if r ≤ 2 ^ (bits - 1) then { code := (2 ^ bits - r) % 2 ^ bits } else { code := 2 ^ (bits - 1), sat := true })
    else if r ≤ 2 ^ (bits - 1) - 1 then { code := r } else { code := 2 ^ (bits - 1) - 1, sat := true }

/-- emax of an MX format (R74). -/
def mxEmax (fmt : Nat) : Int :=
  if fmt = 0x6 then 8 else if fmt = 0x7 then 15 else if fmt = 0x8 then 4 else if fmt = 0x9 || fmt = 0xA then 2 else 0

/-- An element of an MX block, already divided by its scale: it saturates at the format's largest finite value (R74). -/
def convMx (fmt : Nat) (rd : Rnd) (v : FVal) : Conv :=
  match fltOf fmt, v with
  | some f, .fin n m e =>
    let c := f.codeOf rd m e
    if c ≤ f.top then { code := f.signBit n + c } else { code := f.signBit n + f.top, sat := true }
  | none, .fin _ _ _ => convI 8 rd (v.scale 6)
  | _, _ => { code := 0 }

def FVal.isFin : FVal → Bool
  | .fin _ _ _ => true
  | _ => false

def FVal.mag : FVal → Nat × Int
  | .fin _ m e => (m, e)
  | _ => (0, 0)

/-- floor(log2) of the largest magnitude of finite values; none when all are zero. -/
def maxLog : List FVal → Option Int
  | [] => none
  | v :: t =>
    let r := maxLog t
    if v.mag.1 = 0 then r
    else
      let l := (log2Of v.mag.1 : Int) + v.mag.2
      match r with
      | none => some l
      | some x => some (max l x)

/-- The scale byte of an MX block of values (R74). -/
def mxScale (fmt : Nat) (vs : List FVal) : Nat :=
  if vs.all FVal.isFin then
    match maxLog vs with
    | none => 0
    | some l => (max (-127) (min 127 (l - mxEmax fmt)) + 127).toNat
  else 255

/-- One MX block of values under its rounding draws: its elements; the scale is mxScale (R74). -/
def mxBlock (fmt : Nat) (rds : List Rnd) (vs : List FVal) : List Conv :=
  let sc := mxScale fmt vs
  if sc = 255 || (maxLog vs).isNone then vs.map fun _ => { code := 0 }
  else List.zipWith (fun rd v => convMx fmt rd (v.scale (127 - (sc : Int)))) rds vs

/-! ### FP32 of the vector unit (R75 to R77) -/

/-- A NaN the vector unit makes: the spec fixes no payload, so the payload is free. -/
def freeNaN (n lane : Nat) : Word := 0x7FC00000#32 ||| (Config.nanPayload n lane &&& 0x803FFFFF#32)

/-- An FP32 result, its NaN payload free. -/
def rndV (n lane : Nat) (v : FVal) : Word := if v = .nan then freeNaN n lane else toF32 v

/-- Order of FP32 numbers with −0 below +0 (R75). -/
def f32Key (w : Word) : Int := if bitAt w.toNat 31 then -((w.toNat % 2 ^ 31 : Nat) : Int) - 1 else (w.toNat : Int)

def fmaxV (n lane : Nat) (a b : Word) : Word :=
  if isNaN32 a || isNaN32 b then freeNaN n lane else if f32Key a ≥ f32Key b then a else b

def fminV (n lane : Nat) (a b : Word) : Word :=
  if isNaN32 a || isNaN32 b then freeNaN n lane else if f32Key a ≤ f32Key b then a else b

/-- ln 2 in units of 2^−160. -/
def ln2Fix : Nat := 0xb17217f7d1cf79abc9e3b39803f2f6af40f34326

/-- log2 e in units of 2^−160. -/
def log2eFix : Nat := 0x171547652b82fe1777d0ffda0d23a7d11d6aef551

/-- The series of e^z for z in units of 2^−160, from term k on, `fuel` terms. -/
def expSeries (z term k : Nat) : Nat → Nat
  | 0 => 0
  | fuel + 1 => term + expSeries z (term * z / 2 ^ 160 / (k + 1)) (k + 1) fuel

/-- 2^(f / 2^160) in units of 2^−160, for f below 2^160. -/
def pow2Frac (f : Nat) : Nat := expSeries (f * ln2Fix / 2 ^ 160) (2 ^ 160) 0 48

/-- The value 2^y for y = i / 2^160, with a sticky digit below an inexact one. -/
def pow2Fix (i : Int) : FVal :=
  let f := (i % (2 ^ 160 : Int)).toNat
  if f = 0 then .fin false 1 (i / (2 ^ 160 : Int)) else .fin false (pow2Frac f * 2 + 1) (i / (2 ^ 160 : Int) - 161)

/-- (−1)^n · m · 2^e in units of 2^−160, rounded down. -/
def fixOf (n : Bool) (m : Nat) (e : Int) : Int :=
  let s := e + 160
  let x : Int := if s ≥ 0 then (m * 2 ^ s.toNat : Nat) else if n then ((m + 2 ^ (-s).toNat - 1) / 2 ^ (-s).toNat : Nat) else (m / 2 ^ (-s).toNat : Nat)
  if n then -x else x

/-- Integer square root by digits: the largest r below 2^(fuel) + acc with r·r ≤ x. -/
def isqrtFrom (x acc : Nat) : Nat → Nat
  | 0 => acc
  | k + 1 => if (acc + 2 ^ k) * (acc + 2 ^ k) ≤ x then isqrtFrom x (acc + 2 ^ k) k else isqrtFrom x acc k

/-- a / b with a sticky digit. -/
def divMag (ma : Nat) (ea : Int) (mb : Nat) (eb : Int) : Nat × Int :=
  let q := ma * 2 ^ 96 / mb
  (q * 2 + (if q * mb = ma * 2 ^ 96 then 0 else 1), ea - eb - 97)

/-- 1 / √(m · 2^e) with a sticky digit. -/
def rsqrtMag (m : Nat) (e : Int) : Nat × Int :=
  let odd := decide (e % 2 ≠ 0)
  let m := if odd then m * 2 else m
  let e := if odd then e - 1 else e
  let x := 2 ^ 200 / m
  (isqrtFrom x 0 104 * 2 + 1, - (e / 2) - 101)

/-- The device's fixed result of a function within its bound (R76): the exactly rounded magnitude moved by at most `ulp` units in
the last place, by one unit of 2^−149 below 2^−126; the choice itself is unpublished and free. -/
def withinUlp (fn : Nat) (a b : Word) (ulp code : Nat) : Nat :=
  let u := if code < 0x00800000 then 1 else ulp
  min (code + Config.ulpChoice fn a b % (2 * u + 1) - u) 0x7F800000

def fnResult (fn : Nat) (a b : Word) (ulp : Nat) (neg : Bool) (m : Nat) (e : Int) : Word :=
  let c := fFP32.codeOf .rne m e
  if c ≥ 0x7F800000 then BitVec.ofNat 32 (fFP32.signBit neg + 0x7F800000)
  else BitVec.ofNat 32 (fFP32.signBit neg + withinUlp fn a b ulp c)

def fnNaN (fn : Nat) (a b : Word) : Word := 0x7FC00000#32 ||| (BitVec.ofNat 32 (Config.ulpChoice fn a b) &&& 0x803FFFFF#32)

def infW (neg : Bool) : Word := if neg then 0xFF800000 else 0x7F800000
def zeroW (neg : Bool) : Word := if neg then 0x80000000 else 0

/-- exp2, function 0 in the vector unit and 5 in the attention engine (R76, R77). -/
def fExp2 (fn : Nat) (a : Word) : Word :=
  match f32 a with
  | .nan => fnNaN fn a 0
  | .inf true => 0
  | .inf false => infW false
  | .fin n m e =>
    if m = 0 then fnResult fn a 0 2 false 1 0
    else if fixOf n m e ≥ 128 * 2 ^ 160 then infW false
    else if fixOf n m e < -200 * 2 ^ 160 then fnResult fn a 0 2 false 1 (-200)
    else match pow2Fix (fixOf n m e) with
      | .fin _ m' e' => fnResult fn a 0 2 false m' e'
      | _ => 0

/-- exp, function 1 (R76). -/
def fExp (a : Word) : Word :=
  match f32 a with
  | .nan => fnNaN 1 a 0
  | .inf true => 0
  | .inf false => infW false
  | .fin n m e =>
    if m = 0 then fnResult 1 a 0 3 false 1 0
    else if fixOf n m e ≥ 128 * 2 ^ 160 then infW false
    else if fixOf n m e < -200 * 2 ^ 160 then fnResult 1 a 0 3 false 1 (-200)
    else match pow2Fix (fixOf n m e * log2eFix / (2 ^ 160 : Int)) with
      | .fin _ m' e' => fnResult 1 a 0 3 false m' e'
      | _ => 0

/-- The reciprocal, function 2 in the vector unit and 6 in the attention engine (R76, R77). -/
def fRcp (fn : Nat) (a : Word) : Word :=
  match f32 a with
  | .nan => fnNaN fn a 0
  | .inf n => zeroW n
  | .fin n m e => if m = 0 then infW n else fnResult fn a 0 1 n (divMag 1 0 m e).1 (divMag 1 0 m e).2

/-- The reciprocal square root, function 3 (R76, R77). -/
def fRsqrt (a : Word) : Word :=
  match f32 a with
  | .nan => fnNaN 3 a 0
  | .inf n => if n then fnNaN 3 a 0 else 0
  | .fin n m e =>
    if m = 0 then infW n else if n then fnNaN 3 a 0
    else fnResult 3 a 0 2 false (rsqrtMag m e).1 (rsqrtMag m e).2

/-- Division, function 4, as a × 1/b with the bound of R76. -/
def fDiv (a b : Word) : Word :=
  match f32 a, f32 b with
  | .nan, _ => fnNaN 4 a b
  | _, .nan => fnNaN 4 a b
  | .inf _, .inf _ => fnNaN 4 a b
  | .inf x, .fin y _ _ => infW (x != y)
  | .fin x _ _, .inf y => zeroW (x != y)
  | .fin x ma ea, .fin y mb eb =>
    if mb = 0 then (if ma = 0 then fnNaN 4 a b else infW (x != y))
    else if ma = 0 then zeroW (x != y)
    else fnResult 4 a b 2 (x != y) (divMag ma ea mb eb).1 (divMag ma ea mb eb).2

/-- INT32 to FP32 under round-to-nearest-even. -/
def cvtIF (w : Word) : Word := toF32 (.ofInt w.toInt)

/-- FP32 to INT32 under round-to-nearest-even, saturating, NaN to 0. -/
def cvtFI (w : Word) : Word := BitVec.ofNat 32 (convI 32 .rne (f32 w)).code

/-- The pairwise tree over `levels` levels of a list of lanes (R148). -/
def treeSum (add : Word → Word → Word) : Nat → List Word → Word
  | 0, l => l.headD 0
  | k + 1, l => treeSum add k (pairUp l)
where
  pairUp : List Word → List Word
    | a :: b :: t => add a b :: pairUp t
    | l => l

/-- The 128 draws of an SR conversion, or round-to-nearest-even in every lane (R68 to R70). -/
def drawsOf (sr : Bool) (seed : DWord) (n : Nat) : List Rnd :=
  if sr then (List.range 128).map fun lane => .sr (Config.srDraw (if seed = 0 then 1 else seed) lane n)
  else List.replicate 128 .rne

end Sys2Proof.Machine
end

