-- ==== Sys2Proof/Machine/Flags.lean ====
section
/-! DEFINITION. The numeric status bits of a cluster and what sets them (spec/02_numerics.md R51, R52, R63, R67, R72, R83). -/

namespace Sys2Proof.Machine

/-- CLU_NUM_STATUS as a word (R83). -/
def NumStatus.word (f : NumStatus) : Nat :=
  optBool f.cvtSat + 2 * optBool f.intSat + 4 * optBool f.infOut + 8 * optBool f.nanOut + 16 * optBool f.scaleNan + 32 * optBool f.ternBad

/-- A write to CLU_NUM_STATUS: a 1 clears the bit (R16, R83). -/
def NumStatus.clear (f : NumStatus) (v : Nat) : NumStatus :=
  { cvtSat := f.cvtSat && !bitAt v 0, intSat := f.intSat && !bitAt v 1, infOut := f.infOut && !bitAt v 2,
    nanOut := f.nanOut && !bitAt v 3, scaleNan := f.scaleNan && !bitAt v 4, ternBad := f.ternBad && !bitAt v 5 }

/-- Events recorded on top of those held: no event clears a bit. -/
def NumStatus.or (a b : NumStatus) : NumStatus :=
  { cvtSat := a.cvtSat || b.cvtSat, intSat := a.intSat || b.intSat, infOut := a.infOut || b.infOut,
    nanOut := a.nanOut || b.nanOut, scaleNan := a.scaleNan || b.scaleNan, ternBad := a.ternBad || b.ternBad }

/-- What a float result written to the accumulator file records (R83). -/
def NumStatus.ofAcc (v : Word) : NumStatus := { nanOut := isNaN32 v, infOut := isInf32 v }

/-- What the conversions of a writeback record (R72, R83). -/
def NumStatus.ofConv (cs : List Conv) : NumStatus := { cvtSat := cs.any (·.sat), infOut := cs.any (·.inf) }

def Cluster.flag (c : Cluster) (f : NumStatus) : Cluster := { c with num := c.num.or f }

end Sys2Proof.Machine
end

