-- ==== Sys2Proof/Machine/Operands.lean ====
section
/-! DEFINITION. The operands of a schedule entry: scalar registers, scratchpad addresses through the buffer pairs, access
slots and the code words behind them (spec/04_cluster.md R145, R151; spec/05_scratchpad.md R155 to R166). -/

namespace Sys2Proof.Machine

/-! ### Registers -/

/-- A scalar register; s0 always reads 0 (R151). -/
def Cluster.s (c : Cluster) (r : BitVec 4) : DWord := if r = 0 then 0 else look 0 c.sreg r.toNat

/-- A scalar register written; a write to s0 is ignored (R151). -/
def Cluster.setS (c : Cluster) (r : Nat) (v : DWord) : Cluster := if r = 0 then c else { c with sreg := put 0 c.sreg r v }

/-- Lane l of a vector register (R145). -/
def Cluster.v (c : Cluster) (r : Nat) (l : Nat) : Word := look 0 c.vreg (r * 128 + l)

/-- The 128 lanes of a vector register. -/
def Cluster.vec (c : Cluster) (r : BitVec 4) : List Word := (List.range 128).map (c.v r.toNat)

def putVec (m : Store Word) (base : Nat) : List Word → Store Word
  | [] => m
  | w :: t => putVec (put 0 m base w) (base + 1) t

def Cluster.setVec (c : Cluster) (r : Nat) (ws : List Word) : Cluster := { c with vreg := putVec c.vreg (r * 128) ws }

/-- A landing added behind those on their way: on one register the one issued later takes effect (R145). -/
def Cluster.later (c : Cluster) (due : Nat) (w : Landing) : Cluster := { c with flight := c.flight ++ [{ due := due, issued := c.aclk, what := w }] }

/-! ### Addresses (R155, R164, R165) -/

def spdSize : Nat := 4194304

/-- SPD_DBUFn as a declaration: valid, half in bytes, base in bytes (R164). -/
def pairValid (w : Word) : Bool := w.getLsbD 31
def pairHalf (w : Word) : Nat := bitsAt w.toNat 18 13 * 512
def pairBase (w : Word) : Nat := bitsAt w.toNat 0 13 * 512

/-- The physical address an access reaches under a set of pairs and role bits (R165). -/
def mapPair (dbuf : Store Word) (role : BitVec 16) (a : Nat) : Nat → Nat
  | 0 => a
  | n + 1 =>
    let w := look 0 dbuf n
    let h := pairHalf w
    let b := pairBase w
    if pairValid w && decide (b ≤ a) && decide (a < b + 2 * h) then
      (if role.getLsbD n then (if a < b + h then a + h else a - h) else a)
    else mapPair dbuf role a n

/-- The physical word of a word index, modulo the scratchpad (R155, R165). -/
def Cluster.physWord (c : Cluster) (w : Nat) : Nat := mapPair c.dbuf c.role (w % 131072 * 32) 16 / 32

/-- Bank of a physical word (R155). -/
def bankOf (w : Nat) : Nat := w % 16
def bankWord (w : Nat) : Nat := w / 16
def physRow (w : Nat) : Nat := w / 256

/-- The words a byte range touches, wrapping at 4 MiB (R155). -/
def spdWords (a n : Nat) : List Nat := (wordsOf (a % spdSize) n).map (· % 131072)

/-- Bank power as SPD_BANK_PWR gives it, and whether the bank is on with its return complete (R173). -/
def Cluster.bankState (c : Cluster) (b : Nat) : Nat := bitsAt c.bankPwr.toNat (2 * b) 2
def Cluster.bankOn (c : Cluster) (b : Nat) : Bool := decide (c.bankState b = 0) && decide (look 0 c.bankReady b = 0)

/-! ### Code words (R156 to R158) -/

/-- The stored bytes of a physical word; an unwritten word reads as zero (R158). -/
def Cluster.word (c : Cluster) (w : Nat) : List Byte :=
  if look false c.written w then readBytes c.spd (w * 32) 32 else zeros 32

/-- The 288 bits stored for a physical word: the code word of its data with the errors it has (R156). -/
def Cluster.stored (c : Cluster) (w : Nat) : BitVec 288 := codeWord (c.word w) ^^^ look 0 c.spdErr w

/-- Symbol errors of a physical word. -/
def Cluster.errs (c : Cluster) (w : Nat) : Nat := symErrs (look 0 c.spdErr w)

/-- Whether a read of a word is uncorrectable (R157). -/
def Cluster.lostWord (c : Cluster) (w : Nat) : Bool := decide (2 ≤ c.errs w) && decide (c.errs w ≤ 3)

/-- What a read of a word delivers: free bytes where the code may miscorrect and where nothing is delivered (R157). -/
def Cluster.read (c : Cluster) (pcid w : Nat) : List Byte :=
  if c.errs w ≤ 1 then c.word w else (List.range 32).map fun i => Config.eccByte pcid (w * 32 + i) c.aclk

/-- Bytes at a logical address, through the pairs (R165). -/
def Cluster.readAt (c : Cluster) (pcid a n : Nat) : List Byte :=
  slice (((spdWords a n).map c.physWord).flatMap (c.read pcid)) (a % 32) n

/-- A word's bytes written: the written flag is set, the substitution flag takes its mark, new check symbols replace the old
(R158, R242). -/
def Cluster.writeWord (c : Cluster) (a : Nat) (bytes : List Byte) (sub : Nat) : Cluster :=
  let w := a / 32
  let whole := decide (bytes.length = 32)
  let base := if look false c.written w then c.spd else writeBytes c.spd (w * 32) (zeros 32)
  { c with spd := writeBytes base a bytes, written := put false c.written w true, subst := put 0 c.subst w sub,
           spdErr := if whole || decide (c.errs w ≤ 1) then put 0 c.spdErr w 0 else c.spdErr }

/-- Consecutive bytes at physical addresses, word by word. -/
def Cluster.writePhys (c : Cluster) (sub : Nat) (a : Nat) (bytes : List Byte) : Nat → Cluster
  | 0 => c
  | fuel + 1 =>
    if bytes.isEmpty then c
    else
      let n := 32 - a % 32
      (c.writeWord (a % spdSize) (bytes.take n) sub).writePhys sub (a + n) (bytes.drop n) fuel

/-! ### Access slots and ports (R149, R159 to R161) -/

/-- The slots of a bank: A 0, B 1, N 2, W 3. -/
abbrev SlotUse := Nat × Nat × Nat

def slotUses (aclk kind : Nat) (ws : List Nat) : List SlotUse := ws.map fun w => (aclk, kind, bankOf w)

/-- Whether uses meet each other. -/
def selfMeets : List SlotUse → Bool
  | [] => false
  | u :: t => t.contains u || selfMeets t

/-- Reserves the slots of an access; none when one is held already, twice named, or its bank is not on (R161, R174). -/
def Cluster.claim (c : Cluster) (us : List SlotUse) : Option Cluster :=
  if selfMeets us || us.any (fun u => c.uses.contains u) || us.any (fun u => !c.bankOn u.2.2) then none
  else some { c with uses := c.uses ++ us }

/-- Reserves ports, read 0, read 1, write 2, each for an aclk (R149). -/
def Cluster.claimPorts (c : Cluster) (ps : List (Nat × Nat)) : Option Cluster :=
  if ps.any fun p => c.ports.contains p then none else some { c with ports := c.ports ++ ps }

/-- The entry's scalar field and a vector post-increment may not write one register (R146, R151). -/
def Cluster.claimReg (c : Cluster) (r : BitVec 4) (vector : Bool) : Option Cluster :=
  if r ≠ 0 && c.entryW.contains (r.toNat, !vector) then none else some { c with entryW := c.entryW ++ [(r.toNat, vector)] }

/-! ### Corrected and uncorrectable reads (R157, R180) -/

/-- Counts a corrected error of a physical word against its bank and row (R157, R181). -/
def Cluster.countCe (c : Cluster) (w : Nat) : Cluster :=
  { c with ecc := { c.ecc with ceCount := satTo 0xFFFF (c.ecc.ceCount + 1), lastBank := bankOf w, lastRow := physRow w,
                               rowErrs := upd 0 c.ecc.rowErrs (bankOf w * 512 + physRow w) (· + 1) } }

def Cluster.markUe (c : Cluster) (w : Nat) : Cluster :=
  { c with ecc := { c.ecc with ue := true, lastBank := bankOf w, lastRow := physRow w } }

/-- What reading words does beside delivering them: corrected errors are counted, an uncorrectable one raises cause 5, which records the
context of the entry or stream that read the word and does not name it (R157). -/
def Chip.eccReads (ch : Chip) (k : Clock) (c ctx : Nat) (ws : List Nat) : Chip :=
  (ws.filter fun w => (ch.cl c).errs w ≠ 0).foldl (fun h w =>
    if (h.cl c).errs w = 1 then h.modCl c (·.countCe w)
    else if (h.cl c).lostWord w then (h.modCl c (·.markUe w)).fault k 5 (.cluster c) (w * 32) ctx else h) ch

end Sys2Proof.Machine
end

