-- ==== Sys2Proof/Machine/Oag.lean ====
section
/-! DEFINITION. The operand address generators (spec/03_matrix_array.md R110 to R114). -/

namespace Sys2Proof.Machine

def Oag.reg (o : Oag) (n : Nat) : Nat := (look 0 o.regs n).toNat

def Oag.inH (o : Oag) : Nat := bitsAt (o.reg 6) 0 13
def Oag.inW (o : Oag) : Nat := bitsAt (o.reg 6) 16 13
def Oag.outH (o : Oag) : Nat := bitsAt (o.reg 7) 0 9
def Oag.outW (o : Oag) : Nat := bitsAt (o.reg 7) 16 9
def Oag.oy0 (o : Oag) : Nat := bitsAt (o.reg 8) 0 12
def Oag.ox0 (o : Oag) : Nat := bitsAt (o.reg 8) 16 12
def Oag.kH (o : Oag) : Nat := bitsAt (o.reg 9) 0 5
def Oag.kW (o : Oag) : Nat := bitsAt (o.reg 9) 8 5
def Oag.cblocks (o : Oag) : Nat := bitsAt (o.reg 9) 16 9
def Oag.batch (o : Oag) : Nat := bitsAt (o.reg 10) 0 9
def Oag.strideY (o : Oag) : Nat := bitsAt (o.reg 11) 8 4
def Oag.strideX (o : Oag) : Nat := bitsAt (o.reg 11) 12 4
def Oag.dilY (o : Oag) : Nat := bitsAt (o.reg 11) 16 4
def Oag.dilX (o : Oag) : Nat := bitsAt (o.reg 11) 20 4
def Oag.padTop (o : Oag) : Nat := bitsAt (o.reg 11) 24 4
def Oag.padLeft (o : Oag) : Nat := bitsAt (o.reg 11) 28 4
def Oag.scaleEn (o : Oag) : Bool := bitAt (o.reg 12) 2
def Oag.scaleBlock (o : Oag) : Nat := if bitAt (o.reg 12) 1 then 16 else 32

/-- CLU_OAGn_STATE (R112); pass_idx after 65,536 passes reads modulo 65,536 (DESIGN CHOICE, log entry 59). -/
def Oag.state (o : Oag) : Nat := (o.pass % 65536) * 65536 + optBool o.done * 256 + o.vec % 256

/-- The bits of generator register n that hold fields (R112). -/
def oagMask (n : Nat) : Nat :=
  if n = 1 then 0x3FFFFF else if n = 6 then 0x1FFF1FFF else if n = 7 then 0x01FF01FF else if n = 8 then 0x0FFF0FFF
  else if n = 9 then 0x01FF1F1F else if n = 10 then 0x1FF else if n = 11 then 0xFFFFFF00 else if n = 12 then 0x6 else 0x1FFFF

/-- Whether a count or size field of a value written to register n is above its range (R113). -/
def oagAbove (n v : Nat) : Bool :=
  if n = 6 then decide (bitsAt v 0 13 > 4096) || decide (bitsAt v 16 13 > 4096)
  else if n = 7 then decide (bitsAt v 0 9 > 256) || decide (bitsAt v 16 9 > 256)
  else if n = 9 then decide (bitsAt v 0 5 > 16) || decide (bitsAt v 8 5 > 16) || decide (bitsAt v 16 9 > 256)
  else if n = 10 then decide (bitsAt v 0 9 > 256)
  else false

/-- Whether a GEOM value holds a stride or dilation of 0 (R113). -/
def geomZero (v : Nat) : Bool :=
  decide (bitsAt v 8 4 = 0) || decide (bitsAt v 12 4 = 0) || decide (bitsAt v 16 4 = 0) || decide (bitsAt v 20 4 = 0)

/-- Whether a start would be illegal: a stride or dilation is 0 (R113). -/
def Oag.geomBad (o : Oag) : Bool := geomZero (o.reg 11)

/-- Whether the walk is empty (R113). -/
def Oag.empty (o : Oag) : Bool :=
  decide (o.kH = 0) || decide (o.kW = 0) || decide (o.cblocks = 0) || decide (o.batch = 0) || decide (o.outH = 0) || decide (o.outW = 0)

/-- A start: every loop index to 0, and done as the walk is empty or not (R112, R113). -/
def Oag.start (o : Oag) : Oag :=
  { o with ky := 0, kx := 0, cb := 0, b := 0, oy := 0, ox := 0, pass := 0, vec := 0, done := o.empty }

/-- A write to register n takes effect: the fields are stored, a 1 in CTRL.start starts the walk (R112, R113). -/
def Oag.write (o : Oag) (n : Nat) (v : Word) : Oag :=
  if n = 13 then o
  else
    let o := { o with regs := put 0 o.regs n (BitVec.ofNat 32 (v.toNat &&& oagMask n)) }
    if n = 12 && v.getLsbD 0 then o.start else o

/-- What a read of register n returns (R112, R16). -/
def Oag.read (o : Oag) (n : Nat) : Nat := if n = 13 then o.state else o.reg n

/-- One step of a walk: masked, or a word address and a scale byte address (R110). -/
structure OagStep where
  masked : Bool
  addr : Nat
  scaleAddr : Nat
  deriving DecidableEq, Repr

/-- The step the walk stands at (R110). -/
def Oag.step (o : Oag) : OagStep :=
  let iy : Int := (((o.oy0 + o.oy) * o.strideY + o.ky * o.dilY : Nat) : Int) - o.padTop
  let ix : Int := (((o.ox0 + o.ox) * o.strideX + o.kx * o.dilX : Nat) : Int) - o.padLeft
  if iy < 0 ∨ iy ≥ o.inH ∨ ix < 0 ∨ ix ≥ o.inW then { masked := true, addr := 0, scaleAddr := 0 }
  else
    let off := o.b * o.reg 4 + iy.toNat * o.reg 3 + ix.toNat * o.reg 2 + o.cb * o.reg 5
    { masked := false, addr := (o.reg 0 + off) % 131072, scaleAddr := (o.reg 1 + off * 32 / o.scaleBlock) % 4194304 }

/-- The walk moved on by one step, in the order of R110's loops. -/
def Oag.next (o : Oag) : Oag :=
  let o := { o with vec := o.vec + 1 }
  if o.ox + 1 < o.outW then { o with ox := o.ox + 1 }
  else if o.oy + 1 < o.outH then { o with ox := 0, oy := o.oy + 1 }
  else if o.b + 1 < o.batch then { o with ox := 0, oy := 0, b := o.b + 1 }
  else
    let o := { o with ox := 0, oy := 0, b := 0, vec := 0, pass := o.pass + 1 }
    if o.cb + 1 < o.cblocks then { o with cb := o.cb + 1 }
    else if o.kx + 1 < o.kW then { o with cb := 0, kx := o.kx + 1 }
    else if o.ky + 1 < o.kH then { o with cb := 0, kx := 0, ky := o.ky + 1 }
    else { o with done := true }

/-- The steps an ISSUE of L lanes draws, with their vector numbers in the pass, and the generator after it: lanes past the end of
the pass or of the walk carry none (R114). -/
def Oag.draw (o : Oag) : Nat → List (Option (Nat × OagStep)) × Oag
  | 0 => ([], o)
  | l + 1 =>
    if o.done then (List.replicate (l + 1) none, o)
    else
      let o' := o.next
      if o'.done || decide (o'.vec = 0) then (some (o.vec, o.step) :: List.replicate l none, o')
      else let r := o'.draw l; (some (o.vec, o.step) :: r.1, r.2)

def Cluster.oag (c : Cluster) (g : Bool) : Oag := if g then c.oag1 else c.oag0
def Cluster.setOag (c : Cluster) (g : Bool) (o : Oag) : Cluster := if g then { c with oag1 := o } else { c with oag0 := o }

end Sys2Proof.Machine
end

