-- ==== Sys2Proof/Machine/RunOps.lean ====
section
/-! DEFINITION. Runs and admitted requests as every unit that ends one reports it (spec/13_host_protocol.md R393, R394, R397). -/

namespace Sys2Proof.Machine

def Chip.run? (ch : Chip) (id : Nat) : Option Run := ch.runs.find? fun r => r.id = id

def Chip.modRun (ch : Chip) (id : Nat) (f : Run → Run) : Chip :=
  { ch with runs := ch.runs.map fun r => if r.id = id then f r else r }

/-- Status codes of slot states, as SEQ_SLOTn_STATUS numbers them (R141). -/
def SlotState.code : SlotState → Nat
  | .empty => 0
  | .loaded => 1
  | .running => 2
  | .waiting => 3
  | .yielded => 4
  | .ended => 5
  | .cancelled => 6
  | .faulted => 7

/-- Whether a slot counts as running or waiting for a refusal (R513). -/
def SlotState.busy : SlotState → Bool
  | .running => true
  | .waiting => true
  | .yielded => true
  | _ => false

/-- A retired request no longer keeps the REQ_END that ended it from being complete (R383). -/
def Chip.reqEndLess (ch : Chip) (p id : Nat) : Chip :=
  { ch with works := (ch.works.map fun (w : Work) => match w.kind with
      | .reqEnd ids => if w.part = p then { w with kind := .reqEnd (ids.filter (· ≠ id)) } else w
      | _ => w).filter fun (w : Work) => decide (w.kind ≠ .reqEnd []) }

/-- The req_done of an ended request with no run left, which retires it (R394, R397). -/
def Chip.reqDone (ch : Chip) (k : Clock) (p : Nat) (r : Request) : Chip :=
  let ch := (ch.modPt p fun x => { x with requests := x.requests.filter fun y => y.id ≠ r.id }).reqEndLess p r.id
  let ev : Event := { code := 0xE003, status := Status.ok.code, part := p, ctx := r.ctx, origSeq := r.seqNo, origOp := 0x0507,
                      payload := toBe r.id 4 ++ toBe r.rev 4 ++ toBe r.fidelity 8 ++ toBe r.served 4, stamp := k.timebase }
  match ch.session? r.session with
  | some x => if x.closed then ch else ch.raiseTo k p [r.session] ev
  | none => ch.raiseTo k p (ch.openSessions p) ev

/-- Sends the req_done of every request of a partition that has ended and has no run left. -/
def Chip.reqCheck (ch : Chip) (k : Clock) (p : Nat) : Chip :=
  ((ch.pt p).requests.filter fun r => r.ending && decide (r.runs = 0)).foldl (fun c r => c.reqDone k p r) ch

def Run.bytes (r : Run) : List Byte :=
  toBe r.id 4 ++ toBe r.fidelity 8 ++
    r.ended.flatMap fun (e : Nat × Nat × Nat × Nat) => toBe e.1 1 ++ toBe e.2.1 1 ++ toBe e.2.2.1 1 ++ zeros 1 ++ toBe e.2.2.2 4

/-- Ends a run: run_done to its sender, and its fidelity count to each request it served (R397). -/
def Chip.runFinish (ch : Chip) (k : Clock) (r : Run) (st : Status) : Chip :=
  let ch := { ch with runs := ch.runs.filter fun x => x.id ≠ r.id }
  let ch := match ch.works.find? fun (w : Work) => w.kind = WorkKind.run r.id with
    | some w => ch.complete k w 0xE002 st r.bytes
    | none => ch
  let ch := ch.modPt r.part fun x =>
    { x with fidTotal := x.fidTotal + r.fidelity,
             requests := x.requests.map fun (q : Request) =>
               if q.id ∈ r.requests then { q with runs := q.runs - 1, served := q.served + 1, fidelity := q.fidelity + r.fidelity } else q }
  ch.reqCheck k r.part

/-- Ends a run when all its slots and tasks have ended (R397). -/
def Chip.runCheck (ch : Chip) (k : Clock) (id : Nat) : Chip :=
  match ch.run? id with
  | none => ch
  | some r => if r.slots.isEmpty && r.engines.isEmpty then ch.runFinish k r (if r.recovering then .recovering else .ok) else ch

/-- A slot of a run reached its final state with its pointer (R138, R397). -/
def Chip.runSlotEnded (ch : Chip) (k : Clock) (id lcid n state ptr : Nat) : Chip :=
  (ch.modRun id fun r =>
    if (lcid, n) ∈ r.slots then { r with slots := r.slots.filter (· ≠ (lcid, n)), ended := r.ended ++ [(lcid, n, state, ptr)] } else r).runCheck k id

/-- An engine of a run has no further task of it (R326, R397). -/
def Chip.runEngineEnded (ch : Chip) (k : Clock) (id e : Nat) : Chip :=
  (ch.modRun id fun r => { r with engines := r.engines.filter (· ≠ e) }).runCheck k id

/-- Fallback blocks of a completed descriptor count to the run it completed in (R397). -/
def Chip.runFidelity (ch : Chip) (id n : Nat) : Chip := ch.modRun id fun r => { r with fidelity := r.fidelity + n }

end Sys2Proof.Machine
end

