-- ==== Sys2Proof/Machine/Slots.lean ====
section
/-! DEFINITION. Task slots, waits and switches: what every schedule-entry field shares (spec/04_cluster.md R126 to R139). -/

namespace Sys2Proof.Machine

/-! ### Activity (R436) -/

/-- Kinds of counted activity: MACs of the segment class 0 and of the row class 1, front groups 2, slot uses 3, vector
operations 4, scalar operations 5, attention blocks 6, filler 7, delivered edges 8. -/
def Cluster.count (c : Cluster) (kind n : Nat) : Cluster := { c with activity := upd 0 c.activity kind (· + n) }

/-! ### Issuing -/

/-- What one field of an entry does when its entry issues; none: the entry is illegal. -/
abbrev Field := Clock → Chip → Cluster → Option Chip

def Cluster.curSlot (c : Cluster) : Slot := c.slot c.cur

/-- The cluster's fields act: it serves an owner, its edges run, its current slot is running, a switch's eight aclk have
passed (R136), and neither a replay nor a capture holds the slot (R457, R470). -/
def Cluster.issuing (c : Cluster) : Bool :=
  decide (c.svc = .owned) && !c.parked && decide (c.curSlot.st = .running) && !c.curSlot.held && decide (c.issueAt ≤ c.aclk) && c.capture.isNone

def Cluster.modSlot (c : Cluster) (n : Nat) (f : Slot → Slot) : Cluster := { c with slots := upd {} c.slots n f }

/-- The wait a slot stands in unsatisfied. -/
def Slot.standing (s : Slot) : Option WaitRec := s.wait.filter fun w => w.taken.isNone

/-- A slot that is ready: started and not waiting, or standing in a wait that is satisfied (R135). -/
def Slot.ready (s : Slot) : Bool := !s.held && (decide (s.st = .running) || (decide (s.st = .yielded) && s.standing.isNone))

/-- The ready slot of highest priority, ties to the first after the outgoing slot cyclically (R136). -/
def Cluster.choose (c : Cluster) : Option Nat :=
  (((List.range 4).map fun i => (c.cur + 1 + i) % 4).filter fun n => (c.slot n).ready).foldl
    (fun best n => match best with
      | none => some n
      | some b => if (c.slot b).prio < (c.slot n).prio then some n else some b) none

/-- A switch to the chosen ready slot, whose first entry issues 8 aclk later (R136, R137); none ready: the sequencer idles. The wait of a
slot that yielded in one is satisfied: it resumes with the rest of its waiting entry. -/
def Cluster.switch (c : Cluster) : Cluster :=
  match c.choose with
  | none => c
  | some n => { (c.modSlot n fun s => { s with st := .running, wait := none }) with
      cur := n, issueAt := c.aclk + 8, acted := if (c.slot n).st = .yielded then 4 else 0, yielding := false }

/-- The budget of the current slot's wait has passed (R135). -/
def Cluster.budgetPast (c : Cluster) : Bool :=
  match c.curSlot.standing with
  | some w => decide (c.curSlot.st = .waiting) && decide (w.since + w.budget ≤ c.aclk)
  | none => false

def Slot.countYield (s : Slot) : Slot := { s with yields := satTo 0xFFFFFFFF (s.yields + 1) }

/-- The current slot yields in its wait (R135). -/
def Cluster.yieldWait (c : Cluster) : Cluster := (c.modSlot c.cur fun s => { s.countYield with st := .yielded }).switch

/-- A slot leaves the running in a final state, and the sequencer switches when it was the current one (R135, R138). -/
def Cluster.stopSlot (c : Cluster) (n : Nat) (st : SlotState) : Cluster :=
  let c' := c.modSlot n fun s => { s with st := st, wait := none, cancelling := false }
  if c.cur = n then { c' with acted := 0, yielding := false }.switch else c'

/-- The context's watchdog restarts when a slot of it issues an entry (R471). -/
def Chip.progress (ch : Chip) (k : Clock) (p ctx : Nat) : Chip :=
  ch.modPt p fun x => { x with contexts := upd none x.contexts ctx fun o => o.map fun y => { y with restart := k.localNs } }

/-- An illegal entry: its slot stops faulted with the pointer at it, and cause 1 names the context (R57, R139, R449). -/
def Chip.illegal (ch : Chip) (k : Clock) (c : Nat) : Chip :=
  let s := (ch.cl c).curSlot
  (ch.modCl c fun x => x.stopSlot x.cur .faulted).fault k 1 (.ctx s.part s.ctx) s.ptr

/-- A slot ends for its run: with the state and the pointer it has (R138, R397). -/
def Chip.reportSlot (ch : Chip) (k : Clock) (c n : Nat) : Chip :=
  let s := (ch.cl c).slot n
  match (ch.cl c).lcid with
  | some l => ch.runSlotEnded k s.run l n s.st.code s.ptr
  | none => ch

/-- A slot is stopped at once and reported: cancelled (R138) or reset (R452). -/
def Chip.cancelSlot (ch : Chip) (k : Clock) (c n : Nat) : Chip :=
  (ch.modCl c fun x => x.stopSlot n .cancelled).reportSlot k c n

/-! ### What a wait waits on (R127) -/

/-- The semaphore log entry the lcid's replay stands at, while it replays (R464). -/
def Chip.replayOp (ch : Chip) (c : Nat) : Option SemOp :=
  match (ch.cl c).replay, (ch.cl c).lcid with
  | some r, some l => ((ch.rg (regionOf c)).mir l).log[r.pos]?
  | _, _ => none

/-- Whether a wait of a cluster's slot is satisfied now. -/
def Chip.waitMet (ch : Chip) (c : Nat) (s : Slot) (w : WaitOn) : Bool :=
  match w with
  | .sem k n => decide (n ≤ look 0 (ch.rg (regionOf c)).sems k) || (ch.replayOp c).isSome
  | .bar b gen => let d := (((ch.pt s.part).bar b).gen - BitVec.ofNat 16 gen).toNat; decide (1 ≤ d) && decide (d ≤ 32767)
  | .half st h => let y := (ch.str (regionOf c) st).half h; y.ready && (match y.readyAt with | some t => decide (t < (ch.cl c).aclk) | none => true)

/-- The waits on one semaphore that the value covers when they are granted in ascending lcid order (R129). -/
def grants : Nat → List (Nat × Nat × Nat × Nat) → List (Nat × Nat)
  | _, [] => []
  | v, (_, c, slot, n) :: t => if n ≤ v then (c, slot) :: grants (v - n) t else grants v t

/-- Every wait on a semaphore of a region, in ascending lcid order: lcid, cluster, slot, count. -/
def Chip.semWaits (ch : Chip) (r k : Nat) : List (Nat × Nat × Nat × Nat) :=
  sortBy (fun a => a.1) ((List.range 5).flatMap fun i =>
    let c := r * 5 + i
    match (ch.cl c).lcid with
    | none => []
    | some l => (List.range 4).filterMap fun n =>
        match ((ch.cl c).slot n).standing with
        | some { on := .sem k' m, .. } => if k' = k then some (l, c, n, m) else none
        | _ => none)

/-- Whether a slot of a region in state 3 or 4 has a wait that names a semaphore, satisfied or not (R513). -/
def Chip.semWaited (ch : Chip) (r k : Nat) : Bool :=
  (List.range 5).any fun i => (List.range 4).any fun n =>
    let s := (ch.cl (r * 5 + i)).slot n
    (decide (s.st = .waiting) || decide (s.st = .yielded)) && (match s.wait with | some { on := .sem k' _, .. } => decide (k' = k) | _ => false)

/-- The effect of a wait's satisfaction: a semaphore is lowered and the operation logged, unless a replay absorbs it (R127, R460,
R464). -/
def Chip.logSem (ch : Chip) (c : Nat) (op : SemOp) : Chip :=
  match (ch.cl c).lcid with
  | none => ch
  | some l => ch.modMir (regionOf c) l fun m => if m.log.length < 64 then { m with log := m.log ++ [op] } else { m with overflow := true }

/-- A semaphore operation of an entry while its lcid replays: matched against the log (R464). -/
inductive Absorb where
  | live
  | absorbed
  | mismatch
  deriving DecidableEq, Repr

def Chip.absorb (ch : Chip) (c : Nat) (op : SemOp) : Absorb :=
  match ch.replayOp c with
  | none => .live
  | some e => if e = op then .absorbed else .mismatch

def Chip.replayStep (ch : Chip) (c : Nat) : Chip := ch.modCl c fun x => { x with replay := x.replay.map fun r => { r with pos := r.pos + 1 } }

/-- A log mismatch in replay escalates the fault that began it to partition reset (R464): a hang, for a suspect's. -/
def Chip.replayMismatch (ch : Chip) (k : Clock) (c : Nat) : Chip :=
  match ch.ownerOfCl c with
  | some p =>
    let cause := match ch.rcv.steps.find? fun s => s.unit = .cluster c || s.unit = .streamEng (regionOf c) with | some s => s.cause | none => 10
    ch.fault k cause (.part p) 0
  | none => ch

/-- Whether a slot's wait may be taken now: semaphore waits by the grant order (R129), none while a capture holds the cluster (R457). -/
def Chip.waitTurn (ch : Chip) (c n : Nat) (w : WaitOn) : Bool :=
  (ch.cl c).capture.isNone && !((ch.cl c).slot n).held && ch.waitMet c ((ch.cl c).slot n) w &&
  (match w with
   | .sem j _ => (ch.replayOp c).isSome || (grants (look 0 (ch.rg (regionOf c)).sems j) (ch.semWaits (regionOf c) j)).contains (c, n)
   | _ => true)

/-- The current slot's wait has been presented for its budget and is still unsatisfied (R135). -/
def Chip.budgetOut (ch : Chip) (c : Nat) : Bool :=
  let x := ch.cl c
  x.budgetPast && (match x.curSlot.standing with | some w => !ch.waitTurn c x.cur w.on | none => false)

/-- After a slot became ready: an idle sequencer takes it; a wait past its budget yields to it (R135, R137). -/
def Chip.wake (ch : Chip) (c : Nat) : Chip :=
  let x := ch.cl c
  if x.curSlot.st = .running then ch
  else if x.curSlot.st = .waiting then (if ch.budgetOut c && x.choose.isSome then ch.modCl c (·.yieldWait) else ch)
  else ch.modCl c (·.switch)

/-- Takes a satisfied wait: what it did, and the block after it. -/
def Chip.takeWait (ch : Chip) (k : Clock) (c : Nat) : WaitOn → Taken × Chip
  | .sem j n =>
    let op : SemOp := { wait := true, sem := j, n := n }
    let t := (ch.cl c).aclk
    (match ch.absorb c op with
    | .absorbed => ({ at_ := t, absorbed := true }, ch.replayStep c)
    | .mismatch => ({ at_ := t }, ch.replayMismatch k c)
    | .live => ({ at_ := t, logged := true }, (ch.modRg (regionOf c) fun r => { r with sems := upd 0 r.sems j (· - n) }).logSem c op))
  | .bar _ _ => ({ at_ := (ch.cl c).aclk }, ch)
  | .half st h =>
    ({ at_ := (ch.cl c).aclk, first := ((ch.str (regionOf c) st).half h).satisfied.isNone },
     (ch.modStr (regionOf c) st fun x => x.modHalf h fun y => { y with satisfied := some (y.satisfied.getD k.timebase) }).redry k (regionOf c) st)

/-- A satisfaction undone by a cancel of the same aclk (R138). -/
def Chip.untakeWait (ch : Chip) (k : Clock) (c : Nat) (w : WaitRec) : Chip :=
  match w.taken, w.on with
  | some t, .sem j n =>
    let r := regionOf c
    let ch := if t.absorbed then ch.modCl c fun x => { x with replay := x.replay.map fun y => { y with pos := y.pos - 1 } } else ch
    if t.logged then
      let ch := ch.modRg r fun g => { g with sems := upd 0 g.sems j (· + n) }
      match (ch.cl c).lcid with
      | some l => ch.modMir r l fun m => if m.overflow then m else { m with log := m.log.dropLast }
      | none => ch
    else ch
  | some t, .half st h => if t.first then (ch.modStr (regionOf c) st fun x => x.modHalf h fun y => { y with satisfied := none }).redry k (regionOf c) st else ch
  | _, _ => ch

/-- The current slot stands in its entry's wait from this aclk on (R126, R135). -/
def Chip.stand (ch : Chip) (c : Nat) (w : WaitOn) (dl : BitVec 2) : Chip :=
  ch.modCl c fun x => x.modSlot x.cur fun y =>
    { y with st := .waiting, wait := some { on := w, budget := look 0xFFFFFF y.budgets dl.toNat, since := x.aclk } }

/-- A slot's wait is satisfied (R126): the waiting entry of the current slot goes on to issue, a yielded slot becomes ready (R135). -/
def Chip.satisfy (ch : Chip) (k : Clock) (c n : Nat) (w : WaitRec) : Chip :=
  let r := ch.takeWait k c w.on
  let ch := r.2.modSlot c n fun y => { y with wait := some { w with taken := some r.1 } }
  if ((ch.cl c).slot n).st = .waiting then ch.modCl c fun x => { (x.modSlot n fun y => { y with st := .running }) with acted := 4 }
  else ch.wake c

/-- Whether a message of a cluster is accepted: its pcid serves the lcid at the current epoch (R477). -/
def Chip.fresh? (ch : Chip) (c : Nat) (epoch : BitVec 16) : Bool :=
  decide ((ch.cl c).epoch = epoch) && (match (ch.cl c).lcid with | some l => decide (ch.pcid l = some c) | none => false)

/-- A stale message is dropped and counted in TAL_DROPS (R477). -/
def Chip.dropStale (ch : Chip) : Chip := { ch with rcv := { ch.rcv with drops := satTo 0xFFFFFFFF (ch.rcv.drops + 1) } }

end Sys2Proof.Machine
end

