-- ==== Sys2Proof/Machine/Array.lean ====
section
/-! DEFINITION. The matrix array: fronts, vectors, fronds and the accumulator file (spec/03_matrix_array.md, R142 to R144). -/

namespace Sys2Proof.Machine

/-! ### Geometry (R105) -/

def sideOf (mode : Nat) : Nat := if mode = 0 then 128 else if mode = 1 then 64 else 32
def perOf (side : Nat) : Nat := 128 / side
def segsOf (side : Nat) : Nat := side / 32

/-- Entries of a frond's accumulator slice (R105). -/
def sliceOf (side : Nat) : Nat := 2 * side

def ArrayState.side (a : ArrayState) : Nat := sideOf a.mode
def ArrayState.frondAt (a : ArrayState) (f : Nat) : Frond := look {} a.fronds f

/-- The pairing a frond holds; INT8 × INT8 until its first FRONT (R106). -/
def pairOf (wf af : Nat) : Pairing := (pairing wf af).getD { int := true, row := false, lanes := 1, w := 1, q := 4 }

def Front.pair (f : Front) : Pairing := pairOf f.wfmt f.afmt

/-- The aclk of the last write of a front, in its last column (R96). -/
def Front.lastWrite (f : Front) : Nat :=
  f.start + (f.side - 1) + (f.side - 1) / f.pair.q + (if f.pair.row then 0 else (f.side - 1) / 32)

/-- The aclk in which column n's result of a vector is written (R90, R91). -/
def VecFlight.writeAt (v : VecFlight) (n : Nat) : Nat :=
  v.issued + n + (if (pairOf v.wfmt v.afmt).row then v.side + 3 else segsOf v.side)

/-- Whether a frond is empty in aclk t: every write of its fronts and vectors has taken place (R103). -/
def ArrayState.frondEmpty (a : ArrayState) (t f : Nat) : Bool :=
  (a.fronts.all fun x => decide (x.frond ≠ f) || decide (x.lastWrite < t)) &&
  (a.vecs.all fun v => decide (v.frond ≠ f) || decide (v.writeAt (v.side - 1) < t))

def ArrayState.empty (a : ArrayState) (t : Nat) : Bool :=
  (a.fronts.all fun x => decide (x.lastWrite < t)) && (a.vecs.all fun v => decide (v.writeAt (v.side - 1) < t))

/-- CLU_ARR_STATUS (R117). A front counts from its issue to its last write in its last column, and above four the count reads 4 (DESIGN CHOICE,
log entry 58). -/
def ArrayState.status (a : ArrayState) (t : Nat) : Nat :=
  satTo 4 ((a.fronts.filter fun x => decide (t ≤ x.lastWrite)).length) * 256 + optBool (a.empty t) * 4 + (if t < a.modeUntil then 3 else a.mode)

/-! ### The tile in the scratchpad (R94, R160) -/

def isTern (wf : Nat) : Bool := decide (wf = 0x2) || decide (wf = 0x3)

/-- Bytes of a tile. -/
def tileBytes (wf side : Nat) : Nat :=
  if isTern wf then 14 * side * segsOf side
  else if wf = 0xC || wf = 0xD then 2 * side * side
  else if elemBits wf = 4 then side * side / 2 else side * side

/-- Offset and length of the tile bytes the front read path reads in its aclk `rel` (R94, R134). -/
def tilePart (wf side rel : Nat) : Nat × Nat :=
  if isTern wf then (512 * rel, min 512 (tileBytes wf side - 512 * rel))
  else if wf = 0xC || wf = 0xD then (2 * side * rel, 2 * side)
  else (4 * side * rel, 4 * side)

/-- Offset and length of the scale bytes the scale lane delivers in aclk `rel`: a segment's first group, or first two for ternary
(R100, R160). -/
def scalePart (wf side groups rel : Nat) : Nat × Nat :=
  let perSeg := groups / segsOf side
  let s := rel / perSeg
  let w := if isTern wf then 2 else 1
  if rel % perSeg < w then (s * side * w + rel % perSeg * side, side) else (0, 0)

/-- The logical words a front reads in aclk `rel`: tile words in slot B, scale words in slot N. -/
def frontWords (wf side groups addr rel : Nat) : List Nat × List Nat :=
  let t := tilePart wf side rel
  let s := scalePart wf side groups rel
  (if rel < groups then spdWords (addr + t.1) t.2 else [], spdWords (addr + tileBytes wf side + s.1) s.2)

/-- Slot uses of a whole front, issued in aclk t (R160). -/
def frontUses (c : Cluster) (t wf side groups addr : Nat) : List SlotUse :=
  (List.range groups).flatMap fun rel =>
    let ws := frontWords wf side groups addr rel
    slotUses (t + rel) 1 (ws.1.map c.physWord) ++ slotUses (t + rel) 2 (ws.2.map c.physWord)

/-- What the read path reads in this aclk for a front under way: tile bytes, scale bytes and substitution marks join the front's
copy (R94, R100, R242). -/
def Front.readStep (f : Front) (c : Cluster) (pcid : Nat) : Front :=
  let rel := c.aclk - f.issued
  if c.aclk < f.issued || f.groups ≤ rel then f
  else
    let phys : Nat → Nat := fun w => mapPair f.dbuf f.role (w % 131072 * 32) 16 / 32
    let bytesAt : Nat → Nat → List Byte := fun a n => slice (((spdWords a n).map phys).flatMap (c.read pcid)) (a % 32) n
    let t := tilePart f.wfmt f.side rel
    let s := scalePart f.wfmt f.side f.groups rel
    let sa := f.addr + tileBytes f.wfmt f.side + s.1
    { f with tile := f.tile ++ bytesAt (f.addr + t.1) t.2, scales := f.scales ++ bytesAt sa s.2,
             marks := f.marks ++ (List.range s.2).map fun i => decide (look 0 c.subst (phys ((sa + i) % spdSize / 32)) ≠ 0),
             tmarks := f.tmarks ++ ((spdWords (f.addr + t.1) t.2).map phys).map (look 0 c.subst) }

/-! ### Weights (R89, R94, R100, R101) -/

/-- Index of the scale byte of segment s, column n, half h (R94). -/
def Front.scaleIx (f : Front) (s n h : Nat) : Nat := s * f.side * f.pair.w + n * f.pair.w + h

def Front.marked (f : Front) (s n h : Nat) : Bool := f.marks.getD (f.scaleIx s n h) false
def Front.scaleByte (f : Front) (s n h : Nat) : Nat := (f.scales.getD (f.scaleIx s n h) 0x7F).toNat

/-- The weight scale a join uses (R55, R100, R101). -/
def Front.xw (f : Front) (s n h : Nat) : Nat := if hasScale f.wfmt || f.marked s n h then f.scaleByte s n h else 0x7F

/-- Offset, in bits, of the element slot of cell (k, n) in a tile that is not ternary, and the slot's width (R94). -/
def slotBit (wf side k n : Nat) : Nat × Nat :=
  if wf = 0xC || wf = 0xD then (8 * (2 * side * k + 2 * n), 16)
  else
    let q := if elemBits wf = 4 then 8 else 4
    let w := 32 / q
    (8 * (k / q * (4 * side) + 4 * n) + w * (k % q), w)

/-- The content of an element slot. -/
def slotVal (tile : List Byte) (bit width : Nat) : Nat := bitsAt (leAt tile (bit / 8) 2) (bit % 8) width

/-- A 2-bit bus code (R94). -/
def busVal (c : Nat) : Int := if c % 4 = 1 then 1 else if c % 4 = 3 then -1 else 0

/-- The weight of cell (k, n) for logical half h, unscaled (R50, R89, R94, R101). -/
def Front.weight (f : Front) (k n h : Nat) : FVal :=
  if isTern f.wfmt then
    .ofInt (ternBlock (slice f.tile (k / 32 * (14 * f.side) + 14 * n + 7 * h) 7) (k % 32))
  else
    let b := slotBit f.wfmt f.side k n
    let x := slotVal f.tile b.1 b.2
    if f.marked (k / 32) n h then .ofInt (busVal x) else elemVal f.wfmt (x % 2 ^ elemBits f.wfmt)

/-- Whether what a front read is unspecified: bytes overwritten before it read them (R134), a copy of the other form or laid out against
R238, or a segment of copied elements with no scale flagged (R243). -/
def Front.unspecified (f : Front) : Bool :=
  let per := tileBytes f.wfmt f.side / segsOf f.side / 32
  let scales := f.side * f.pair.w
  f.torn || f.tmarks.any (fun m => decide (m = 3 ∨ m = (if isTern f.wfmt then 1 else 2))) ||
    (List.range (segsOf f.side)).any fun s =>
      ((f.tmarks.drop (s * per)).take per).any (fun m => decide (m ≠ 0)) && !((f.marks.drop (s * scales)).take scales).contains true

/-- The status bits a front's reading sets (R51, R52, R94). -/
def Front.flags (f : Front) : NumStatus :=
  let used := (List.range f.scales.length).filter fun i => hasScale f.wfmt || f.marks.getD i false
  { scaleNan := used.any fun i => decide ((f.scales.getD i 0).toNat = 255),
    ternBad :=
      if isTern f.wfmt then f.tile.any fun b => decide (b.toNat > 242)
      else (List.range f.side).any fun k => (List.range f.side).any fun n =>
        f.marked (k / 32) n 0 && (let b := slotBit f.wfmt f.side k n; decide (slotVal f.tile b.1 b.2 % 4 = 2)) }

/-- The status bits its reading sets, free where what it read is unspecified. -/
def Front.readFlags (f : Front) (pcid aclk : Nat) : NumStatus :=
  let free := Config.arrayFree pcid (2 ^ 17 + f.frond) aclk
  if f.unspecified then { scaleNan := free.getLsbD 0, ternBad := free.getLsbD 1 } else f.flags

/-! ### A column's result (R58 to R67, R90, R91) -/

def FVal.toInt : FVal → Int
  | .fin n m e => let x : Int := (m * 2 ^ e.toNat : Nat); if n then -x else x
  | _ => 0

/-- The activation scale of segment s of a vector (R55, R111). -/
def VecFlight.xa (v : VecFlight) (s : Nat) : Nat := (v.scales.getD s 0x7F).toNat

def VecFlight.act (v : VecFlight) (k : Nat) : FVal := elemVal v.afmt (v.acts.getD k 0).toNat

def segWeights (f : Option Front) (s n h : Nat) : List FVal :=
  (List.range 32).map fun i => match f with | some f => f.weight (32 * s + i) n h | none => .zero

def VecFlight.segActs (v : VecFlight) (s : Nat) : List FVal := (List.range 32).map fun i => v.act (32 * s + i)

/-- One segment of one column joins the running sum of its pairing (R59, R60, R66, R67), with the saturation it makes. -/
def VecFlight.seg (v : VecFlight) (f : Option Front) (n h s : Nat) (run : Word × Bool) : Word × Bool :=
  let p := pairOf v.wfmt v.afmt
  let ws := segWeights f s n h
  let as := v.segActs s
  let xw : Nat := match f with | some f => f.xw s n h | none => 0x7F
  let marked := match f with | some f => f.marked s n h | none => false
  if p.int then
    let sum := (segSum ws as).toInt
    let r := addI32 run.1 (if marked then fallbackInt sum xw else sum)
    (r.1, run.2 || r.2)
  else if p.row then
    let prods := List.zipWith FVal.mul ws as
    let prods := if marked then prods.map fun x => if xw = 255 then FVal.nan else x.scale ((xw : Int) - 127) else prods
    (prods.foldl rowAdd run.1, run.2)
  else if xw = 255 || v.xa s = 255 then (joinF run.1 .nan 0, run.2)
  else (joinF run.1 (segSum ws as) ((xw : Int) + v.xa s - 254), run.2)

/-- The pass result of a column and half, and whether an integer join saturated. -/
def VecFlight.column (v : VecFlight) (f : Option Front) (n h : Nat) : Word × Bool :=
  (List.range (segsOf v.side)).foldl (fun r s => v.seg f n h s r) (0, false)

/-- The accumulator entry of half h of a vector, and the column of the file (R89, R105, R108). -/
def VecFlight.accKey (v : VecFlight) (n h : Nat) : Nat :=
  let i := v.frond / v.per
  let j := v.frond % v.per
  let e := (if v.per = 1 then 0 else 2 * v.side * i) + (v.entry + h) % sliceOf v.side
  e * 128 + v.side * j + n

/-- The accumulator file as its writes change it: entries, the accumulation type that last wrote each, the results no ACCRD has read, status
bits. -/
structure AccFile where
  acc : Store Word
  kinds : Store Nat
  live : Store Nat
  num : NumStatus

/-- One accumulator write under entry number `num` of a slice of `slice` entries: overwrite or add, with the status bits it sets (R63, R83).
What adding to an entry of the other accumulation type gives is free (R64), and what an entry holds when a wrapped entry number and
another number's result that no ACCRD has read fall on it (R108). -/
def AccFile.write (a : AccFile) (key num slice : Nat) (add int : Bool) (r : Word × Bool) (free : BitVec 64) : AccFile :=
  let old := look 0 a.acc key
  let was := look 0 a.live key
  let clash := decide (was ≠ 0) && decide (was ≠ num + 1) && (decide (slice ≤ num) || decide (slice < was))
  let x : Word × Bool :=
    if clash || add && decide (look 0 a.kinds key = if int then 2 else 1) then (free.setWidth 32, int && free.getLsbD 32)
    else if !add then (r.1, false)
    else if int then addI32 old r.1.toInt
    else (accAddF old r.1, false)
  { acc := put 0 a.acc key x.1, kinds := put 0 a.kinds key (if int then 1 else 2), live := put 0 a.live key (num + 1),
    num := a.num.or (if int then { intSat := r.2 || x.2 } else NumStatus.ofAcc x.1) }

/-- The accumulator writes of one vector in aclk t: the column whose write falls due (R89, R90, R91). -/
def VecFlight.writes (v : VecFlight) (a : ArrayState) (pcid t : Nat) (s : AccFile) : AccFile :=
  let first := v.writeAt 0
  if t < first || v.side ≤ t - first then s
  else
    let n := t - first
    let f := match v.front with | some i => a.fronts.find? fun x => x.id = i | none => none
    let p := pairOf v.wfmt v.afmt
    (List.range p.w).foldl (fun s h =>
      let key := v.accKey n h
      let anyBits := Config.arrayFree pcid (2 ^ 16 + key) t
      let r := if f.any Front.unspecified then (anyBits.setWidth 32, p.int && anyBits.getLsbD 32) else v.column f n h
      s.write key (v.entry + h) (sliceOf v.side) v.add p.int r (Config.arrayFree pcid key t)) s

/-- The array's part of one delivered edge: front reads, accumulator writes, and what is finished with leaves (R90 to R100). A front's
tern_bad and scale_nan appear at the end of its bus time in column 0 (DESIGN CHOICE, log entry 70). -/
def Cluster.arrayEdge (c : Cluster) (pcid : Nat) : Cluster :=
  let fronts := c.arr.fronts.map fun f => f.readStep c pcid
  let done := fronts.filter fun (f : Front) => decide (c.aclk + 1 = f.issued + f.groups)
  let num := done.foldl (fun n f => n.or (f.readFlags pcid c.aclk)) c.num
  let a : ArrayState := { c.arr with fronts := fronts }
  let r := a.vecs.foldl (fun s v => v.writes a pcid c.aclk s) ⟨a.acc, a.kinds, a.live, num⟩
  let vecs := a.vecs.filter fun v => decide (c.aclk < v.writeAt (v.side - 1))
  let keep : List Front := fronts.filter fun f => decide (c.aclk ≤ f.lastWrite) || decide ((a.frondAt f.frond).front = some f.id) ||
    vecs.any fun (v : VecFlight) => decide (v.front = some f.id)
  { c with num := r.num, arr := { a with acc := r.acc, kinds := r.kinds, live := r.live, vecs := vecs, fronts := keep } }

/-- The physical words each front reads in this aclk (for the code-word check, R157), with its context. -/
def Cluster.frontReads (c : Cluster) : List (Nat × List Nat) :=
  c.arr.fronts.map fun f =>
    (f.ctx, if c.aclk < f.issued || f.issued + f.groups ≤ c.aclk then []
    else
      let ws := frontWords f.wfmt f.side f.groups f.addr (c.aclk - f.issued)
      (ws.1 ++ ws.2).map fun w => mapPair f.dbuf f.role (w % 131072 * 32) 16 / 32)

/-- The stream engine writes n physical bytes at a: what a front has yet to read of them is unspecified (R134). -/
def Cluster.tearFronts (c : Cluster) (a n : Nat) : Cluster :=
  let ws := spdWords a n
  let hit := fun (f : Front) => (List.range f.groups).any fun rel => decide (c.aclk ≤ f.issued + rel) &&
    (let x := frontWords f.wfmt f.side f.groups f.addr rel
     (x.1 ++ x.2).any fun w => decide (mapPair f.dbuf f.role (w % 131072 * 32) 16 / 32 ∈ ws))
  { c with arr := { c.arr with fronts := c.arr.fronts.map fun f => if hit f then { f with torn := true } else f } }

/-! ### FRONT (R95, R98, R102 to R104, R143) -/

/-- Whether a new front into a frond would enter a segment the previous front still writes (R102). -/
def entersSegment (prev : Front) (start q : Nat) (row : Bool) : Bool :=
  (List.range (segsOf prev.side)).any fun s =>
    if row then decide (start + 32 * s ≤ prev.start + 32 * s + 31)
    else decide (start + 32 * s / q ≤ prev.start + (32 * s + 31) / prev.pair.q)

/-- The front a FRONT field would start; none where a check makes the entry illegal. -/
def Cluster.frontOf (c : Cluster) (frond wf af : Nat) (addr : Nat) : Option Front :=
  let a := c.arr
  let side := a.side
  let per := perOf side
  match pairing wf af with
  | none => none
  | some p =>
    let g := side / p.q
    let start := c.aclk + frond / per * segsOf side
    let fr := a.frondAt frond
    let prev := a.fronts.filter fun x => decide (x.frond = frond)
    if c.aclk < a.modeUntil || per * per ≤ frond || addr % 512 ≠ 0 then none
    else if (match fr.lastVec with | some v => decide (start < v + 1) | none => false) then none
    else if (pairOf fr.wfmt fr.afmt).row ≠ p.row && !a.frondEmpty start frond then none
    else if prev.any (fun x => decide (x.pair.row = p.row) && entersSegment x start p.q p.row) then none
    else if a.fronts.any (fun x => decide (x.col = frond % per) && decide (c.aclk < x.issued + x.groups)) then none
    else some { id := a.nextId, frond := frond, wfmt := wf, afmt := af, addr := addr, issued := c.aclk, start := start, groups := g,
                side := side, col := frond % per, dbuf := c.dbuf, role := c.role, tile := [], scales := [], marks := [], ctx := c.curSlot.ctx }

def Cluster.startFront (c : Cluster) (f : Front) : Cluster :=
  { c with arr := { c.arr with fronts := c.arr.fronts ++ [f], nextId := c.arr.nextId + 1,
                               fronds := upd {} c.arr.fronds f.frond fun x => { x with wfmt := f.wfmt, afmt := f.afmt, front := some f.id } } }

/-- FRONT: a weight front starts, its slots reserved for its whole reading (R95, R143, R161). -/
def fieldFront (c : Nat) (frond wfmt afmt sa : BitVec 4) (off : BitVec 13) : Field :=
  fun _ ch cl =>
    let addr := ((cl.s sa).toNat + off.toNat * 512) % spdSize
    match cl.frontOf frond.toNat wfmt.toNat afmt.toNat addr with
    | none => none
    | some f =>
      (cl.claim (frontUses cl cl.aclk f.wfmt f.side f.groups f.addr)).map fun cl' =>
        ch.modCl c fun _ => (cl'.startFront f).count 2 f.groups

/-! ### ISSUE (R91, R92, R98, R108, R110 to R114, R144) -/

/-- The fronds an ISSUE addresses (R144). -/
def shareSet (per frond share : Nat) : Option (List Nat) :=
  if share = 0 then some [frond]
  else if share = 1 then (if frond % per % 2 = 0 && decide (frond % per + 1 < per) then some [frond, frond + 1] else none)
  else if share = 2 then some ((List.range per).map (frond / per * per + ·))
  else none

/-- Whether a vector issued in this aclk meets the timing of a frond (R91, R98). -/
def Cluster.vecTimely (c : Cluster) (f : Nat) : Bool :=
  let fr := c.arr.frondAt f
  let p := pairOf fr.wfmt fr.afmt
  let since := match fr.front with
    | some i => (match c.arr.fronts.find? fun x => x.id = i with
        | some x => if p.row then decide (x.start ≤ c.aclk) else decide (x.start + x.groups - 1 ≤ c.aclk)
        | none => true)
    | none => true
  since && (if p.row then (match fr.lastVec with | some a => decide (a + 4 ≤ c.aclk) | none => true) else true)

/-- Whether every loop enclosing the current entry is in its first iteration (R123, R144). -/
def Slot.firstIter (s : Slot) : Bool := (List.range s.depth).all fun l => decide (look 0 s.cnt l = look 0 s.total l)

/-- The activation codes of a vector's P elements from its bytes (R45, R46). -/
def actCodes (af side : Nat) (bs : List Byte) : List (BitVec 16) := (List.range side).map fun i => BitVec.ofNat 16 (elemCode af bs i)

/-- Words an unmasked lane reads: activation words in slot A, scale words in slot N (R160). -/
def laneWords (af side : Nat) (scaled : Bool) (st : OagStep) : List Nat × List Nat :=
  (spdWords (st.addr * 32) (side * elemBits af / 8), if scaled then spdWords st.scaleAddr (segsOf side) else [])

/-- A lane's vector for one frond of the set (R108, R110, R111). -/
def Cluster.laneVec (c : Cluster) (pcid : Nat) (frond e0 : Nat) (scaled add : Bool) (j : Nat) (st : OagStep) : VecFlight :=
  let side := c.arr.side
  let fr := c.arr.frondAt frond
  { frond := frond, front := fr.front, wfmt := fr.wfmt, afmt := fr.afmt, issued := c.aclk, side := side, per := perOf side,
    acts := if st.masked then [] else actCodes fr.afmt side (c.readAt pcid (st.addr * 32) (side * elemBits fr.afmt / 8)),
    scales := if st.masked || !scaled then [] else c.readAt pcid st.scaleAddr (segsOf side),
    entry := e0 + j * (pairOf fr.wfmt fr.afmt).w, add := add }

/-- ISSUE: L steps of a generator enter a frond or a share set (R108, R114, R144). -/
def fieldIssue (c : Nat) (frond : BitVec 4) (share : BitVec 2) (e0 : BitVec 8) (gen : Bool) (acc ports : BitVec 2) : Field :=
  fun k ch cl =>
    let a := cl.arr
    let per := perOf a.side
    let fr := a.frondAt frond.toNat
    let p := pairOf fr.wfmt fr.afmt
    match shareSet per frond.toNat share.toNat with
    | none => none
    | some set =>
      if cl.aclk < a.modeUntil || decide (per * per ≤ frond.toNat) || acc = 3 then none
      else if set.any (fun f => decide ((a.frondAt f).afmt ≠ fr.afmt) ||
          decide ((pairOf (a.frondAt f).wfmt (a.frondAt f).afmt).lanes ≠ p.lanes) ||
          decide ((pairOf (a.frondAt f).wfmt (a.frondAt f).afmt).row ≠ p.row)) then none
      else if set.any (fun f => !cl.vecTimely f) then none
      else if ports = 0 || decide (1024 * (optBool (ports.getLsbD 0) + optBool (ports.getLsbD 1)) < p.lanes * a.side * elemBits fr.afmt) then none
      else
        let g := cl.oag gen
        let d := g.draw p.lanes
        let scaled := g.scaleEn && hasScale fr.afmt
        let add := decide (acc = 1) || (decide (acc = 2) && !cl.curSlot.firstIter)
        let lanes := d.1.filterMap id
        let real := lanes.filter fun x => !x.2.masked
        let ws := real.map fun x => laneWords fr.afmt a.side scaled x.2
        let uses := ws.flatMap fun w => slotUses cl.aclk 0 (w.1.map cl.physWord) ++ slotUses cl.aclk 2 (w.2.map cl.physWord)
        let ps := (if ports.getLsbD 0 then [(cl.aclk, 0)] else []) ++ (if ports.getLsbD 1 then [(cl.aclk, 1)] else [])
        ((cl.claim uses).bind fun x => x.claimPorts ps).map fun cl' =>
          let vs := set.flatMap fun f => lanes.map fun x => cl.laneVec c f e0.toNat scaled add x.1 x.2
          let nan := scaled && vs.any fun v => v.scales.any fun b => decide (b = 0xFF)
          let cl' := { (cl'.setOag gen d.2).flag { scaleNan := nan } with
            arr := { a with vecs := a.vecs ++ vs, fronds := set.foldl (fun m f => upd {} m f fun x => { x with lastVec := some cl.aclk }) a.fronds } }
          let cl' := cl'.count (if p.row then 1 else 0) (lanes.length * set.length * a.side * a.side * p.w)
          (ch.modCl c fun _ => cl'.count 3 uses.length).eccReads k c cl.curSlot.ctx (ws.flatMap fun w => (w.1 ++ w.2).map cl.physWord)

/-! ### MODE and ANOP (R106, R142) -/

/-- MODE: the frond mode changes over 130 aclk; weights become zero, the accumulator file stays (R106). -/
def fieldMode (c : Nat) (m : BitVec 2) : Field :=
  fun _ ch cl =>
    if m = 3 || !cl.arr.empty cl.aclk then none
    else some (ch.modCl c fun x => { x with arr := { x.arr with mode := m.toNat, modeUntil := x.aclk + 130, fronds := [], fronts := [], vecs := [] } })

/-- ANOP has no effect (R142). -/
def fieldAnop : Field := fun _ ch _ => some ch

end Sys2Proof.Machine
end

