-- ==== Sys2Proof/Machine/HostLink.lean ====
section
/-! DEFINITION. Datagrams, their checks, and what every host command shares (spec/13_host_protocol.md R374 to R396). -/

namespace Sys2Proof.Machine

/-! ### The opcode table (R388) -/

/-- Who may send an opcode, whether it acts in the header's context, and its payload range. -/
structure OpInfo where
  mgmt : Bool := false
  ctx : Bool := false
  lo : Nat
  hi : Nat
  deriving DecidableEq, Repr

/-- The opcodes the device accepts (R388, R413, R480, R491); the payloads of JOB_END and of the Debug commands are the model's. -/
def opInfo : Nat → Option OpInfo
  | 0x0101 => some { lo := 96, hi := 96 }
  | 0x0102 => some { lo := 64, hi := 64 }
  | 0x0103 => some { lo := 0, hi := 0 }
  | 0x0104 => some { lo := 36, hi := 36 }
  | 0x0105 => some { lo := 40, hi := 72 }
  | 0x0106 => some { lo := 8, hi := 8 }
  | 0x0201 => some { mgmt := true, lo := 160, hi := 160 }
  | 0x0202 => some { mgmt := true, lo := 20, hi := 20 }
  | 0x0203 => some { mgmt := true, lo := 4, hi := 4 }
  | 0x0204 => some { lo := 0, hi := 0 }
  | 0x0205 => some { ctx := true, lo := 0, hi := 0 }
  | 0x0301 => some { lo := 8, hi := 1028 }
  | 0x0302 => some { lo := 12, hi := 1028 }
  | 0x0303 => some { lo := 16, hi := 16 }
  | 0x0304 => some { lo := 16, hi := 16 }
  | 0x0305 => some { lo := 16, hi := 16 }
  | 0x0306 => some { lo := 16, hi := 8896 }
  | 0x0307 => some { lo := 16, hi := 16 }
  | 0x0401 => some { lo := 8, hi := 8896 }
  | 0x0402 => some { lo := 56, hi := 72 }
  | 0x0403 => some { lo := 8, hi := 8 }
  | 0x0404 => some { lo := 12, hi := 12 }
  | 0x0405 => some { lo := 24, hi := 8896 }
  | 0x0406 => some { lo := 156, hi := 156 }
  | 0x0407 => some { lo := 12, hi := 12 }
  | 0x0408 => some { lo := 24, hi := 24 }
  | 0x0501 => some { ctx := true, lo := 16, hi := 16 }
  | 0x0502 => some { ctx := true, lo := 16, hi := 8896 }
  | 0x0503 => some { ctx := true, lo := 4, hi := 4 }
  | 0x0504 => some { ctx := true, lo := 68, hi := 68 }
  | 0x0505 => some { lo := 4, hi := 4 }
  | 0x0506 => some { ctx := true, lo := 8, hi := 4104 }
  | 0x0507 => some { ctx := true, lo := 4, hi := 4100 }
  | 0x0601 => some { ctx := true, lo := 64, hi := 64 }
  | 0x0602 => some { ctx := true, lo := 4, hi := 4 }
  | 0x0603 => some { ctx := true, lo := 8, hi := 8 }
  | 0x0604 => some { ctx := true, lo := 24, hi := 24 }
  | 0x0605 => some { ctx := true, lo := 16, hi := 16 }
  | 0x0606 => some { lo := 4, hi := 4 }
  | 0x0701 => some { mgmt := true, lo := 4, hi := 4 }
  | 0x0702 => some { lo := 0, hi := 0 }
  | 0x0703 => some { mgmt := true, lo := 4, hi := 4 }
  | 0x0801 => some { lo := 8, hi := 8 }
  | 0x0802 => some { lo := 4, hi := 1028 }
  | 0x0901 => some { lo := 8, hi := 8 }
  | 0x0902 => some { lo := 24, hi := 24 }
  | 0x0903 => some { lo := 24, hi := 24 }
  | 0x0904 => some { lo := 12, hi := 12 }
  | 0x0905 => some { mgmt := true, lo := 16, hi := 8896 }
  | 0x0A01 => some { lo := 96, hi := 608 }
  | 0x0A02 => some { lo := 4, hi := 4 }
  | 0x0A03 => some { lo := 0, hi := 0 }
  | 0x0F01 => some { mgmt := true, lo := 0, hi := 0 }
  | 0x0F02 => some { mgmt := true, lo := 0, hi := 0 }
  | 0x0F03 => some { mgmt := true, lo := 16, hi := 16 }
  | 0x0F04 => some { mgmt := true, lo := 16, hi := 8896 }
  | _ => none

/-- The commands recovery mode accepts before their own checks (R492). -/
def recoveryOp (op : Nat) : Bool := decide (op ∈ [0x0101, 0x0102, 0x0103, 0x0104, 0x0802, 0x0905, 0x0901, 0x0301])

/-- The commands not refused while the partition recovers (R396). -/
def runsInRecovery (op : Nat) : Bool := decide (op / 256 ∈ [1, 8, 9]) || decide (op = 0x0301) || decide (op = 0x0606)

/-! ### Checks 8 to 11 and the states that refuse every command (R381, R389, R396) -/

/-- A context of a partition that was created (R381). -/
def Partition.hasCtx (p : Partition) (c : Nat) : Bool := (look none p.contexts c).isSome

/-- The first of a list of conditions that holds refuses the command. -/
def firstFail : List (Bool × Refuse) → Option Refuse
  | [] => none
  | (b, r) :: t => if b then some r else firstFail t

/-- What refuses a command before its own checks. -/
def Chip.gate (ch : Chip) (op : Nat) (q : Req) : Option Refuse :=
  match opInfo op with
  | none => some (.badOpcode, none)
  | some i =>
    let p := ch.pt q.part
    firstFail
      [ (i.mgmt && decide (q.part ≠ 0), (.notPermitted, none)),
        (!p.valid || p.tearing, (.notPermitted, none)),
        (if i.ctx then !p.hasCtx q.ctx else decide (q.ctx ≠ 0), (.notPermitted, none)),
        (decide (q.payload.length < i.lo) || decide (i.hi < q.payload.length) || decide (ch.maxPayload q.port < q.payload.length), (.lengthRange, none)),
        (ch.inRecoveryMode && !(recoveryOp op && decide (q.part = 0)), (.notReady, none)),
        (p.recovering && !runsInRecovery op, (.recovering, none)) ]

/-- Whether the host ports answer at all (R487, R492, R493). -/
def Chip.answers (ch : Chip) : Bool := (ch.ready || ch.inRecoveryMode) && ch.sec.idOk

/-- A command's own checks and effect: the block with the reply sent, or the refusal. -/
abbrev Cmd := Except Refuse Chip

/-- A host command: a device that is neither READY nor in recovery mode, or that has no identity (R493), takes none; a refused one has no effect but its reply (R36, R384). -/
def runCmd (op : Nat) (q : Req) (body : Clock → Chip → Cmd) (k : Clock) (ch : Chip) : Chip :=
  if !ch.answers then ch
  else match ch.gate op q with
    | some r => ch.refuse q r
    | none => match body k ch with | .ok ch' => ch' | .error r => ch.refuse q r

/-- A command that is checked in order and then acts. -/
def checked (cs : List (Bool × Refuse)) (ch : Chip) : Cmd := match firstFail cs with | some r => .error r | none => .ok ch

/-- An accepted command more than the 256 a partition may hold (R383). -/
def Chip.worksFull (ch : Chip) (q : Req) : Bool × Refuse :=
  (decide (256 ≤ (ch.works.filter fun w => decide (w.part = q.part)).length), (.noResource, none))

/-- An accepted command's reply, and its place among those not completed. -/
def Chip.acceptReply (ch : Chip) (k : Clock) (q : Req) (op : Nat) (kind : WorkKind) (payload : List Byte) : Chip :=
  ((ch.accept k q op kind).2).reply q .accepted payload

/-- A payload field that must be zero, refused at its offset (R18). -/
def reserved (q : Req) (off n : Nat) : Bool × Refuse := (decide (slice q.payload off n ≠ zeros n), (.badField, some off))

/-! ### A datagram (R376, R379, R381, R386) -/

def countPort (port : Nat) (h : HostIf) (malformed : Bool) : HostIf :=
  if malformed then
    (if port = 0 then { h with malformed0 := satTo 0xFFFF (h.malformed0 + 1) } else { h with malformed1 := satTo 0xFFFF (h.malformed1 + 1) })
  else
    (if port = 0 then { h with queueFull0 := satTo 0xFFFF (h.queueFull0 + 1) } else { h with queueFull1 := satTo 0xFFFF (h.queueFull1 + 1) })

def Chip.dropMalformed (ch : Chip) (port : Nat) : Chip := { ch with host := countPort port ch.host true }

/-- The request a datagram carries, its payload in the clear. -/
def reqOf (port src : Nat) (bs payload : List Byte) : Req :=
  { session := beAt bs 16 8, seq := beAt bs 12 4, part := bitsAt (beAt bs 8 2) 13 3, ctx := bitsAt (beAt bs 8 2) 1 12, port := port, src := src,
    stamp := beAt bs 24 8, payload := payload }

/-- Checks 7 to 11, then the receive queue (R381). -/
def Chip.letIn (ch : Chip) (bs : List Byte) (q : Req) (sessionPart : Nat) : Chip :=
  let op := beAt bs 4 2
  if beAt bs 3 1 ≠ 0 || beAt bs 6 2 ≠ 0 || bitAt (beAt bs 8 2) 0 then ch.refuse q (.badField, none)
  else if (opInfo op).isNone then ch.refuse q (.badOpcode, none)
  else if q.part ≠ sessionPart then ch.refuse q (.notPermitted, none)
  else match ch.gate op q with
    | some r => ch.refuse q r
    | none => { ch with host := { ch.host with rx := ch.host.rx ++ [(op, q)] } }

/-- A request of a known session: check 6, then its window and its session's address take it. -/
def Chip.inSession (ch : Chip) (port src : Nat) (bs payload : List Byte) (x : Session) : Chip :=
  let q := reqOf port src bs payload
  match x.window.find? fun w => w.1 = q.seq with
  | some w =>
    if w.2.1 ≠ bs then { ch with host := { ch.host with mismatch := satTo 0xFFFF (ch.host.mismatch + 1) } }
    else match w.2.2 with
      | some r => ch.send (.resent port src q.session q.seq r)
      | none => ch
  | none =>
    let top := max x.highest q.seq
    let ch := ch.modSession q.session fun y =>
      { y with highest := top, window := (y.window.filter fun w => decide (top < w.1 + 1024)) ++ [(q.seq, bs, none)], addr := src, port := port }
    ch.letIn bs q x.part

/-- A datagram arrives and is checked in order (R381). -/
def Chip.datagram (ch : Chip) (port src : Nat) (bs : List Byte) : Chip :=
  if !ch.answers then ch
  else if 512 ≤ ch.host.rx.length then { ch with host := countPort port ch.host false }
  else
    let op := beAt bs 4 2
    let len := beAt bs 10 2
    let opening := decide (op = 0x0101)
    let fixed := if opening then 32 else 48
    if bs.length < fixed || bs.length ≠ fixed + len || ch.maxPayload port < len then ch.dropMalformed port
    else if beAt bs 0 2 ≠ 0xA5C1 || beAt bs 2 1 ≠ 1 then ch.dropMalformed port
    else
      let sid := beAt bs 16 8
      if opening then
        (if sid ≠ 0 then ch.dropMalformed port
         else let q := reqOf port src bs (bs.drop 32); ch.letIn bs q q.part)
      else match ch.session? sid with
        | none => ch.dropMalformed port
        | some x =>
          if x.closed || (!x.confirmed && decide (op ≠ 0x0102)) then ch.dropMalformed port
          else match Config.gcmOpen x.h2d (x.ivH ++ zeros 4 ++ slice bs 12 4) (bs.take 32) (bs.drop 32) with
            | none => { ch with sec := { ch.sec with authFail := satTo 0xFFFFFFFF (ch.sec.authFail + 1) } }
            | some payload =>
              if beAt bs 12 4 + 1024 ≤ x.highest then { ch with host := { ch.host with stale := satTo 0xFFFF (ch.host.stale + 1) } }
              else ch.inSession port src bs payload x

/-- HOST_DATAGRAM_ARRIVAL (R381). -/
def execHostDatagramArrival (port src : Nat) (bytes : List Byte) (s : State) : Res := onChip s fun _ ch => ch.datagram port src bytes

end Sys2Proof.Machine
end

