-- ==== Sys2Proof/Machine/FabOps.lean ====
section
/-! DEFINITION. Routes, frames and the barrier tree of the fabric (spec/14_fabric.md R402, R405, R409, R410, R418). -/

namespace Sys2Proof.Machine

/-! ### Coordinates and routes -/

def coord (id dim : Nat) : Nat := id / 8 ^ dim % 8

def withCoord (id dim v : Nat) : Nat := id - coord id dim * 8 ^ dim + v * 8 ^ dim

/-- Whether a system of a shape uses a port: the dimension of its direction has more than one device, and ports 6 and 7 are bonded (R402). -/
def usesPort (size : Nat → Nat) (bond : Nat → Option Nat) (p : Nat) : Bool :=
  match if p < 6 then some p else bond (p - 6) with
  | some q => decide (1 < size (q / 2))
  | none => false

def Fabric.size (f : Fabric) (dim : Nat) : Nat := if dim = 0 then f.xs else if dim = 1 then f.ys else f.zs

/-- The first dimension in which two devices differ (R409). -/
def firstDim (a b : Nat) : Option Nat := (List.range 3).find? fun d => coord a d ≠ coord b d

/-- The shorter way around a ring of size s from a to b is the + way; a tie goes + (R409). -/
def plusWay (s a b : Nat) : Bool := decide ((b + s - a) % s ≤ (a + s - b) % s)

/-- One hop along a ring. -/
def ringStep (s a : Nat) (plus : Bool) : Nat := if plus then (a + 1) % s else (a + s - 1) % s

/-- The neighbour of a device in a direction. -/
def Fabric.neighbour (f : Fabric) (dev dim : Nat) (plus : Bool) : Nat := withCoord dev dim (ringStep (f.size dim) (coord dev dim) plus)

/-- The next device on the first-choice route (R409). -/
def Fabric.hop (f : Fabric) (a b : Nat) : Nat :=
  match firstDim a b with
  | none => a
  | some d => f.neighbour a d (plusWay (f.size d) (coord a d) (coord b d))

/-- The devices of the first-choice route after a, to b. -/
def Fabric.path (f : Fabric) (a b : Nat) : Nat → List Nat
  | 0 => []
  | k + 1 => if a = b then [] else f.hop a b :: f.path (f.hop a b) b k

def portOf (dim : Nat) (plus : Bool) : Nat := 2 * dim + optBool (!plus)

/-- Dimension and direction of ports 0 to 5 (R402). -/
def dirOf (port : Nat) : Nat × Bool := (port / 2, decide (port % 2 = 0))

/-- The port a bonded pair's second link stands for (R402). -/
def Fabric.basePort (f : Fabric) (port : Nat) : Nat := if port = 6 then f.bond6.getD 6 else if port = 7 then f.bond7.getD 7 else port

/-- The ports of a direction, lower-numbered first. -/
def Fabric.linksOf (f : Fabric) (base : Nat) : List Nat := (List.range 8).filter fun p => decide (f.basePort p = base)

def Chip.portUp (ch : Chip) (p : Nat) : Bool := decide ((ch.prt p).st = .up)

/-- The link a flow takes in a direction: of a bonded pair even flows the lower-numbered port while both are up (R402). -/
def Chip.linkFor (ch : Chip) (base flow : Nat) : Option Nat :=
  match (ch.fabric.linksOf base).filter ch.portUp with
  | [] => none
  | [p] => some p
  | p :: q :: _ => some (if flow % 2 = 0 then p else q)

/-- Whether a hop crosses the wrap link of its ring (R409). -/
def crossesWrap (s a : Nat) (plus : Bool) : Bool := if plus then decide (a + 1 = s) else decide (a = 0)

/-- The port and channel by which a frame leaves this device: the first-choice way, else the other way around the ring, else none
(R409, R410). -/
def Chip.route (ch : Chip) (dst flow : Nat) (inDim : Option Nat) (vc : Nat) : Option (Nat × Nat) :=
  let f := ch.fabric
  match firstDim f.selfId dst with
  | none => none
  | some d =>
    let s := f.size d
    let a := coord f.selfId d
    let way := plusWay s a (coord dst d)
    let vc0 := if inDim = some d then vc else 0
    match ch.linkFor (portOf d way) flow with
    | some p => some (p, if crossesWrap s a way then 1 else vc0)
    | none => (ch.linkFor (portOf d (!way)) flow).map fun p => (p, if crossesWrap s a (!way) then 1 else vc0)

/-! ### Frames (R405) -/

structure FrameHdr where
  type : Nat
  vc : Nat := 0
  codec : Bool := false
  srcEpoch : Nat
  src : Nat
  dst : Nat
  job : Nat
  flow : Nat := 0
  length : Nat := 0
  fseq : Nat := 0
  hseq : Nat := 0
  deriving DecidableEq, Repr

/-- The 32 header bytes (R405). -/
def FrameHdr.bytes (h : FrameHdr) : List Byte :=
  toBe (h.type * 16 + h.vc % 2 * 8 + optBool h.codec * 4) 1 ++ toBe h.srcEpoch 1 ++ toBe h.src 2 ++ toBe h.dst 2 ++ toBe h.job 2 ++
  toBe h.flow 2 ++ toBe h.length 2 ++ toBe h.fseq 6 ++ zeros 2 ++ toBe h.hseq 4 ++ zeros 8

/-- A frame's header fields. -/
def frameHdr (bs : List Byte) : FrameHdr :=
  { type := beAt bs 0 1 / 16, vc := bitsAt (beAt bs 0 1) 3 1, codec := bitAt (beAt bs 0 1) 2, srcEpoch := beAt bs 1 1,
    src := bitsAt (beAt bs 2 2) 0 9, dst := bitsAt (beAt bs 4 2) 0 9, job := beAt bs 6 2, flow := bitsAt (beAt bs 8 2) 0 12,
    length := beAt bs 10 2, fseq := beAt bs 12 6, hseq := beAt bs 20 4 }

/-- A frame waits at a port on its channel. -/
def Chip.queueAt (ch : Chip) (port : Nat) (f : TxFrame) : Chip := ch.modPort port fun p => { p with queue := p.queue ++ [f] }

/-- A frame of this device leaves by its route; for an unreachable destination it is dropped (R410). -/
def Chip.sendFrame (ch : Chip) (h : FrameHdr) (payload : List Byte) : Chip :=
  match ch.route h.dst h.flow none 0 with
  | none => ch
  | some (p, vc) =>
    ch.queueAt p { bytes := ({ h with vc := vc } : FrameHdr).bytes ++ payload, job := h.job, vc := vc, barrier := decide (h.type = 3) }

/-- A frame passes through: forwarded by dst without decryption (R409). -/
def Chip.forwardFrame (ch : Chip) (inPort : Nat) (bs : List Byte) : Chip :=
  let h := frameHdr bs
  match ch.route h.dst h.flow (some (dirOf (ch.fabric.basePort inPort)).1) h.vc with
  | none => ch
  | some (p, vc) => ch.queueAt p { bytes := ({ h with vc := vc } : FrameHdr).bytes ++ bs.drop 32, job := h.job, vc := vc, barrier := decide (h.type = 3) }

/-! ### Flows (R407, R411, R416) -/

def Chip.jobSlot (ch : Chip) (job : Nat) : Option (Nat × Job) := ch.fabric.jobs.find? fun e => e.2.valid && decide (e.2.job = job)

def Flow.is (f : Flow) (job peer flow : Nat) (outbound : Bool) : Bool :=
  decide (f.job = job) && decide (f.peer = peer) && decide (f.flow = flow) && decide (f.outbound = outbound)

def Chip.flow? (ch : Chip) (job peer flow : Nat) (outbound : Bool) : Option Flow := ch.fabric.flows.find? fun f => f.is job peer flow outbound

def Chip.modFlow (ch : Chip) (job peer flow : Nat) (outbound : Bool) (g : Flow → Flow) : Chip :=
  { ch with fabric := { ch.fabric with flows := ch.fabric.flows.map fun f => if f.is job peer flow outbound then g f else f } }

/-- The port a flow of this device leaves by, over the route in force (R409). -/
def Chip.flowPort (ch : Chip) (peer flow : Nat) : Option Nat := (ch.route peer flow none 0).map (·.1)

/-- The outbound flows a job has open at the port of a flow. -/
def Chip.flowsAt (ch : Chip) (job peer flow : Nat) : Nat :=
  (ch.fabric.flows.filter fun f => f.outbound && decide (f.job = job) && decide (ch.flowPort f.peer f.flow = ch.flowPort peer flow)).length

/-- A flow opened at its port on first use, up to the job's reservation there (R413, R416); none: refused. -/
def Chip.openFlow (ch : Chip) (j : Job) (peer flow : Nat) (outbound : Bool) : Option Chip :=
  match ch.flow? j.job peer flow outbound with
  | some f => if f.failed then none else some ch
  | none =>
    if outbound && decide (j.flows ≤ ch.flowsAt j.job peer flow) then none
    else some { ch with fabric := { ch.fabric with flows := ch.fabric.flows ++ [{ job := j.job, peer := peer, flow := flow, outbound := outbound, nextSeq := 0, kept := [], ahead := [], failed := false }] } }

/-- The nonce of a data frame (R407). -/
def frameNonce (job src flow fseq : Nat) : List Byte := toBe job 2 ++ toBe src 2 ++ toBe flow 2 ++ toBe fseq 6

/-- The additional authenticated data of a frame: header bytes 1 to 17 (R407, R408). -/
def frameAad (h : FrameHdr) : List Byte := slice h.bytes 1 17

/-- A data frame of this device, encrypted under its traffic key for the job (R407). -/
def Chip.sealFrame (ch : Chip) (j : Job) (dst flow fseq : Nat) (codec : Bool) (payload : List Byte) : Chip :=
  let h : FrameHdr := { type := 0, codec := codec, srcEpoch := ch.fabric.epoch.toNat, src := ch.fabric.selfId, dst := dst, job := j.job, flow := flow,
                        length := payload.length, fseq := fseq }
  ch.sendFrame h (Config.gcmSeal j.trafficKey (frameNonce j.job ch.fabric.selfId flow fseq) (frameAad h) payload)

/-- A frame sent on a flow and kept until it is acknowledged (R411); none when the flow cannot open or its numbers are spent (R407). -/
def Chip.flowSend (ch : Chip) (k : Clock) (j : Job) (dst flow : Nat) (codec : Bool) (payload : List Byte) : Option (Nat × Chip) :=
  (ch.openFlow j dst flow true).bind fun ch =>
    match ch.flow? j.job dst flow true with
    | none => none
    | some f =>
      if f.nextSeq = 2 ^ 48 - 1 then none
      else some (f.nextSeq, (ch.modFlow j.job dst flow true fun f =>
        { f with nextSeq := f.nextSeq + 1, kept := f.kept ++ [{ fseq := f.nextSeq, payload := payload, codec := codec, sends := 1, sentAt := k.localNs }] }).sealFrame j dst flow f.nextSeq codec payload)

/-- The messages that flows carry, as the model lays them out: a kind, a stream's region and number, a DVA and a length, then data.
Kinds: 1 read request, 2 read data, 3 write, 4 shard request, 5 shard data, 6 shard refused, 7 shard mismatch, 8 collective chunk. -/
def flowMsg (kind r st dva len : Nat) (data : List Byte) : List Byte :=
  toBe kind 1 ++ toBe r 1 ++ toBe st 1 ++ zeros 1 ++ toBe dva 8 ++ toBe len 4 ++ data

/-- The flow a stream uses (R415): the model's numbering. -/
def streamFlow (r st : Nat) : Nat := r * 64 + st

/-! ### The barrier tree (R418) -/

/-- The nearest member above a device on its route to the root. -/
def Fabric.ancestor (f : Fabric) (j : Job) (dev : Nat) : Option Nat := (f.path dev j.root 24).find? fun d => d ∈ j.members

/-- The members whose nearest member above is this device. -/
def Fabric.childMembers (f : Fabric) (j : Job) (self : Nat) : List Nat := j.members.filter fun m => decide (m ≠ self) && decide (f.ancestor j m = some self)

/-- The payload of a barrier frame, as the model lays it out: barrier id, release, generation. -/
def barPayload (b gen : Nat) (release : Bool) : List Byte := toBe b 1 ++ toBe (optBool release) 1 ++ toBe gen 2

def Chip.sendBarrier (ch : Chip) (j : Job) (dst b gen : Nat) (release : Bool) : Chip :=
  ch.sendFrame { type := 3, srcEpoch := ch.fabric.epoch.toNat, src := ch.fabric.selfId, dst := dst, job := j.job, length := 4 } (barPayload b gen release)

/-- The generation arrivals at a barrier count to (R208). -/
def Barrier.arrGen (b : Barrier) : BitVec 16 := b.gen + BitVec.ofNat 16 b.released

/-- A generation is released: the next one begins with no arrivals, under the filler setting then in force (R208, R448). -/
def Barrier.release (fill : Word) (at_ : Option (Nat × Nat)) (b : Barrier) : Barrier :=
  { b with fill := fill, released := b.released + 1, relCkpt := b.relCkpt ++ [b.ckpt], relAt := b.relAt ++ [at_], arrived := 0, ckpt := false, near := false, localDone := none,
           children := [], timedOut := false }

/-- A job barrier whose local part and children are complete: the root releases down the tree, any other device reports up
(R418). -/
def Chip.barrierUp (ch : Chip) (p b : Nat) : Chip :=
  let x := (ch.pt p).bar b
  match x.job.bind ch.jobSlot with
  | none => ch
  | some (_, j) =>
    let kids := ch.fabric.childMembers j ch.fabric.selfId
    if x.localDone.isNone || !(kids.all fun d => d ∈ x.children) then ch
    else if ch.fabric.selfId = j.root then
      kids.foldl (fun c d => c.sendBarrier j d b x.arrGen.toNat true) (ch.modBar p b (Barrier.release (ch.pt p).fill none))
    else match ch.fabric.ancestor j ch.fabric.selfId with
      | some d => ch.sendBarrier j d b x.arrGen.toNat false
      | none => ch

end Sys2Proof.Machine
end

