-- ==== Sys2Proof/Machine/Codec.lean ====
section
/-! DEFINITION. The block codec: CRC-32C, table images, stored blocks, the encoder and the table builder (spec/09_block_codec.md). -/

namespace Sys2Proof.Machine

/-! ### CRC-32C (R274) -/

/-- One bit of the reflected Castagnoli division. -/
def crcShift (c : Word) : Word := if c.getLsbD 0 then (c >>> 1) ^^^ 0x82F63B78#32 else c >>> 1

def crcByte (c : Word) (b : Byte) : Word :=
  crcShift (crcShift (crcShift (crcShift (crcShift (crcShift (crcShift (crcShift (c ^^^ b.setWidth 32))))))))

/-- CRC-32C: initial value all ones, final inversion (R274). -/
def crc32c (bs : List Byte) : Word := ~~~ (bs.foldl crcByte 0xFFFFFFFF#32)

/-! ### Table images (R270 to R272) -/

def imgWidth (img : List Byte) : Nat := (img.getD 0 0).toNat % 2
def maxLen (width : Nat) : Nat := if width = 0 then 8 else 12
def symCount (width : Nat) : Nat := if width = 0 then 16 else 256

/-- The code length of a symbol (R270). -/
def imgLen (img : List Byte) (v : Nat) : Nat := bitsAt (img.getD (16 + v / 2) 0).toNat (4 * (v % 2)) 4

def imgLens (img : List Byte) : List Nat := (List.range (symCount (imgWidth img))).map (imgLen img)

/-- The Kraft sum in units of 2^(−12). -/
def kraft (lens : List Nat) : Nat := (lens.map fun l => if l = 0 then 0 else 2 ^ (12 - l)).sum

/-- Whether a table image is valid (R271). -/
def imgValid (img : List Byte) : Bool :=
  let w := imgWidth img
  let lens := imgLens img
  let present := (lens.filter (· ≠ 0)).length
  decide (img.length = 144) && decide ((img.getD 0 0).toNat ≤ 1) && decide (img.getD 1 0 = 0) && decide (slice img 8 8 = zeros 8) &&
  (decide (w = 1) || decide (slice img 24 120 = zeros 120)) &&
  decide (leAt img 2 2 = present) && decide (leAt img 4 4 = (crc32c (slice img 16 128)).toNat) &&
  (lens.all fun l => decide (l ≤ maxLen w)) &&
  (if present = 1 then decide (lens.sum = 1) else decide (0 < present) && decide (kraft lens = 4096))

/-- The codewords (R272): symbol, length, code. -/
def codesAt (lens : List Nat) (len code : Nat) : Nat → List (Nat × Nat × Nat) × Nat
  | 0 => ([], code)
  | n + 1 =>
    let r := codesAt lens len code n
    if lens.getD n 0 = len then (r.1 ++ [(n, len, r.2)], r.2 + 1) else r

def codesFrom (lens : List Nat) (len code : Nat) : Nat → List (Nat × Nat × Nat)
  | 0 => []
  | n + 1 =>
    let r := codesAt lens len code lens.length
    r.1 ++ codesFrom lens (len + 1) (2 * r.2) n

def imgCodes (img : List Byte) : List (Nat × Nat × Nat) := codesFrom (imgLens img) 1 0 (maxLen (imgWidth img))

/-! ### Symbols and bit strings (R269, R273) -/

def symbolsOf (width : Nat) (raw : List Byte) : List Nat :=
  if width = 0 then raw.flatMap fun b => [b.toNat % 16, b.toNat / 16] else raw.map (·.toNat)

def pairUp : List Nat → List Byte
  | a :: b :: t => BitVec.ofNat 8 (a + 16 * b) :: pairUp t
  | _ => []

def bytesOfSyms (width : Nat) (syms : List Nat) : List Byte := if width = 0 then pairUp syms else syms.map (BitVec.ofNat 8)

/-- A code's bits, most significant first. -/
def codeBits (code : Nat) : Nat → List Bool
  | 0 => []
  | n + 1 => bitAt code n :: codeBits code n

/-- Bytes of a bit string, first bit at bit 7, padded with zeros (R273). -/
def packBits (bs : List Bool) : Nat → List Byte
  | 0 => []
  | n + 1 => BitVec.ofNat 8 ((bs.take 8).foldl (fun a b => 2 * a + optBool b) 0 * 2 ^ (8 - (bs.take 8).length)) :: packBits (bs.drop 8) n

def unpackBits (bs : List Byte) : List Bool := bs.flatMap fun b => codeBits b.toNat 8

/-- The padded length of a bit string: the least whole number of 32-byte units (R273). -/
def padded (bits : Nat) : Nat := ceilDiv bits 256 * 32

/-- Symbols read from a bit string until n are read; none when it ends before (R277). -/
def readSyms (codes : List (Nat × Nat × Nat)) (len code : Nat) : Nat → List Bool → Option (List Nat × List Bool)
  | 0, rest => some ([], rest)
  | _ + 1, [] => none
  | n + 1, b :: t =>
    let c := 2 * code + optBool b
    match codes.find? fun e => decide (e.2.1 = len + 1) && decide (e.2.2 = c) with
    | some e => (readSyms codes 0 0 n t).map fun r => (e.1 :: r.1, r.2)
    | none => readSyms codes (len + 1) c (n + 1) t

/-! ### Stored blocks (R274, R275) -/

def blockHeader (raw : Bool) (width slot rawLen codedLen : Nat) (crc : Word) : List Byte :=
  [0xD5, 0xC0, BitVec.ofNat 8 (128 * optBool raw + 64 * width + slot), 0] ++ toLe rawLen 2 ++ toLe codedLen 2 ++ toLe crc.toNat 4 ++ zeros 20

/-- The stored form an encoder gives a raw block under the table of a slot (R275). -/
def storeBlock (img : List Byte) (slot : Nat) (raw : List Byte) : List Byte :=
  let w := imgWidth img
  let codes := imgCodes img
  let syms := symbolsOf w raw
  let bits := syms.flatMap fun v => match codes.find? fun e => decide (e.1 = v) with | some e => codeBits e.2.2 e.2.1 | none => []
  let n := padded bits.length
  let asRaw := (syms.any fun v => decide (imgLen img v = 0)) || decide (raw.length * 7 / 8 < n)
  if asRaw then blockHeader true w 0 raw.length raw.length (crc32c raw) ++ raw
  else blockHeader false w slot raw.length n (crc32c raw) ++ packBits bits n

/-- What a check of a stored block decides (R277). -/
inductive BlockCheck where
  | pass (raw : List Byte)
  | stop
  | fail
  deriving DecidableEq, Repr

def hdrRaw (b : List Byte) : Bool := bitAt (leAt b 2 1) 7
def hdrWidth (b : List Byte) : Nat := bitsAt (leAt b 2 1) 6 1
def hdrSlot (b : List Byte) : Nat := bitsAt (leAt b 2 1) 0 3
def hdrRawLen (b : List Byte) : Nat := leAt b 4 2
def hdrCodedLen (b : List Byte) : Nat := leAt b 6 2

def badLen (n : Nat) : Bool := decide (n = 0) || decide (n % 32 ≠ 0) || decide (4096 < n)

/-- The rows of R277 that the header alone decides. -/
def headerCheck (b : List Byte) (run : Nat) (img : Option (List Byte)) : Option BlockCheck :=
  if leAt b 0 2 ≠ 0xC0D5 || bitsAt (leAt b 2 1) 3 3 ≠ 0 || leAt b 3 1 ≠ 0 || leAt b 12 20 ≠ 0 then some .fail
  else if badLen (hdrRawLen b) || badLen (hdrCodedLen b) then some .fail
  else if hdrRaw b && hdrCodedLen b ≠ hdrRawLen b then some .fail
  else if hdrRawLen b ≠ 4096 || run < 32 + hdrCodedLen b then some .stop
  else if hdrRaw b then none
  else match img with
    | none => some .stop
    | some i => if imgWidth i ≠ hdrWidth b then some .fail else none

/-- The check of a whole stored block against its slot's table (R277). -/
def checkBlock (b : List Byte) (run : Nat) (img : Option (List Byte)) : BlockCheck :=
  match headerCheck b run img with
  | some r => r
  | none =>
    let payload := slice b 32 (hdrCodedLen b)
    if hdrRaw b then (if (crc32c payload).toNat = leAt b 8 4 then .pass payload else .fail)
    else
      let w := hdrWidth b
      match readSyms (imgCodes (img.getD [])) 0 0 (4096 * 2 / (w + 1)) (unpackBits payload) with
      | none => .fail
      | some (syms, rest) =>
        let used := 8 * payload.length - rest.length
        if rest.any (fun x => x) || padded used ≠ payload.length then .fail
        else
          let raw := bytesOfSyms w syms
          if (crc32c raw).toNat = leAt b 8 4 then .pass raw else .fail

/-! ### The table builder (R290, R291) -/

/-- Counts of the symbols of a byte range, each raised by 1 when `all` is set (R290). -/
def symCounts (width : Nat) (all : Bool) (bytes : List Byte) : List Nat :=
  let syms := symbolsOf width bytes
  (List.range (symCount width)).map fun v => (syms.filter (· = v)).length + optBool all

/-- The least cost of a sum of two, none when either is out of reach. -/
def minOpt : Option Nat → Option Nat → Option Nat
  | none, b => b
  | a, none => a
  | some a, some b => some (min a b)

/-- The least cost of giving symbol count n a length and the later symbols the rest of K Kraft units, from the later symbols' costs. -/
def bestAt (ml n : Nat) (later : List (Option Nat)) (k : Nat) : Nat → Option Nat
  | 0 => none
  | l + 1 =>
    let u := 2 ^ (ml - (l + 1))
    minOpt (if u ≤ k then ((later.getD (k - u) none).map (· + n * (l + 1))) else none) (bestAt ml n later k l)

/-- For each suffix of the counts, the least total bits for each number of Kraft units of 2^(−maxlen), exactly used. -/
def costRows (ml : Nat) : List Nat → List (List (Option Nat))
  | [] => [some 0 :: List.replicate (2 ^ ml) none]
  | n :: t =>
    let rows := costRows ml t
    let later := rows.headD []
    (if n = 0 then later else (List.range (2 ^ ml + 1)).map fun k => bestAt ml n later k ml) :: rows

/-- The first length from l up that keeps the least cost. -/
def firstLen (ml n k : Nat) (later : List (Option Nat)) (goal : Option Nat) (l : Nat) : Nat → Nat
  | 0 => l
  | f + 1 =>
    let u := 2 ^ (ml - l)
    if u ≤ k && decide ((later.getD (k - u) none).map (· + n * l) = goal) && goal.isSome then l else firstLen ml n k later goal (l + 1) f

/-- The lengths, least in lexicographic order among those of least cost. -/
def pickLens (ml k : Nat) : List Nat → List (List (Option Nat)) → List Nat
  | n :: t, row :: rows =>
    if n = 0 then 0 :: pickLens ml k t rows
    else
      let l := firstLen ml n k (rows.headD []) (row.getD k none) 1 (ml - 1)
      l :: pickLens ml (k - 2 ^ (ml - l)) t rows
  | _, _ => []

/-- The builder's code lengths (R291). -/
def buildLens (width : Nat) (counts : List Nat) : List Nat :=
  if (counts.filter (· ≠ 0)).length ≤ 1 then counts.map fun n => if n = 0 then 0 else 1
  else pickLens (maxLen width) (2 ^ maxLen width) counts (costRows (maxLen width) counts)

/-- The image of a list of lengths (R270). -/
def buildImage (width : Nat) (lens : List Nat) : List Byte :=
  let body := pairUp (lens ++ List.replicate (256 - lens.length) 0)
  [BitVec.ofNat 8 width, 0] ++ toLe (lens.filter (· ≠ 0)).length 2 ++ toLe (crc32c body).toNat 4 ++ zeros 8 ++ body

/-- The bits the counted symbols take under the code (R290). -/
def codeCost (counts lens : List Nat) : Nat := (List.zipWith (· * ·) counts lens).sum

end Sys2Proof.Machine
end

