-- ==== Sys2Proof/Machine/Mem.lean ====
section
/-! DEFINITION. HBM behind its code words, and DVA ranges over it (spec/08_dram_flash.md R244 to R247; spec/07_tiers_translation.md
R217, R218, R228). -/

namespace Sys2Proof.Machine

/-- Memory is in canonical form: addresses strictly rising, and no byte listed that reads as an unlisted one, 0. -/
abbrev Memory.wf (m : List Host.Cell) : Bool := Store.wf (0 : Byte) m

/-! ### The device region (R216, R217, R225, R226) -/

/-- Offset of the device region in a stack (R216). -/
def devBase : Nat := 0x7E0000000

/-- A level-1 entry as its 8 bytes hold it: the place of its level-2 table, in 128 KiB units (R217). -/
def l1Entry (table : Nat) : Nat := if table = 0 then 0 else 2 ^ 63 + table * 2 ^ 17

/-- A level-2 entry as its 8 bytes hold it (R217). -/
def Pte.entry (e : Pte) : Nat :=
  optBool e.v * 2 ^ 63 + optBool e.lg * 2 ^ 62 + optBool e.rd * 2 ^ 61 + optBool e.wr * 2 ^ 60 + optBool e.wt * 2 ^ 59 + optBool e.fl * 2 ^ 58 +
    e.lidx % 2 ^ 23 * 2 ^ 32 + e.frame % 2 ^ 24

/-- The state codes of R227. -/
def LState.code : LState → Nat
  | .free => 0
  | .flash => 1
  | .lifting => 2
  | .hbm => 3
  | .hbmOnly => 4
  | .dropping => 5
  | .absent => 6

/-- A ledger entry as its 16 bytes hold it (R226). -/
def LedgerEntry.bytes (e : LedgerEntry) : List Byte :=
  toLe e.dpage 4 ++ toLe (e.slot.getD 0 % 2 ^ 26) 4 ++ toLe (e.frame % 2 ^ 21) 4 ++
    toLe (e.part % 8 * 32 + optBool e.pin * 16 + optBool e.suspect * 8 + e.st.code) 1 ++ toLe (e.inflight % 2 ^ 24) 3

/-- Where the ledger lies: 64 MiB into the device region of stack 0 (log entry 71). -/
def ledgerBase : Nat := devBase + 0x4000000

/-- The place of the n-th level-2 table, in 128 KiB units: the upper half of the device regions, the stacks in turn (log entry 71). -/
def tablePlace (n : Nat) : Nat := n % 4 * 2 ^ 18 + (devBase + 0x10000000) / 2 ^ 17 + n / 4

/-- A level-2 table for each of the pages' level-1 entries that has none (R217). -/
def Chip.needTables (ch : Chip) (p : Nat) (pages : List Nat) : Chip :=
  ((pages.map (· / 16384)).eraseDups).foldl (fun c i =>
    if look 0 (c.pt p).tables i ≠ 0 then c
    else
      let used := c.parts.flatMap fun x => x.2.tables.map (·.2)
      let n := ((List.range (used.length + 1)).find? fun n => !used.contains (tablePlace n)).getD 0
      c.modPt p fun x => { x with tables := put 0 x.tables i (tablePlace n) }) ch

/-- The physical addresses of a page's level-1 and level-2 entries; the second only of a valid level-1 entry (R217). -/
def Chip.entryAt (ch : Chip) (p page : Nat) : Nat × Option Nat :=
  let t := look 0 (ch.pt p).tables (page / 16384)
  ((ch.pt p).root * 2 ^ 21 + page / 16384 * 8, if t = 0 then none else some (t * 2 ^ 17 + page % 16384 * 8))

/-- What a byte of the device region holds: level-1 tables, level-2 tables, the ledger; elsewhere what was written there. -/
def Chip.devByte (ch : Chip) (a : Nat) : Byte :=
  let byte (x : Nat) : Byte := BitVec.ofNat 8 (bitsAt x (8 * (a % 8)) 8)
  match (List.range 8).find? fun p => (ch.pt p).valid && decide (a / 2 ^ 21 = (ch.pt p).root) with
  | some p => byte (l1Entry (look 0 (ch.pt p).tables (a % 2 ^ 21 / 8)))
  | none =>
    match ch.parts.findSome? fun x => (x.2.tables.find? fun t => decide (t.2 = a / 2 ^ 17)).map fun t => (x.2, t.1) with
    | some (p, i) => byte (p.pte (i * 16384 + a % 2 ^ 17 / 8)).entry
    | none =>
      if ledgerBase ≤ a && decide ((a - ledgerBase) / 16 < 8388607) then (ch.led ((a - ledgerBase) / 16)).bytes.getD ((a - ledgerBase) % 16) 0
      else look 0 ch.hbm a

/-! ### Places in a stack (R215, R244, R248) -/

/-- Pseudo-channel of a physical address (R244). -/
def pchOf (a : Nat) : Nat := bitsAt a 9 5

def stackOf (a : Nat) : Nat := bitsAt a 35 2

/-- The bank of raw burst x of a pseudo-channel, and the row within the bank. -/
def bankOfBurst (x : Nat) : Nat := x / 16 % 48
def rowOfBurst (x : Nat) : Nat := x / 16 / 48

/-- The raw bursts, with their pseudo-channels, that an access to a physical range needs: its data bursts and the check burst of each chunk
(R244, R245). -/
def burstsOf (a n : Nat) : List (Nat × Nat) :=
  let bursts := if n = 0 then [] else (List.range ((a + n - 1) / 64 - a / 64 + 1)).map (a / 64 + ·)
  (bursts.flatMap fun b =>
    let c := bitsAt (b * 64) 14 21
    [(pchOf (b * 64), 9 * c + b % 8), (pchOf (b * 64), 9 * c + 8)]).eraseDups

/-- The rows an access opens stay open until another row of their bank is asked for or the bank is refreshed (R248). -/
def Chip.openRows (ch : Chip) (a n : Nat) : Chip :=
  ch.modSk (stackOf a) fun x => { x with rows := (burstsOf a n).foldl (fun m b => put 0 m (b.1 * 48 + bankOfBurst b.2) (rowOfBurst b.2 + 1)) x.rows }

/-! ### Code words (R244 to R246) -/

/-- What the 288 stored bits of the code word of a physical byte differ by from the code word of its data. -/
def Chip.errWord (ch : Chip) (a : Nat) : BitVec 288 := look 0 ch.hbmErr (a / 32)

/-- Symbols in error of the code word that holds a physical byte. -/
def Chip.errsAt (ch : Chip) (a : Nat) : Nat := if ch.errWord a = 0 then 0 else symErrs (ch.errWord a)

def Chip.lostAt (ch : Chip) (a : Nat) : Bool := decide (2 ≤ ch.errsAt a) && decide (ch.errsAt a ≤ 3)

/-- Byte lane of a code word's first symbol in error: byte b of a burst belongs to lane b mod 4, of the check burst too (R246). -/
def Chip.errLane (ch : Chip) (a : Nat) : Nat := firstErr (ch.errWord a) % 4

/-- One byte as a read delivers it: a word of four or more symbols in error may come out as anything (R246). -/
def Chip.hbmByte (ch : Chip) (a : Nat) : Byte :=
  if 4 ≤ ch.errsAt a then Config.eccByte 255 a ch.free
  else if devBase ≤ a % 2 ^ 35 then ch.devByte a else look 0 ch.hbm a

def Chip.readPhys (ch : Chip) (a n : Nat) : List Byte := (List.range n).map fun i => ch.hbmByte (a + i)

/-- The bytes of an HBM code word as stored, check bytes included (R244). -/
def Chip.storedWord (ch : Chip) (w : Nat) : BitVec 288 := codeWord ((List.range 32).map fun i => look 0 ch.hbm (w * 32 + i)) ^^^ ch.errWord (w * 32)

/-- A corrected symbol is counted against its pseudo-channel and byte lane; 8 within 24 h mark the frame, 64 of a lane within an hour set
lane_warn and raise its event (R246, R247, R254). -/
def Chip.countHbmCe (ch : Chip) (k : Clock) (w : Nat) : Chip :=
  let s := stackOf (w * 32)
  let lane := ch.errLane (w * 32)
  let pch := pchOf (w * 32)
  let day := ((ch.fr (w / 2048)).ces.filter fun t => decide (k.localNs < t + 86400000000000)) ++ [k.localNs]
  let hour := ((look [] (ch.sk s).laneErrs (pch * 4 + lane)).filter fun t => decide (k.localNs < t + 3600000000000)) ++ [k.localNs]
  let ch := ch.modFr (w / 2048) fun f => { f with ces := day, marked := f.marked || decide (8 ≤ day.length) }
  let ch := ch.modSk s fun x => { x with ceCount := satTo 0xFFFF (x.ceCount + 1), lastPch := pch, lastLane := lane,
                                         laneErrs := put [] x.laneErrs (pch * 4 + lane) hour, laneWarn := x.laneWarn || decide (64 ≤ hour.length) }
  if hour.length = 64 then ch.notice k 3 s else ch

/-- Every region cache drops a partition's translation of a page (R224). -/
def Chip.dropTlb (ch : Chip) (p : Nat) (pages : List Nat) : Chip :=
  { ch with regions := ch.regions.map fun e => (e.1, { e.2 with tlb := e.2.tlb.filter fun t => !(decide (t.part = p) && pages.any fun g => decide ((if t.large then g / 32 * 32 else g) = t.page)) }) }

/-- The page entry of a weight page pointed to flash or to a frame (R228). -/
def Chip.pteTo (ch : Chip) (p page : Nat) (frame : Option Nat) : Chip :=
  (ch.modPt p fun x => { x with pages := upd {} x.pages page fun e => if e.v then { e with fl := frame.isNone, frame := frame.getD 0 } else e }).dropTlb p [page]

/-- An uncorrectable word: the frame is marked, a page in HBM state passes to FLASH, an HBM_ONLY page is suspect (R228, R246, R247). -/
def Chip.hbmUe (ch : Chip) (w : Nat) : Chip :=
  let f := w / 2048
  let ch := (ch.modSk (stackOf (w * 32)) fun x => { x with ue := true, lastPch := pchOf (w * 32), lastLane := ch.errLane (w * 32) }).markFrame f
  match ch.ledger.find? fun e => decide (e.2.frame = f) && (decide (e.2.st = .hbm) || decide (e.2.st = .hbmOnly)) with
  | none => ch
  | some (i, e) =>
    if e.st = .hbm then
      ((ch.modLed i fun x => { x with st := .flash, frame := 0 }).pteTo e.part e.dpage none).freeFrame f e.part false
    else ch.modLed i fun x => { x with suspect := true }

/-- What reading a physical range does beside delivering it: rows open, a corrected symbol is counted, a lost word marks its frame. -/
def Chip.touchPhys (ch : Chip) (k : Clock) (a n : Nat) : Chip :=
  ((wordsOf a n).filter fun w => ch.errsAt (w * 32) ≠ 0).foldl (fun c w =>
    if c.errsAt (w * 32) = 1 then c.countHbmCe k w else if c.lostAt (w * 32) then c.hbmUe w else c) (ch.openRows a n)

/-- Whether a range holds a word that cannot be corrected. -/
def Chip.lostPhys (ch : Chip) (a n : Nat) : Bool := (wordsOf a n).any fun w => ch.lostAt (w * 32)

def putBytes (m : List Host.Cell) (a : Nat) : List Byte → List Host.Cell
  | [] => m
  | b :: t => putBytes (put 0 m a b) (a + 1) t

/-- The code words of the data bursts that a write covers only in part: step 1 reads them (R245). -/
def partWords (a n : Nat) : List Nat :=
  (((wordsOf a n).map (· / 2)).eraseDups.filter fun b => !(decide (a ≤ b * 64) && decide (b * 64 + 64 ≤ a + n))).flatMap fun b => [b * 2, b * 2 + 1]

/-- A range written, code word by code word: one that step 1 read and found lost is left as stored; one it read is merged as it was
delivered; every word written takes new check bytes (R245). -/
def Chip.writeWords (ch : Chip) (part : List Nat) (a : Nat) (bytes : List Byte) : Nat → Chip
  | 0 => ch
  | fuel + 1 =>
    if bytes.isEmpty then ch
    else
      let n := 32 - a % 32
      let w := a / 32
      let read := part.contains w
      let ch' := if read && ch.lostAt a then ch
        else
          let base := if read && decide (4 ≤ ch.errsAt a) then putBytes ch.hbm (w * 32) (ch.readPhys (w * 32) 32) else ch.hbm
          { ch with hbm := putBytes base a (bytes.take n), hbmErr := put 0 ch.hbmErr w 0 }
      ch'.writeWords part (a + n) (bytes.drop n) fuel

/-- Whether the read of step 1 of a write meets an uncorrectable word (R245). -/
def Chip.lostWrite (ch : Chip) (a n : Nat) : Bool := (partWords a n).any fun w => ch.lostAt (w * 32)

/-- A write (R245): what step 1 reads is counted as any read, corrected words of the bursts it writes back are stored corrected. -/
def Chip.writePhys (ch : Chip) (k : Clock) (a : Nat) (bytes : List Byte) : Chip :=
  let part := partWords a bytes.length
  let one := part.filter fun w => decide (ch.errsAt (w * 32) = 1)
  let lost := part.filter fun w => ch.lostAt (w * 32)
  let ch := one.foldl (fun c w => c.countHbmCe k w) (ch.openRows a bytes.length)
  let ch := ch.writeWords part a bytes (bytes.length + 1)
  lost.foldl (fun c w => c.hbmUe w) { ch with hbmErr := one.foldl (fun m w => put 0 m w 0) ch.hbmErr }

/-! ### DVA ranges -/

/-- The pages a DVA range touches. -/
def pagesOf (dva n : Nat) : List Nat := if n = 0 then [] else (List.range ((dva + n - 1) / 65536 - dva / 65536 + 1)).map (dva / 65536 + ·)

/-- A DVA range cut at page boundaries into its physical runs, with the offset of each. -/
def Chip.runsOf (ch : Chip) (p dva n : Nat) : List (Nat × Nat × Nat) :=
  (pagesOf dva n).map fun g =>
    let lo := max dva (g * 65536)
    (((ch.pt p).pte g).phys lo, lo - dva, min (dva + n) ((g + 1) * 65536) - lo)

/-- The runs of a DVA range whose pages lie in frames: a page in flash, or none, has none. -/
def Chip.runsMem (ch : Chip) (p dva n : Nat) : List (Nat × Nat × Nat) :=
  (ch.runsOf p dva n).filter fun r => let e := (ch.pt p).pte ((dva + r.2.1) / 65536); e.v && !e.fl

/-- The first translation fault of a range, with its DVA (R223). -/
def Chip.rangeFault (ch : Chip) (p dva n : Nat) (write : Bool) : Option (Nat × Nat) :=
  (pagesOf dva n).findSome? fun g => ((ch.pt p).transFault (g * 65536) write).map fun c => (c, max dva (g * 65536))

/-- Whether a range touches a weight page. -/
def Chip.rangeWeight (ch : Chip) (p dva n : Nat) : Bool := (pagesOf dva n).any fun g => ((ch.pt p).pte g).wt

/-- Whether a range touches a page in flash. -/
def Chip.rangeFlash (ch : Chip) (p dva n : Nat) : Bool := (pagesOf dva n).any fun g => ((ch.pt p).pte g).fl

def Chip.readDva (ch : Chip) (p dva n : Nat) : List Byte := (ch.runsOf p dva n).flatMap fun r => ch.readPhys r.1 r.2.2

def Chip.touchDva (ch : Chip) (k : Clock) (p dva n : Nat) : Chip := (ch.runsMem p dva n).foldl (fun c r => c.touchPhys k r.1 r.2.2) ch

/-- The offset in a DVA range of the first byte of the first lost word (R392). -/
def Chip.firstLost (ch : Chip) (p dva n : Nat) (write : Bool) : Option Nat :=
  (ch.runsMem p dva n).findSome? fun r =>
    ((if write then partWords r.1 r.2.2 else wordsOf r.1 r.2.2).find? fun w => ch.lostAt (w * 32)).map fun w => r.2.1 + (w * 32 - r.1)

def Chip.writeDva (ch : Chip) (k : Clock) (p dva : Nat) (bytes : List Byte) : Chip :=
  (ch.runsOf p dva bytes.length).foldl (fun c r => c.writePhys k r.1 (slice bytes r.2.1 r.2.2)) ch

/-- A DVA range read with every byte of a lost word as 0 (R392). -/
def Chip.readDvaZero (ch : Chip) (p dva n : Nat) : List Byte :=
  (ch.runsOf p dva n).flatMap fun r => (List.range r.2.2).map fun i => if ch.lostAt (r.1 + i) then 0 else ch.hbmByte (r.1 + i)

end Sys2Proof.Machine
end

