-- ==== Sys2Proof/Machine/Ledger.lean ====
section
/-! DEFINITION. The frames of partitions and the ledger: the pool, lifts, drops, schedules and suspect pages (spec/07_tiers_translation.md
R218, R219, R226 to R236). -/

namespace Sys2Proof.Machine

/-! ### Frames -/

/-- The frame a page entry names for a page (R218). -/
def Pte.frameOf (e : Pte) (page : Nat) : Nat := if e.lg then e.frame + page % 32 else e.frame

/-- The pages of a partition unmapped: entries invalid, caches rid of them, frames zeroed before reuse (R224, R259). -/
def Chip.unmapPages (ch : Chip) (p : Nat) (pages : List Nat) (teardown : Bool) : Chip :=
  let fs := pages.filterMap fun g => let e := (ch.pt p).pte g; if e.v && !e.wt then some (e.frameOf g) else none
  let ch := (ch.modPt p fun x => { x with pages := pages.foldl (fun m g => put {} m g {}) x.pages }).dropTlb p pages
  fs.foldl (fun c f => c.freeFrame f p teardown) ch

/-- Frames of a stack a partition may still take: its quota less what it holds (R347). -/
def Chip.quotaLeft (ch : Chip) (p s : Nat) : Nat := look 0 (ch.pt p).quota s - ch.framesOf p s

/-- Takes n frames of a stack for a partition. -/
def Chip.takeFrames (ch : Chip) (p : Nat) (fs : List Nat) : Chip := fs.foldl (fun c f => c.modFr f fun x => { x with use := .used p }) ch

/-! ### The pool (R230) -/

/-- The epochs of a partition: handle and slot. -/
def Chip.epochsOf (ch : Chip) (p : Nat) : List (Nat × Nat) :=
  (List.range 16).flatMap fun h => if (ch.mdl h).valid && decide ((ch.mdl h).part = p) then ([0, 1].filter fun e => decide (((ch.mdl h).ep e).st ≠ .empty)).map fun e => (h, e) else []

def Chip.poolSize (ch : Chip) (p : Nat) : Nat := ((ch.epochsOf p).map fun x => ((ch.mdl x.1).ep x.2).pool).sum

/-- Pool frames that hold pages. -/
def Chip.poolUsed (ch : Chip) (p : Nat) : Nat :=
  (ch.ledger.filter fun e => decide (e.2.part = p) && decide (e.2.st ∈ [LState.lifting, .hbm, .hbmOnly, .dropping])).length

/-- The epoch whose weight window holds a ledger entry. -/
def Chip.epochOfLidx (ch : Chip) (p i : Nat) : Option (Nat × Nat) :=
  (ch.epochsOf p).find? fun x => let e := (ch.mdl x.1).ep x.2; decide (e.ledBase ≤ i) && decide (i < e.ledBase + e.wsize / 65536)

/-- A free frame of the partition's pool, of the page's own epoch first. -/
def Chip.poolFrame (ch : Chip) (p i : Nat) : Option (Nat × Chip) :=
  let own := (ch.epochOfLidx p i).toList
  ((own ++ ch.epochsOf p).find? fun x => !((ch.mdl x.1).ep x.2).free.isEmpty).bind fun x =>
    (((ch.mdl x.1).ep x.2).free.head?).map fun f => (f, ch.modEp x.1 x.2 fun e => { e with free := e.free.drop 1 })

/-- A frame returns to the pool of its page's epoch; a marked frame leaves it to be retired (R228, R247). -/
def Chip.poolReturn (ch : Chip) (p i f : Nat) : Chip :=
  if (ch.fr f).marked then ch.freeFrame f p false
  else match ch.epochOfLidx p i with
    | some x => ch.modEp x.1 x.2 fun e => { e with free := e.free ++ [f] }
    | none => ch.freeFrame f p false

/-! ### Lifts and drops (R228, R230, R235) -/

/-- Whether a schedule entry names a page. -/
def PrefetchEntry.names (x : PrefetchEntry) (dpage : Nat) : Bool := decide (x.dva / 65536 ≤ dpage) && decide (dpage < x.dva / 65536 + x.pages)

/-- Cyclic distance from position c to d. -/
def cycDist (cycle c d : Nat) : Nat := (d + cycle - c % cycle) % cycle

/-- The next listed use of a page in the partition's schedules: none when none lists it (R235). -/
def Chip.nextUse (ch : Chip) (p i : Nat) : Option Nat :=
  ((ch.epochsOf p).flatMap fun x =>
    let e := (ch.mdl x.1).ep x.2
    match e.sched with
    | some s => (s.entries.filter fun y => y.names (ch.led i).dpage).map fun y => cycDist s.cycle e.pos y.start
    | none => []).foldl (fun b d => match b with | none => some d | some m => some (min m d)) none

/-- Whether page a's next use is later than page b's, the higher lidx of a tie (R230). -/
def laterUse (a b : Nat × Option Nat) : Bool :=
  match a.2, b.2 with
  | none, none => decide (b.1 < a.1)
  | none, some _ => true
  | some _, none => false
  | some x, some y => decide (y < x) || (decide (x = y) && decide (b.1 < a.1))

/-- The page a lift that finds the pool full drops. -/
def Chip.victim (ch : Chip) (p : Nat) : Option Nat :=
  (((ch.ledger.filter fun e => decide (e.2.part = p) && decide (e.2.st = .hbm) && !e.2.pin).map fun e => (e.1, ch.nextUse p e.1)).foldl
    (fun b x => match b with | none => some x | some y => if laterUse x y then some x else some y) none).map Prod.fst

/-- A drop: the page's reads go to flash, and its frame is free when its requests in flight are done (R228). -/
def Chip.dropPage (ch : Chip) (i : Nat) : Chip :=
  let e := ch.led i
  if e.st = .hbm && !e.pin then (ch.modLed i fun x => { x with st := .dropping }).pteTo e.part e.dpage none
  else if e.st = .lifting then
    (ch.modLed i fun x => { x with st := .flash, frame := 0, sectors := [], liftHeld := false }).poolReturn e.part i e.frame
  else ch

/-- A lift begins in a frame of the pool. -/
def Chip.beginLift (ch : Chip) (i : Nat) : Chip :=
  let e := ch.led i
  if e.st ≠ .flash || e.suspect then ch
  else match ch.poolFrame e.part i with
    | none => ch
    | some (f, ch) => ch.modLed i fun x => { x with st := .lifting, frame := f, sectors := [], liftHeld := false }

/-- A lift is requested: held on a dropping page; a full pool drops a page for it, and with none to drop the lift is not made (R228, R230). -/
def Chip.requestLift (ch : Chip) (i : Nat) : Chip :=
  let e := ch.led i
  if e.st = .dropping then ch.modLed i fun x => { x with liftHeld := true }
  else if e.st ≠ .flash || e.suspect then ch
  else if (ch.poolFrame e.part i).isSome then ch.beginLift i
  else match ch.victim e.part with
    | some v => (ch.dropPage v).modLed i fun x => { x with liftHeld := true }
    | none => (ch.modLed i fun x => { x with liftHeld := false }).modPt e.part fun x => { x with skipped := satTo 0xFFFF (x.skipped + 1) }

/-- Ledger entries of a partition in a state, with or without a lift that waits. -/
def Chip.pagesIn (ch : Chip) (p : Nat) (st : LState) (held : Bool) : List Nat :=
  keysWhere (fun _ x => decide (x.part = p) && decide (x.st = st) && decide (x.liftHeld = held)) ch.ledger

/-- A lift that waits for a frame: it begins when the pool has one; when more lifts wait than pages are on their way out, the pool was found
full again and a page is dropped for it (R230). -/
def Chip.heldLift (ch : Chip) (p i : Nat) : Chip :=
  if (ch.poolFrame p i).isSome then ch.beginLift i
  else if (ch.pagesIn p .dropping false).length < (ch.pagesIn p .flash true).length then ch.requestLift i
  else ch

/-- A DROPPING page with no request in flight becomes FLASH and its frame goes back; the lift held on it begins first, then those that wait
for a frame (R228, R230). -/
def Chip.dropComplete (ch : Chip) (i : Nat) : Chip :=
  let e := ch.led i
  if e.st ≠ .dropping || e.inflight ≠ 0 then ch
  else
    let ch := (ch.modLed i fun x => { x with st := .flash, frame := 0 }).poolReturn e.part i e.frame
    let held := (ch.pagesIn e.part .flash true).filter (· ≠ i)
    ((if e.liftHeld then [i] else []) ++ held).foldl (fun c j => c.heldLift e.part j) ch

/-- Ledger entries of a DVA page range of an epoch. -/
def Epoch.lidxOf (e : Epoch) (dpage : Nat) : Option Nat :=
  if e.wbase / 65536 ≤ dpage ∧ dpage < e.wbase / 65536 + e.wsize / 65536 then some (e.ledBase + (dpage - e.wbase / 65536)) else none

/-- The weight pages of a partition that an entry names, as ledger entries, whichever epoch holds them. -/
def Chip.entryPages (ch : Chip) (p : Nat) (x : PrefetchEntry) : List Nat :=
  (List.range x.pages).filterMap fun i => (ch.epochsOf p).findSome? fun e => ((ch.mdl e.1).ep e.2).lidxOf (x.dva / 65536 + i)

/-- Whether position c lies in an entry's span from start to last, taken cyclically. -/
def PrefetchEntry.spans (x : PrefetchEntry) (cycle c : Nat) : Bool := decide (cycDist cycle x.start c ≤ cycDist cycle x.start x.last)

/-- The lifts of position c, in entry order. -/
def Chip.liftsAt (ch : Chip) (h e c : Nat) : Chip :=
  let ep := (ch.mdl h).ep e
  match ep.sched with
  | none => ch
  | some s => ((s.entries.filter fun x => decide (x.start = c)).flatMap (ch.entryPages (ch.mdl h).part)).foldl (fun m i => m.requestLift i) ch

/-- The schedule of an epoch moves to the next position: the drops of entries it has passed, then its lifts (R235). -/
def Chip.schedStep (ch : Chip) (h e : Nat) : Chip :=
  let ep := (ch.mdl h).ep e
  match ep.sched with
  | none => ch
  | some s =>
    let c := (ep.pos + 1) % s.cycle
    let ch := ch.modEp h e fun x => { x with pos := c }
    let gone := (s.entries.filter fun x => x.drop && decide ((x.last + 1) % s.cycle = c)).flatMap (ch.entryPages (ch.mdl h).part)
    let gone := gone.filter fun i => !(s.entries.any fun y => y.spans s.cycle c && y.names (ch.led i).dpage)
    (gone.foldl (fun m i => m.dropPage i) ch).liftsAt h e c

/-- A release of a barrier advances the schedules it drives (R235). -/
def Chip.schedAdvance (ch : Chip) (p b : Nat) : Chip :=
  (ch.epochsOf p).foldl (fun c x =>
    let e := (c.mdl x.1).ep x.2
    match e.sched with
    | some s => if s.barrier = b && e.st ≠ .loading && !e.releasing then c.schedStep x.1 x.2 else c
    | none => c) ch

/-! ### Suspect pages (R228, R229, R263, R304) -/

/-- Whether no request to a page is issued: a weight page that is suspect or ABSENT (R229). -/
def Chip.suspectAt (ch : Chip) (p dva : Nat) : Bool :=
  let e := (ch.pt p).pte (dva / 65536)
  e.v && e.wt && ((ch.led e.lidx).suspect || decide ((ch.led e.lidx).st = .absent))

/-- A weight page's suspect bit is set; a lift of it ends (R228). -/
def Chip.setSuspect (ch : Chip) (i : Nat) : Chip :=
  let e := ch.led i
  if e.st = .free then ch
  else
    let ch := if e.st = .lifting then ch.dropPage i else ch
    ch.modLed i fun x => { x with suspect := true }

end Sys2Proof.Machine
end

