-- ==== Sys2Proof/Machine/StreamOps.lean ====
section
/-! DEFINITION. Streams: patterns, halves, completion, stops and fallback substitution (spec/06_streams_barriers.md R182 to R196;
spec/07_tiers_translation.md R237 to R242). -/

namespace Sys2Proof.Machine

/-! ### Patterns and ranges -/

/-- The DVA of byte i of a descriptor's memory side (R186), modulo 2^48 (DESIGN CHOICE, log entry 68). -/
def Desc.addr (d : Desc) (i : Nat) : Nat :=
  let j := i / d.run
  let a : Int := d.dva + ((j % d.n1 : Nat) : Int) * d.s1 + ((j / d.n1 % d.n2 : Nat) : Int) * d.s2 + ((j / (d.n1 * d.n2) % d.n3 : Nat) : Int) * d.s3 + ((i - j * d.run : Nat) : Int)
  (a % ((2 ^ 48 : Nat) : Int)).toNat

/-- Bytes left in the run that byte i lies in. -/
def Desc.runLeft (d : Desc) (i : Nat) : Nat := d.run - i % d.run

/-- A length cut so that it crosses no 4 KiB boundary (R199). -/
def cut4k (dva n : Nat) : Nat := min n (4096 - dva % 4096)

/-- The physical scratchpad address of byte i of a half. -/
def Half.spd (y : Half) (d : Desc) (h : Bool) (i : Nat) : Nat := (d.spdBase * 512 + (if h then d.halfBytes else 0) + (i - y.start)) % spdSize

/-- The physical half that a half field names: by role when the stream's range is exactly a declared pair (R167). -/
def Cluster.physHalf (c : Cluster) (d : Option Desc) (h : Bool) : Bool :=
  match d with
  | none => h
  | some d =>
    match (List.range 16).find? fun n => let w := look 0 c.dbuf n; pairValid w && decide (pairBase w = d.spdBase * 512) && decide (pairHalf w = d.halfBytes) with
    | none => h
    | some n => h != c.role.getLsbD n

/-- The partition that owns a stream of a region (R27). -/
def Chip.strOwner (ch : Chip) (r st : Nat) : Nat := ((List.range 8).find? fun p => (ch.pt p).valid && (ch.pt p).ownsStream r st).getD 0

/-- The blocks of a half, by their numbers in the descriptor, with the bytes of each that lie in the half (R239). -/
def Half.blocks (y : Half) : List (Nat × Nat) :=
  if y.want = 0 then [] else
  (List.range ((y.start + y.want - 1) / 4096 - y.start / 4096 + 1)).map fun i =>
    let b := y.start / 4096 + i
    (b, min (y.start + y.want) ((b + 1) * 4096) - max y.start (b * 4096))

/-- Whether a block of a half has arrived or been substituted (R239). -/
def Half.blockDone (y : Half) (b : Nat × Nat) : Bool := decide (b.1 ∈ y.substd) || decide (b.2 ≤ look 0 y.land b.1)

/-- Whether the half holds all its data (R190, R239). -/
def Half.full (y : Half) : Bool := y.blocks.all y.blockDone

/-! ### Halves given to a descriptor -/

/-- The engine-held half that takes the next bytes: hand-over order, then the half that follows (R190). -/
def Stream.nextFree (x : Stream) : Option Bool :=
  let free : Bool → Bool := fun h => (x.half h).eng && (x.half h).desc.isNone
  let other := !x.nextHalf
  if free x.nextHalf && free other then some (if (x.half other).handover < (x.half x.nextHalf).handover then other else x.nextHalf)
  else if free x.nextHalf then some x.nextHalf
  else if free other then some other
  else none

/-- One engine-held half takes the next bytes of the active descriptor (R190, R191); the raw blocks of a compressing stream go to the
encoder's queue in the order they are read (R285). -/
def Chip.assignOne (ch : Chip) (r st : Nat) : Chip :=
  let x := ch.str r st
  match x.active with
  | none => ch
  | some d =>
    if d.dir = 2 || d.length ≤ x.handed then ch
    else match x.nextFree with
      | none => ch
      | some h =>
        let n := min d.halfBytes (d.length - x.handed)
        let ch := ch.modStr r st fun x =>
          { (x.modHalf h fun y => { y with desc := some d, start := x.handed, want := n, issued := 0, got := 0, land := [], substd := [], again := [], expired := false, lateSent := false }) with
            handed := x.handed + n, nextHalf := !h }
        if d.codec = 2 then ch.modRg r fun g => { g with encQueue := g.encQueue ++ (List.range (n / 4096)).map fun i => (st, h, x.handed + i * 4096) } else ch

def Chip.assign (ch : Chip) (k : Clock) (r st : Nat) : Chip := ((ch.assignOne r st).assignOne r st).redry k r st

/-- The waits on a stream's halves may have changed: the clusters of the region that idle take their ready slots. -/
def Desc.pcid (ch : Chip) (d : Desc) : Option Nat := if d.dir = 2 then none else ch.pcid d.lcid

/-! ### Events of a stream -/

def Chip.streamLate (ch : Chip) (k : Clock) (r st : Nat) (d : Desc) (h : Bool) : Chip :=
  ch.raise k (ch.strOwner r st) 0xE010 .ok d.ctx (toBe r 1 ++ toBe st 1 ++ toBe (optBool h) 1 ++ zeros 1)

/-- The run in which a descriptor completes: its context's run on its cluster (R397). -/
def Chip.runOfDesc (ch : Chip) (p : Nat) (d : Desc) : Option Nat :=
  (ch.runs.find? fun x => decide (x.part = p) && decide (x.ctx = d.ctx) && (x.slots.any (fun s => decide (s.1 = d.lcid)) || x.ended.any fun s => decide (s.1 = d.lcid))).map (·.id)

/-- A descriptor's completion event, with its fallback-block count, to the session that armed it (R193, R397). -/
def Chip.notifyDesc (ch : Chip) (k : Clock) (r st : Nat) (d : Desc) (fb : Nat) : Chip :=
  let p := ch.strOwner r st
  let ch := match ch.runOfDesc p d with | some i => ch.runFidelity i fb | none => ch
  if !d.notify then ch
  else
    let ev : Event := { code := 0xE001, status := Status.ok.code, part := p, ctx := d.ctx, origSeq := d.seqNo, origOp := 0x0504,
                        payload := toBe r 1 ++ toBe st 1 ++ zeros 2 ++ toBe fb 4, stamp := k.timebase }
    match ch.session? d.session with
    | some x => if x.closed then ch else ch.raiseTo k p [d.session] ev
    | none => ch.raiseTo k p (ch.openSessions p) ev

/-! ### Completion -/

/-- Lane buffers of a stream, or of one half of it, freed (R279, R286). -/
def Chip.dropBlocks (ch : Chip) (r st : Nat) (h : Option Bool) : Chip :=
  (List.range 5).foldl (fun c i => c.modCl (r * 5 + i) fun x =>
    { x with lanes := (List.range 8).foldl (fun m l => upd {} m l fun y => { y with bufs := y.bufs.filter fun b => !(decide (b.region = r) && decide (b.stream = st) && (match h with | some h => decide (b.half = h) | none => true)) }) x.lanes }) ch


/-- The staged words of a stream are discarded (R174, R195). -/
def Chip.dropStaged (ch : Chip) (r st : Nat) : Chip :=
  (List.range 5).foldl (fun c i => c.modCl (r * 5 + i) fun x => { x with staged := x.staged.filter fun s => !(decide (s.region = r) && decide (s.stream = st)) }) ch

/-- The raw blocks of a stream leave the encoder's queue. -/
def Chip.dropEnc (ch : Chip) (r st : Nat) : Chip :=
  ch.modRg r fun g =>
    { g with encQueue := g.encQueue.filter fun e => e.1 ≠ st, encData := if (g.encQueue.head?.map (·.1)) = some st then [] else g.encData }

/-- The active descriptor completes: it is kept as retired, the next one is promoted and continues with the half that follows (R183,
R190, R193, R459). -/
def Chip.descDone (ch : Chip) (k : Clock) (r st : Nat) : Chip :=
  let x := ch.str r st
  match x.active with
  | none => ch
  | some d =>
    let ch := ch.notifyDesc k r st d x.descFb
    let ch := ch.modStr r st fun x =>
      { x with active := x.next, next := none, last := x.next.or x.active, handed := 0, done := 0, descFb := 0,
               retired := if d.dir ≠ 2 && x.retired.length < 2 then x.retired ++ [d] else x.retired,
               st := if x.next.isSome then .active else .idle }
    ch.assign k r st

/-- Whether bytes of a half still wait in the staging buffer of its cluster (R163). -/
def Chip.stagedFor (ch : Chip) (r st : Nat) (h : Bool) (d : Desc) : Bool :=
  match d.pcid ch with
  | some c => (ch.cl c).staged.any fun s => decide (s.region = r) && decide (s.stream = st) && decide (s.half = h)
  | none => false

/-- Whether the engine holds a half with earlier bytes of the descriptor: halves pass to the cluster in the order of their bytes (R190). -/
def Stream.earlier (x : Stream) (h : Bool) : Bool :=
  let o := x.half !h
  o.eng && o.desc.isSome && decide (o.start < (x.half h).start)

/-- A half that holds all its data, in the banks, or is drained, is marked ready and passes to the cluster (R163, R190, R191, R239). -/
def Chip.halfReady (ch : Chip) (k : Clock) (r st : Nat) (h : Bool) : Chip :=
  let y := (ch.str r st).half h
  match y.desc with
  | none => ch
  | some d =>
    let whole := if d.dir = 0 then y.full && !ch.stagedFor r st h d else decide (y.want ≤ y.got)
    if y.eng && whole && !(ch.str r st).earlier h then
      let at_ := (d.pcid ch).map fun c => (ch.cl c).aclk
      let ch := ch.modStr r st fun x =>
        { (x.modHalf h fun y => { y with eng := false, ready := true, readyAt := at_, satisfied := none, again := [] }) with
          done := x.done + y.want, subs := x.subs.filter fun j => decide (j.half ≠ h), reqs := x.reqs.map fun q => { q with drop := q.drop || (!q.write && decide (q.half = h)) } }
      let ch := (if d.dir = 0 then ch.dropBlocks r st (some h) else ch).redry k r st
      if y.start + y.want = d.length && (ch.str r st).active = some d then ch.descDone k r st else ch
    else ch

/-- A half's bytes have moved: it may be complete, and with it the half that waited behind it. -/
def Chip.halfCheck (ch : Chip) (k : Clock) (r st : Nat) (h : Bool) : Chip := (ch.halfReady k r st h).halfReady k r st !h

/-- A copy stream's descriptor completes with its last write (R193). -/
def Chip.copyCheck (ch : Chip) (k : Clock) (r st : Nat) : Chip :=
  let x := ch.str r st
  match x.active with
  | some d => if d.dir = 2 && x.done = d.length then ch.descDone k r st else ch
  | none => ch

/-- A descriptor becomes active on an idle stream: inbound halves pass to the engine, the half named 0 first; outbound halves to the
cluster (R183, R189). -/
def Chip.activate (ch : Chip) (k : Clock) (r st : Nat) (d : Desc) : Chip :=
  let first := match d.pcid ch with | some c => (ch.cl c).physHalf (some d) false | none => false
  let y : Half := { eng := decide (d.dir = 0), ready := decide (d.dir = 1), handover := k.timebase }
  (ch.modStr r st fun x =>
    { x with st := .active, active := some d, last := some d, cause := 0, h0 := y, h1 := y, nextHalf := first, handed := 0, done := 0,
             fidelity := 0, descFb := 0, pieces := [], subs := [] }).assign k r st

/-- A half handed to the engine by a RELHALF (R190, R191, R194). -/
def Chip.handOver (ch : Chip) (k : Clock) (r st : Nat) (h : Bool) : Chip :=
  let y := (ch.str r st).half h
  if (ch.str r st).st = .faulted || (ch.str r st).st = .stopping then ch
  else if y.eng then ch.modStr r st fun x => { x with relDup := true }
  else (ch.modStr r st fun x => x.modHalf h fun y => { y with eng := true, ready := false, readyAt := none, satisfied := none, desc := none, handover := k.timebase }).assign k r st

/-! ### Stops (R195) -/

/-- Whether a request has been issued: it holds a position of its last wheel. -/
def StreamReq.issued (q : StreamReq) : Bool :=
  !q.walking && (if q.window.isSome || q.flash.isSome then decide (q.remoteLeft < q.len) else decide (q.left < q.len))

/-- A request leaves the stream's list and its page's count of requests in flight (R226). -/
def Chip.dropReq (ch : Chip) (r st : Nat) (q : StreamReq) : Chip :=
  let ch := match q.lidx with | some i => ch.modLed i fun x => { x with inflight := x.inflight - 1 } | none => ch
  ch.modStr r st fun x => { x with reqs := x.reqs.erase q }

/-- Requests that have not been issued are given up; those in flight complete, the data of reads discarded. -/
def Chip.giveUpReqs (ch : Chip) (r st : Nat) : Chip :=
  let ch := ((ch.str r st).reqs.filter fun q => !q.issued).foldl (fun c q => c.dropReq r st q) ch
  ch.modStr r st fun x => { x with reqs := x.reqs.map fun q => { q with drop := true }, pieces := [], subs := [] }

/-- A stream stops: both slots clear, issued outbound writes still land, inbound data is discarded, and the owner hears of it. -/
def Chip.stopStream (ch : Chip) (k : Clock) (r st cause : Nat) : Chip :=
  let x := ch.str r st
  if x.st ≠ .active then ch
  else
    let p := ch.strOwner r st
    let ctx := match x.active with | some d => d.ctx | none => 0
    let off : Half → Half := fun y => { y with eng := false, ready := false, readyAt := none, desc := none, satisfied := none }
    let ch := (ch.giveUpReqs r st).modStr r st fun x =>
      { x with st := .faulted, cause := cause, active := none, next := none, retired := [], h0 := off x.h0, h1 := off x.h1, dry := none }
    let ch := (((ch.dropBlocks r st none).dropStaged r st).dropEnc r st)
    let ch := ch.raise k p 0xE011 .ok ctx (toBe r 1 ++ toBe st 1 ++ toBe cause 1 ++ zeros 1)
    if cause = 1 then ch.fault k 2 (.ctx p ctx) (r * 64 + st)
    else if cause = 3 then ch.fault k 3 (.ctx p ctx) (r * 64 + st)
    else ch

/-- A translation fault of a stream: recorded when the record is clear, and the stream stops (R223). -/
def Chip.streamFault (ch : Chip) (k : Clock) (r st cause dva : Nat) : Chip :=
  let p := ch.strOwner r st
  let ctx := match (ch.str r st).active with | some d => d.ctx | none => 0
  (ch.modPt p fun x => if x.mmuValid then x else { x with mmuValid := true, mmuCause := cause, mmuCtx := ctx, mmuRegion := r, mmuStream := st, mmuDva := dva }).stopStream k r st 1

/-! ### Bytes into the scratchpad -/

/-- Whether every bank of a physical scratchpad range is on. -/
def Cluster.rangeOn (c : Cluster) (a n : Nat) : Bool := (spdWords a n).all fun w => c.bankOn (bankOf w)

/-- Bytes written to the banks of the stream's cluster, or the stream stops with cause 2 (R174). -/
def Chip.spdPut (ch : Chip) (k : Clock) (r st c a : Nat) (bytes : List Byte) (sub : Nat) : Chip :=
  if (ch.cl c).rangeOn a bytes.length then
    ch.modCl c fun x => ((x.writePhys sub a bytes (bytes.length + 1)).tearFronts a bytes.length).count 3 (ceilDiv bytes.length 32)
  else ch.stopStream k r st 2

/-- Bytes cut at the code words they go to: address and bytes of each. -/
def wordCuts (a : Nat) (bytes : List Byte) : Nat → List (Nat × List Byte)
  | 0 => []
  | fuel + 1 =>
    if bytes.isEmpty then []
    else let n := 32 - a % 32; (a % spdSize, bytes.take n) :: wordCuts (a + n) (bytes.drop n) fuel

/-- Stream bytes join the cluster's staging buffer, from which they reach the banks (R163). -/
def Chip.stage (ch : Chip) (r st : Nat) (h : Bool) (c a : Nat) (bytes : List Byte) (form : Nat) : Chip :=
  ch.modCl c fun x => { x with staged := x.staged ++ (wordCuts a bytes (bytes.length + 1)).map fun w =>
    ({ region := r, stream := st, half := h, addr := w.1, bytes := w.2, form := form } : Staged) }

/-- Whether the 16 KiB staging buffer has room for n bytes more (R163, R279). -/
def Cluster.stageRoom (c : Cluster) (n : Nat) : Bool := decide ((c.staged.map fun s => s.bytes.length).sum + n ≤ 16384)

/-- Whether an STN on a word is in flight: the stream engine and the fill and copy engine hold back a write to it (R162). -/
def Cluster.stnOn (c : Cluster) (w : Nat) : Bool :=
  c.flight.any fun f => match f.what with | .stn a _ => decide (a / 32 = w) | _ => false

/-- Whether a slot of a bank is held in this aclk: A 0, B 1, N 2, W 3 (R159). A parked cluster's schedule holds none. -/
def Cluster.slotHeld (c : Cluster) (kind b : Nat) : Bool := !c.parked && c.uses.contains (c.aclk, kind, b)

/-- The staged words that reach their banks in an aclk, in the order they came, one a bank, in banks whose slot W is open and not in `taken`,
and what stays. -/
def Cluster.serve (c : Cluster) : List Nat → List Staged → List Staged × List Staged
  | _, [] => ([], [])
  | taken, s :: t =>
    let b := bankOf (s.addr / 32)
    if taken.contains b || c.slotHeld 3 b || c.stnOn (s.addr / 32) then
      let r := c.serve (b :: taken) t
      (r.1, s :: r.2)
    else
      let r := c.serve (b :: taken) t
      (s :: r.1, r.2)

/-- The blocks that a byte range of a descriptor touches, with the bytes of each. -/
def blockParts (i n : Nat) : List (Nat × Nat) :=
  if n = 0 then [] else (List.range ((i + n - 1) / 4096 - i / 4096 + 1)).map fun j =>
    let b := i / 4096 + j
    (b, min (i + n) ((b + 1) * 4096) - max i (b * 4096))

/-- Inbound bytes of a half arrive: bytes of a substituted block are discarded (R239). -/
def Chip.landIn (ch : Chip) (k : Clock) (r st : Nat) (h : Bool) (i : Nat) (bytes : List Byte) : Chip :=
  let y := (ch.str r st).half h
  match (if y.eng then y.desc else none) with
  | none => ch
  | some d =>
    match d.pcid ch with
    | none => ch
    | some c =>
      let parts := (blockParts i bytes.length).filter fun b => b.1 ∉ y.substd
      let ch := parts.foldl (fun m b =>
        let lo := max i (b.1 * 4096)
        m.stage r st h c (y.spd d h lo) (slice bytes (lo - i) b.2) 0) ch
      if (ch.str r st).st ≠ .active then ch
      else
        let ch := ch.modStr r st fun x => x.modHalf h fun y =>
          { y with got := y.got + bytes.length, land := parts.foldl (fun m b => upd 0 m b.1 (· + b.2)) y.land }
        ch.halfCheck k r st h

/-! ### Fallback copies (R237 to R242) -/

/-- The bus code of a ternary weight (R94). -/
def busCode (w : Int) : Nat := if w = 1 then 1 else if w = -1 then 3 else 0

/-- Bits placed in rising order as bytes. -/
def packSlots (slotw : Nat) (codes : List Nat) : List Byte :=
  let per := 8 / (4 * 2 ^ slotw)
  if slotw = 2 then codes.flatMap fun c => toLe c 2
  else if per = 1 then codes.map (BitVec.ofNat 8)
  else pairUp codes

/-- The bytes of the block that a compact copy stands for, and its scale bytes (R238). -/
def fallbackBytes (slotw weights : Nat) (copy : List Byte) : List Byte × List Byte :=
  if slotw = 3 then (copy.take 4096, slice copy 4096 weights)
  else
    let n := 4096 * 8 / (4 * 2 ^ slotw)
    let code : Nat → Nat := fun i => if i < weights then busCode (ternBlock (slice copy (i / 32 * 7) 7) (i % 32)) else 0
    (packSlots slotw ((List.range n).map code), slice copy (weights / 32 * 7) (weights / 32))

/-- Whether a ternary byte above 242 of a compact copy is decoded (R51). -/
def fallbackBad (slotw weights : Nat) (copy : List Byte) : Bool :=
  decide (slotw ≠ 3) && (List.range weights).any fun i => decide (242 < (copy.getD (i / 32 * 7 + i % 32 / 5) 0).toNat)

/-- Bytes of a compact copy (R237). -/
def fallbackLen (slotw weights : Nat) : Nat := if slotw = 3 then 4096 + weights else weights / 32 * 8

/-- A read of data-page bytes for a substitution, page by page: none when it meets what stops the stream, or a page no read of which is issued
(R223, R229, R240). -/
def Chip.fallbackRead (ch : Chip) (k : Clock) (r st p dva n : Nat) : Chip × Option (List Byte) :=
  match (pagesOf dva n).findSome? fun g =>
    let a := max dva (g * 65536)
    match (ch.pt p).transFault a false with
    | some c => some (c, a)
    | none => if ((ch.pt p).pte g).fl then some (5, a) else none with
  | some f => (ch.streamFault k r st f.1 f.2, none)
  | none =>
    if (pagesOf dva n).any fun g => ch.suspectAt p (g * 65536) then (ch, none)
    else if (ch.firstLost p dva n false).isSome then ((ch.touchDva k p dva n).stopStream k r st 3, none)
    else (ch.touchDva k p dva n, some (ch.readDva p dva n))

def fbEntry (bs : List Byte) : FbEntry :=
  { kind := bitsAt (leAt bs 8 1) 0 2, slotw := bitsAt (leAt bs 8 1) 2 2, weights := leAt bs 10 2, patch := leAt bs 12 4,
    src := bitsAt (leAt bs 0 8) 0 48, spd := bitAt (leAt bs 0 8) 48 }

/-- Whether an entry of kind 1 patches a block. -/
def FbEntry.patches (e : FbEntry) (b : Nat) : Bool := decide (b * 4096 ≤ e.patch) && decide (e.patch < b * 4096 + 4096)

/-- The bytes of a compact copy that lies in the scratchpad; none when the stream stops (R174, R240). -/
def Chip.spdCopy (ch : Chip) (k : Clock) (r st c ctx : Nat) (e : FbEntry) : Chip × Option (List Byte) :=
  let n := fallbackLen e.slotw e.weights
  let ws := spdWords e.src n
  if !(ch.cl c).rangeOn e.src n then (ch.stopStream k r st 2, none)
  else if ws.any fun w => (ch.cl c).lostWord w then ((ch.eccReads k c ctx ws).stopStream k r st 3, none)
  else (ch.eccReads k c ctx ws, some (slice (ws.flatMap ((ch.cl c).read c)) (e.src % 32) n))

/-- Bytes of a stream range written into the half that holds them, with their words flagged (R242) under a form of Cluster.subst: through
the staging buffer, or by a refill at once. -/
def Chip.subWrite (ch : Chip) (k : Clock) (r st c : Nat) (d : Desc) (h : Bool) (form i : Nat) (bytes : List Byte) (now : Bool) : Chip :=
  let y := (ch.str r st).half h
  let lo := max i y.start
  let hi := min (i + bytes.length) (y.start + y.want)
  if lo < hi then
    (if now then ch.spdPut k r st c (y.spd d h lo) (slice bytes (lo - i) (hi - lo)) form
     else ch.stage r st h c (y.spd d h lo) (slice bytes (lo - i) (hi - lo)) form)
  else ch

/-- Bytes of a block that have not reached the banks are discarded (R239). -/
def Chip.unstage (ch : Chip) (r st c : Nat) (h : Bool) (a : Nat) : Chip :=
  ch.modCl c fun x => { x with staged := x.staged.filter fun s =>
    !(decide (s.region = r) && decide (s.stream = st) && decide (s.half = h) && decide (s.form = 0) && decide (a ≤ s.addr) && decide (s.addr < a + 4096)) }

/-- One block of kind 1 substituted with its compact copy (R238, R242). -/
def Chip.substitute (ch : Chip) (k : Clock) (r st : Nat) (h : Bool) (b : Nat) (e : FbEntry) (copy : List Byte) (now : Bool) : Chip :=
  let y := (ch.str r st).half h
  match y.desc with
  | none => ch
  | some d =>
    match d.pcid ch with
    | none => ch
    | some c =>
      let fb := fallbackBytes e.slotw e.weights copy
      let inHalf := e.patch = 0xFFFFFFFF ∨ y.start ≤ e.patch ∧ e.patch + fb.2.length ≤ y.start + y.want
      let form := if ¬inHalf then 3 else if e.slotw = 3 then 2 else 1
      let ch := (ch.unstage r st c h (y.spd d h (b * 4096))).subWrite k r st c d h form (b * 4096) fb.1 now
      let ch := if e.patch = 0xFFFFFFFF then ch else ch.subWrite k r st c d h form e.patch fb.2 now
      let ch := if fallbackBad e.slotw e.weights copy then ch.modCl c fun x => x.flag { ternBad := true } else ch
      if (ch.str r st).st ≠ .active then ch
      else ch.modStr r st fun x =>
        { (x.modHalf h fun y => { y with substd := y.substd ++ [b] }) with fidelity := satTo 0xFFFFFFFF (x.fidelity + 1), descFb := x.descFb + 1 }

/-! ### Substitutions of the stream engine (R239 to R241) -/

/-- A missing block waits for its fallback table entry to be read. -/
def Stream.askSub (x : Stream) (h : Bool) (b : Nat) (via : Option Nat) (due : Bool) (ranges : List (Nat × Nat)) : Stream :=
  match (x.half h).desc with
  | none => x
  | some d =>
    if b ∈ (x.half h).substd then x
    else if x.subs.any fun j => decide (j.half = h) && decide (j.block = b) && decide (j.via = via) then
      { x with subs := x.subs.map fun j => if j.half = h ∧ j.block = b ∧ j.via = via then { j with due := j.due || due, ranges := j.ranges ++ ranges } else j }
    else { x with subs := x.subs ++ [{ half := h, block := b, via := via, due := due, ranges := ranges, entry := none, dva := (d.fallback + 16 * b) % 2 ^ 48, len := 16,
                                       asked := 0, data := [], got := 0 }] }

/-- A block known to be missing for a cause other than the deadline (R239, R246): on a weight stream its fallback entry is read; any other
stream stops with the cause given. -/
def Chip.blockMissing (ch : Chip) (k : Clock) (r st : Nat) (h : Bool) (b stopCause : Nat) (ranges : List (Nat × Nat)) : Chip :=
  match (if ((ch.str r st).half h).eng then ((ch.str r st).half h).desc else none) with
  | none => ch
  | some d => if d.fallback = 0 then ch.stopStream k r st stopCause else ch.modStr r st fun x => x.askSub h b none false ranges

/-- The oldest substitution is done with; those of blocks it made whole need none. -/
def Stream.popSub (x : Stream) : Stream := { x with subs := (x.subs.drop 1).dropWhile fun j => decide (j.block ∈ (x.half j.half).substd) }

/-- The oldest substitution ends with its block still missing: what its pages withheld is asked for again, and a half past its deadline is
late (R239). -/
def Chip.leaveSub (ch : Chip) (k : Clock) (r st : Nat) (j : SubJob) : Chip :=
  let y := (ch.str r st).half j.half
  let ch := ch.modStr r st fun x => (x.modHalf j.half fun y => { y with again := y.again ++ j.ranges, lateSent := y.lateSent || j.due }).popSub
  match y.desc with
  | some d => if j.due && !y.lateSent then ch.streamLate k r st d j.half else ch
  | none => ch

/-- The oldest substitution has the bytes it asked for: a table entry says what comes next, a compact copy is written (R238). -/
def Chip.subStep (ch : Chip) (k : Clock) (r st : Nat) : Chip :=
  match (ch.str r st).subs with
  | [] => ch
  | j :: _ =>
    if j.got < j.len then ch
    else
      let y := (ch.str r st).half j.half
      let pop (c : Chip) : Chip := if (c.str r st).st ≠ .active then c else (c.modStr r st Stream.popSub).halfCheck k r st j.half
      match j.entry with
      | some e => pop (ch.substitute k r st j.half j.block e (j.data.take j.len) false)
      | none =>
        let e := fbEntry j.data
        let d := y.desc.getD {}
        if e.kind = 1 && j.via.all e.patches then
          if e.spd then
            match d.pcid ch with
            | none => ch
            | some c =>
              (match ch.spdCopy k r st c d.ctx e with
               | (ch', none) => ch'
               | (ch', some copy) => pop (ch'.substitute k r st j.half j.block e copy false))
          else if fallbackLen e.slotw e.weights = 0 then pop (ch.substitute k r st j.half j.block e [] false)
          else ch.modStr r st fun x =>
            { x with subs := { j with entry := some e, dva := e.src, len := fallbackLen e.slotw e.weights, asked := 0, data := [], got := 0 } :: x.subs.drop 1 }
        else if e.kind = 2 && j.via.isNone then
          let ch := ch.modStr r st fun x =>
            let x := (x.modHalf j.half fun y => { y with substd := y.substd ++ [j.block] }).popSub
            ((y.blocks.map (·.1)).filter (· ≠ j.block)).foldl (fun x b => x.askSub j.half b (some j.block) false []) x
          ch.halfCheck k r st j.half
        else if j.via.isSome then pop ch
        else ch.leaveSub k r st j

/-- Bytes put at their place in a list being filled. -/
def placeAt (all : List Byte) (off : Nat) (bytes : List Byte) : List Byte :=
  (all ++ zeros (off - all.length)).take off ++ bytes ++ all.drop (off + bytes.length)

/-- Bytes of the oldest substitution arrive; an uncorrectable read stops the stream (R240). -/
def Chip.subLand (ch : Chip) (k : Clock) (r st dva : Nat) (data : Option (List Byte)) : Chip :=
  match data with
  | none => ch.stopStream k r st 3
  | some bytes =>
    (ch.modStr r st fun x => match x.subs with
      | j :: t => { x with subs := { j with data := placeAt j.data (dva - j.dva) bytes, got := j.got + bytes.length } :: t }
      | [] => x).subStep k r st

/-! ### Substitutions of a refill (R463) -/

/-- A block that a refill finds missing is substituted at once from what a read delivers; whether it was. -/
def Chip.substNow (ch : Chip) (k : Clock) (r st : Nat) (h : Bool) (b : Nat) (via : Option Nat) : Chip × Bool :=
  match ((ch.str r st).half h).desc with
  | none => (ch, false)
  | some d =>
    let p := ch.strOwner r st
    match ch.fallbackRead k r st p ((d.fallback + 16 * b) % 2 ^ 48) 16 with
    | (c1, none) => (c1, false)
    | (c1, some bs) =>
      let e := fbEntry bs
      if e.kind = 1 && via.all e.patches then
        (match (if e.spd then (match d.pcid c1 with | some c => c1.spdCopy k r st c d.ctx e | none => (c1, none))
                else c1.fallbackRead k r st p e.src (fallbackLen e.slotw e.weights)) with
         | (c2, none) => (c2, false)
         | (c2, some copy) => (c2.substitute k r st h b e copy true, true))
      else (c1, decide (e.kind = 2) && via.isNone)

/-- A block a refill finds missing, with every block whose patch lies in it when it is of kind 2 (R238). -/
def Chip.substAll (ch : Chip) (k : Clock) (r st : Nat) (h : Bool) (b : Nat) : Chip × Bool :=
  let y := (ch.str r st).half h
  let x := ch.substNow k r st h b none
  if !x.2 || b ∈ ((x.1.str r st).half h).substd then x
  else
    let c := x.1.modStr r st fun z => z.modHalf h fun y => { y with substd := y.substd ++ [b] }
    (((y.blocks.map (·.1)).filter (· ≠ b)).foldl (fun m i => if i ∈ ((m.str r st).half h).substd then m else (m.substNow k r st h i (some b)).1) c, true)

end Sys2Proof.Machine
end

