-- ==== Sys2Proof/Machine/Market.lean ====
section
/-! DEFINITION. Requests of streams: how they are made, translated, granted wheel positions and completed, and the codec units on their
way (spec/06_streams_barriers.md R198 to R206; spec/07_tiers_translation.md R221 to R223, R229, R233; spec/09_block_codec.md R276 to
R285; spec/14_fabric.md R415). -/

namespace Sys2Proof.Machine

/-! ### Lane buffers (R278) -/

def Cluster.lane (c : Cluster) (l : Nat) : Lane := look {} c.lanes l

/-- The lowest-numbered lane with a free buffer. -/
def Cluster.freeLane (c : Cluster) : Option Nat := (List.range 8).find? fun l => decide ((c.lane l).bufs.length < 2)

def Cluster.bufs (c : Cluster) : List LaneBuf := (List.range 8).flatMap fun l => (c.lane l).bufs

/-- Changes the buffers of one block. -/
def Cluster.modBuf (c : Cluster) (r st b : Nat) (f : LaneBuf → LaneBuf) : Cluster :=
  { c with lanes := (List.range 8).foldl (fun m l => upd {} m l fun y => { y with bufs := y.bufs.map fun x => if x.region = r ∧ x.stream = st ∧ x.block = b then f x else x }) c.lanes }

def Cluster.freeBuf (c : Cluster) (r st b : Nat) : Cluster :=
  { c with lanes := (List.range 8).foldl (fun m l => upd {} m l fun y => { y with bufs := y.bufs.filter fun x => !(decide (x.region = r) && decide (x.stream = st) && decide (x.block = b)) }) c.lanes }

/-- Whether a rated expanding stream of the cluster has a block waiting for a buffer (R278). -/
def Chip.ratedWaiting (ch : Chip) (r lcid : Nat) : Bool :=
  (List.range 64).any fun n =>
    let x := ch.str r n
    match x.active with
    | some d => decide (d.codec = 1) && decide (d.rate ≠ 0) && decide (d.lcid = lcid) && [false, true].any fun h => (x.half h).eng && (x.half h).desc.isSome && decide ((x.half h).issued < (x.half h).want)
    | none => false

/-! ### The order of the market (R198, R200) -/

/-- An offer of a region: its dry instant, region, the arm order of a background stream, stream. -/
structure Offer where
  dry : Option Nat
  region : Nat
  armed : Nat
  stream : Nat
  walk : Bool
  deriving DecidableEq, Repr

/-- Whether offer a goes ahead of offer b (R200). -/
def Offer.before (a b : Offer) : Bool :=
  match a.dry, b.dry with
  | some x, some y => decide (x < y) || (decide (x = y) && (decide (a.region < b.region) || (decide (a.region = b.region) && decide (a.stream < b.stream))))
  | some _, none => true
  | none, some _ => false
  | none, none => decide (a.region < b.region) || (decide (a.region = b.region) && (decide (a.armed < b.armed) || (decide (a.armed = b.armed) && decide (a.stream < b.stream))))

def bestOffer : List Offer → Option Offer
  | [] => none
  | o :: t => match bestOffer t with | some b => if b.before o then some b else some o | none => some o

/-- A stream as the market ranks it. -/
def Stream.offer (x : Stream) (r st : Nat) : Offer :=
  { dry := x.dry, region := r, armed := match x.active with | some d => d.armed | none => 0, stream := st, walk := false }

def insOffer (o : Offer) : List Offer → List Offer
  | [] => [o]
  | b :: t => if o.before b then o :: b :: t else b :: insOffer o t

/-- The active streams of a partition in a region, in market order. -/
def Chip.ranked (ch : Chip) (p r : Nat) : List Nat :=
  ((((List.range 64).filter fun st => (ch.pt p).ownsStream r st && decide ((ch.str r st).st = .active)).map fun st => (ch.str r st).offer r st).foldr insOffer []).map (·.stream)

/-! ### Making a request (R199, R276) -/

/-- A request not translated yet. -/
def rawReq (write : Bool) (kind : ReqKind) (half : Bool) (idx dva len : Nat) (data : List Byte) (credit : Nat) : StreamReq :=
  { write := write, kind := kind, half := half, idx := idx, dva := dva, len := len, data := data, credit := credit, walking := false, phys := none,
    flash := none, lidx := none, window := none, await := 0, remoteLeft := 0, left := len, drop := false }

/-- Whether a request has all its positions. -/
def StreamReq.granted (q : StreamReq) : Bool := decide (q.remoteLeft = 0) && decide (q.left = 0) && !q.walking

/-- Whether a write holds all its bytes: those of an outbound stream are read from the scratchpad (R163). -/
def StreamReq.loaded (q : StreamReq) : Bool := !q.write || decide (q.len ≤ q.data.length)

/-- The halves of a stream that a descriptor fills or drains, in the order of their bytes. -/
def Stream.engHalves (x : Stream) : List Bool :=
  let l := [false, true].filter fun h => (x.half h).eng && (x.half h).desc.isSome
  if (x.h1.start < x.h0.start) then l.reverse else l

/-- The head read of a block's run, in a lane buffer reserved for the block: 64 bytes, cut at a 4 KiB boundary (R199, R276, R278). -/
def Chip.headReq (ch : Chip) (r st c l : Nat) (h : Bool) (d : Desc) (b : Nat) : StreamReq × Chip :=
  let a := d.addr (b * d.run)
  let n := cut4k a 64
  let buf : LaneBuf := { region := r, stream := st, half := h, block := b, dva := a, bytes := [], asked := n, got := 0, need := 64, headBack := false, complete := none, failed := false }
  (rawReq false .head h b a n [] 0, ch.modCl c fun z => { z with lanes := upd {} z.lanes l fun y => { y with bufs := y.bufs ++ [buf] } })

/-- A range of a missing block that may be asked for again now: its half, index and length (R239). -/
def Chip.againNow (ch : Chip) (r st : Nat) : Option (Bool × Nat × Nat) :=
  let x := ch.str r st
  x.engHalves.findSome? fun h =>
    match (x.half h).desc with
    | none => none
    | some d => ((x.half h).again.find? fun a => !(ch.suspectAt (ch.strOwner r st) (d.addr (if d.codec = 1 then a.1 / 4096 * d.run else a.1)))).map fun a => (h, a.1, a.2)

/-- The next request that fills a half: what was missing, then what has not been asked for. -/
def Chip.fillReq (ch : Chip) (r st c : Nat) : Option (StreamReq × Chip) :=
  let x := ch.str r st
  let again := ch.againNow r st
  match (again.map (·.1)).or (x.engHalves.find? fun h => decide ((x.half h).issued < (x.half h).want)) with
  | none => none
  | some h =>
    let y := x.half h
    match y.desc with
    | none => none
    | some d =>
      let i := match again with | some a => a.2.1 | none => y.start + y.issued
      if d.codec = 1 then
        match (ch.cl c).freeLane with
        | none => none
        | some l =>
          if d.rate = 0 && ch.ratedWaiting r d.lcid then none
          else
            let ch := ch.modStr r st fun x => x.modHalf h fun y => if again.isSome then { y with again := y.again.filter fun a => a.1 ≠ i } else { y with issued := y.issued + 4096 }
            some (ch.headReq r st c l h d (i / 4096))
      else
        let a := d.addr i
        let n := match again with | some a => a.2.2 | none => min (cut4k a (d.runLeft i)) (y.want - y.issued)
        some (rawReq (decide (d.dir = 1)) .data h i a n [] 0,
          ch.modStr r st fun x => x.modHalf h fun y => if again.isSome then { y with again := y.again.filter fun a => a ≠ (i, n) } else { y with issued := y.issued + n })

/-- The next request of a stream with what making it changes; none when the stream is not eligible. -/
def Chip.newReq (ch : Chip) (r st : Nat) : Option (StreamReq × Chip) :=
  let x := ch.str r st
  match x.active with
  | none => none
  | some d0 =>
    if x.st ≠ .active || 4 ≤ x.reqs.length then none
    else match x.pieces, x.subs with
    | pc :: rest, _ =>
      let n := cut4k pc.dva pc.bytes.length
      let whole := decide (pc.bytes.length ≤ n)
      some (rawReq true .data pc.half 0 pc.dva n (pc.bytes.take n) (if whole then pc.credit else 0),
        ch.modStr r st fun x => { x with pieces := if whole then rest else { pc with dva := pc.dva + n, bytes := pc.bytes.drop n } :: rest })
    | [], j :: t =>
      if j.asked < j.len then
        let n := cut4k (j.dva + j.asked) (j.len - j.asked)
        some (rawReq false .subst j.half j.block (j.dva + j.asked) n [] 0, ch.modStr r st fun x => { x with subs := { j with asked := j.asked + n } :: t })
      else (d0.pcid ch).bind fun c => ch.fillReq r st c
    | [], [] =>
      if d0.dir = 2 then
        if d0.length ≤ x.handed then none
        else
          let a := d0.addr x.handed
          let n := min (cut4k a (d0.runLeft x.handed)) (d0.length - x.handed)
          some (rawReq false .data false x.handed a n [] 0, ch.modStr r st fun x => { x with handed := x.handed + n })
      else
        match d0.pcid ch with
        | none => none
        | some c =>
          match (ch.cl c).bufs.find? fun b => decide (b.region = r) && decide (b.stream = st) && decide (b.asked < b.need) with
          | some b =>
            let n := cut4k (b.dva + b.asked) (b.need - b.asked)
            some (rawReq false (if b.headBack then .body else .head) b.half b.block (b.dva + b.asked) n [] 0,
              ch.modCl c fun y => y.modBuf r st b.block fun z => { z with asked := z.asked + n })
          | none => if d0.dir = 1 && d0.codec = 2 then none else ch.fillReq r st c

/-! ### Translation (R221 to R223, R229, R233, R415) -/

def Region.hit (g : Region) (p page : Nat) : Bool := g.tlb.any fun t => decide (t.part = p) && decide (t.page = (if t.large then page / 32 * 32 else page))

/-- A window of a job of the partition that holds a DVA: job and window index. -/
def Chip.windowOf (ch : Chip) (p dva : Nat) : Option (Nat × Nat) :=
  ch.fabric.jobs.findSome? fun e =>
    if e.2.valid && decide (e.2.part = p) then
      ((List.range e.2.windows.length).find? fun i => match e.2.windows[i]? with | some w => decide (w.dva ≤ dva) && decide (dva < w.dva + w.len) | none => false).map fun i => (e.2.job, i)
    else none

/-- Changes the request being made: the last of the stream's. -/
def Chip.modLast (ch : Chip) (r st : Nat) (f : StreamReq → StreamReq) : Chip :=
  ch.modStr r st fun x => { x with reqs := match x.reqs.reverse with | q :: t => (f q :: t).reverse | [] => [] }

def Chip.popLast (ch : Chip) (r st : Nat) : Chip := ch.modStr r st fun x => { x with reqs := x.reqs.dropLast }

/-- The page a walk for a page looks up: the first of its large page (R218). -/
def Chip.walkPage (ch : Chip) (p page : Nat) : Nat := if ((ch.pt p).pte page).lg then page / 32 * 32 else page

/-- Whether a read of a region reaches a stack on another die. -/
def remoteRead (r : Nat) : List Nat → Bool
  | [] => false
  | a :: _ => decide (stackOf a ≠ dieOfRegion r)

/-- Starts the walk a request needs, unless four are in flight or the page's is: one read of the level-1 entry unless the walker's cache holds
it, and one of the level-2 entry (R222). -/
def Chip.startWalk (ch : Chip) (r st p page : Nat) : Chip :=
  let g := ch.rg r
  let page := ch.walkPage p page
  if g.walks.any fun w => decide (w.part = p) && decide (w.page = page) then ch
  else if 4 ≤ g.walks.length then ch
  else
    let e := ch.entryAt p page
    let reads := (if g.l1cache.contains (p, page / 16384) then [] else [e.1]) ++ e.2.toList
    ch.modRg r fun g => { g with walks := g.walks ++ [{ part := p, page := page, stream := st, reads := reads, remote := remoteRead r reads, addrs := reads }] }

/-- A request that is not issued, its page being suspect or ABSENT: of a weight stream it makes its blocks missing; of any other the stream
stalls until the page is restored (R229, R239, R306). -/
def Chip.withhold (ch : Chip) (k : Clock) (r st : Nat) (q : StreamReq) : Chip :=
  match (ch.str r st).active, q.kind with
  | none, _ => ch.popLast r st
  | some _, .subst => match (ch.str r st).subs with | j :: _ => (ch.popLast r st).leaveSub k r st j | [] => ch.popLast r st
  | some d, kind =>
    if d.dir ≠ 0 || d.fallback = 0 then ch.modLast r st fun q => { q with walking := true }
    else if kind = .data then
      (blockParts q.idx q.len).foldl (fun c b => c.blockMissing k r st q.half b.1 3 [(max q.idx (b.1 * 4096), b.2)]) (ch.popLast r st)
    else
      let ch := ch.popLast r st
      (match d.pcid ch with | some c => ch.modCl c fun y => y.freeBuf r st q.idx | none => ch).blockMissing k r st q.half q.idx 4 [(q.idx * 4096, 4096)]

/-- The translated request takes its place, or its stream learns what it met (R223, R229, R240). -/
def Chip.resolve (ch : Chip) (k : Clock) (r st : Nat) (q : StreamReq) : Chip :=
  let p := ch.strOwner r st
  match (ch.pt p).transFault q.dva q.write with
  | some cause => (ch.popLast r st).streamFault k r st cause q.dva
  | none =>
    let e := (ch.pt p).pte (q.dva / 65536)
    let l := ch.led e.lidx
    if q.kind = .subst && e.fl then (ch.popLast r st).streamFault k r st 5 q.dva
    else if ch.suspectAt p q.dva then ch.withhold k r st q
    else
      let ch := if e.wt then ch.modLed e.lidx fun x => { x with inflight := x.inflight + 1 } else ch
      let lidx := if e.wt then some e.lidx else none
      if e.fl then
        ch.modLast r st fun q => { q with walking := false, lidx := lidx, flash := l.slot.map fun s => (s, q.dva % 65536 / 4096), left := 0, remoteLeft := q.len }
      else
        let a := e.phys q.dva
        ch.modLast r st fun q => { q with walking := false, lidx := lidx, phys := some a, left := q.len, remoteLeft := if stackOf a = dieOfRegion r then 0 else q.len }

/-- The stream's request being made is translated as far as the region's cache goes. -/
def Chip.translate (ch : Chip) (k : Clock) (r st : Nat) (q : StreamReq) : Chip :=
  let p := ch.strOwner r st
  match ch.windowOf p q.dva with
  | some w => ch.modLast r st fun q => { q with walking := false, window := some w, left := 0, remoteLeft := q.len, await := q.len }
  | none =>
    if (ch.rg r).hit p (q.dva / 65536) then ch.resolve k r st q
    else (ch.modLast r st fun q => { q with walking := true }).startWalk r st p (q.dva / 65536)

/-- A new request joins the stream's. -/
def Chip.addReq (ch : Chip) (k : Clock) (r st : Nat) : Chip :=
  match ch.newReq r st with
  | none => ch
  | some (q, ch') => (ch'.modStr r st fun x => { x with reqs := x.reqs ++ [q] }).translate k r st q

/-- Makes the stream's next request, unless one is still being made. -/
def Chip.makeReq (ch : Chip) (k : Clock) (r st : Nat) : Chip :=
  match (ch.str r st).reqs.getLast? with
  | some q => if q.walking then ch.translate k r st q else if q.granted then ch.addReq k r st else ch
  | none => ch.addReq k r st

/-- Makes the requests of every stream of a partition, in market order, in which lane buffers go to blocks (R278). -/
def Chip.makeReqs (ch : Chip) (k : Clock) (p : Nat) : Chip :=
  (List.range 16).foldl (fun c r => (c.ranked p r).foldl (fun c st => c.makeReq k r st) c) ch

/-! ### Wheels (R200, R201, R204, R205) -/

/-- Wheels: stack s is wheel s; the remote wheel of die d is 4 + 2d toward the H-die and 5 + 2d toward the die. -/
def wheelKey (w pos : Nat) : Nat := w * 64 + pos

def Chip.wheelAt (ch : Chip) (w pos : Nat) : WheelPos := ch.wp (wheelKey w pos)

/-- Whether a pseudo-channel's maintenance window of 200 ns is open (R249). -/
def Stack.inWindow (x : Stack) (k : Clock) (pch : Nat) : Bool :=
  let t := look 0 x.windows pch
  decide (0 < t) && decide (k.timebase < t - 1 + 200)

/-- Whether a stack serves requests at all: not through a point change, not while it refreshes itself (R255, R257). -/
def Stack.serves (x : Stack) : Bool := x.changing.isNone && !x.selfRefresh

/-- Whether an access to a physical address is not served now: nor in its pseudo-channel's maintenance window (R249). -/
def Chip.shut (ch : Chip) (k : Clock) (a : Nat) : Bool := let x := ch.sk (stackOf a); !x.serves || x.inWindow k (pchOf a)

/-- Whether a request needs a position of a wheel served as read or write. -/
def StreamReq.needs (q : StreamReq) (shut : Nat → Bool) (r w : Nat) (writePos : Bool) : Bool :=
  if q.walking || !q.loaded then false
  else if 0 < q.remoteLeft then decide (w = 4 + 2 * dieOfRegion r + optBool (!q.write))
  else decide (0 < q.left) && decide (w < 4) && decide (q.write = writePos) &&
    (match q.phys with | some a => decide (stackOf a = w) && !shut (a + (q.len - q.left)) | none => false)

/-- Whether a walk needs a position of a wheel: for each entry a read position of the stack that holds the table, and before it a remote one
when that stack is on another die (R222). -/
def Walk.needs (x : Walk) (shut : Nat → Bool) (r w : Nat) (writePos : Bool) : Bool :=
  if x.remote then decide (w = 5 + 2 * dieOfRegion r)
  else !writePos && (match x.reads with | a :: _ => decide (w = stackOf a) && !shut a | [] => false)

/-- Whether an engine's request needs a position of a wheel served as read or write (R319). -/
def EngReq.needs (q : EngReq) (shut : Nat → Bool) (r w : Nat) (writePos : Bool) : Bool :=
  if 0 < q.remoteLeft then decide (w = 4 + 2 * dieOfRegion r + optBool (!q.write))
  else decide (0 < q.left) && decide (q.write = writePos) && (match q.phys with | some a => decide (stackOf a = w) && !shut (a + (q.len - q.left)) | none => false)

def EngReq.take (q : EngReq) : EngReq := if 0 < q.remoteLeft then { q with remoteLeft := q.remoteLeft - 256 } else { q with left := q.left - 256 }

/-- The requests of an engine that are in flight: at most 16 (R319). -/
def Engine.inFlight (g : Engine) : List EngReq := match g.work with | some w => w.reqs.take 16 | none => []

/-- An engine's d: the instant its task became ready plus the task's due time, infinity with due 0 (R319). -/
def Engine.dry (g : Engine) : Option Nat := g.work.bind fun w => if w.task.due = 0 then none else some ((w.ready + w.task.due) * dryUnit)

/-- The number under which a region's engine offers, after the region's streams. -/
def engOffer : Nat := 64

/-- The offer of a region's engine on a wheel (R319). -/
def Chip.engOffers (ch : Chip) (k : Clock) (p r w : Nat) (writePos : Bool) : List Offer :=
  let g := (ch.rg r).eng
  if g.part = some p && g.inFlight.any (fun q => q.needs (ch.shut k) r w writePos) then
    [{ dry := g.dry, region := r, armed := 0, stream := engOffer, walk := false }] else []

/-- The offers of a partition on a wheel. -/
def Chip.offers (ch : Chip) (k : Clock) (p w : Nat) (writePos : Bool) : List Offer :=
  (List.range 16).flatMap fun r =>
    ((List.range 64).filterMap fun st =>
      let x := ch.str r st
      if (ch.pt p).ownsStream r st && x.reqs.any (fun q => q.needs (ch.shut k) r w writePos) then
        some (x.offer r st) else none) ++
    ((ch.rg r).walks.filterMap fun x =>
      if decide (x.part = p) && x.needs (ch.shut k) r w writePos then some { dry := (ch.str r x.stream).dry, region := r, armed := 0, stream := x.stream, walk := true } else none) ++
    ch.engOffers k p r w writePos

/-- The message of a window request whose remote positions are taken (R415). -/
def Chip.sendWindow (ch : Chip) (k : Clock) (r st : Nat) (q : StreamReq) : Chip :=
  match q.window.bind fun w => (ch.jobSlot w.1).bind fun j => (j.2.windows[w.2]?).map fun x => (j.2, x) with
  | none => ch
  | some (j, w) =>
    let msg := flowMsg (if q.write then 3 else 1) r st (w.rdva + (q.dva - w.dva)) q.len q.data
    match ch.flowSend k j w.dev (streamFlow r st) false msg with
    | none => ch.stopStream k r st 1
    | some (n, ch') => ch'.modStr r st fun x => { x with reqs := x.reqs.map fun y => if y = q then { y with await := if q.write then n + 1 else q.len } else y }

/-- One position's 256 bytes for a stream's request. -/
def StreamReq.take (q : StreamReq) : StreamReq :=
  if 0 < q.remoteLeft then { q with remoteLeft := q.remoteLeft - 256 } else { q with left := q.left - 256 }

def Walk.take (r : Nat) (x : Walk) : Walk :=
  if x.remote then { x with remote := false } else { x with reads := x.reads.drop 1, remote := remoteRead r (x.reads.drop 1) }

/-- A position granted to an offer. -/
def Chip.grant (ch : Chip) (k : Clock) (w : Nat) (writePos : Bool) (o : Offer) : Chip :=
  if o.walk then
    ch.modRg o.region fun g => { g with walks := takeFirst (fun x => decide (x.stream = o.stream) && x.needs (ch.shut k) o.region w writePos) (Walk.take o.region) g.walks }
  else if o.stream = engOffer then
    ch.modEng o.region fun g => { g with work := g.work.map fun x =>
      { x with reqs := (takeFirst (fun q => q.needs (ch.shut k) o.region w writePos) EngReq.take x.reqs).filter fun q => decide (0 < q.remoteLeft) || decide (0 < q.left) } }
  else
    let x := ch.str o.region o.stream
    match x.reqs.find? fun q => q.needs (ch.shut k) o.region w writePos with
    | none => ch
    | some q =>
      let ch := ch.modStr o.region o.stream fun x => { x with reqs := takeFirst (fun q => q.needs (ch.shut k) o.region w writePos) StreamReq.take x.reqs }
      if q.window.isSome && q.take.remoteLeft = 0 then ch.sendWindow k o.region o.stream q.take else ch

/-- Whether a partition lends its positions of a wheel, and whether one borrows on its kind of wheel (R205, R206). -/
def Partition.lends (p : Partition) (w : Nat) (writePos : Bool) : Bool :=
  let reg := if w < 4 then (if writePos then p.awnWr else p.awnRd) else p.awnRm
  let i := if w < 4 then w else (w - 4) / 2
  reg.toNat / 2 ^ (8 * i + 7) % 2 = 1

def Partition.borrows (p : Partition) (w : Nat) (writePos : Bool) : Bool :=
  if w < 4 then (if writePos then p.borrow.getLsbD 1 else p.borrow.getLsbD 0) else p.borrow.getLsbD 2

/-- A wheel position comes up: its owner's best offer takes it, else a borrower's, in ascending order after the owner; else it is idle
(R200, R205). -/
def Chip.wheelPosition (ch : Chip) (k : Clock) (w pos : Nat) : Chip :=
  let x := ch.wheelAt w pos
  match x.owner with
  | none => ch
  | some p =>
    let ch := ch.makeReqs k p
    match bestOffer (ch.offers k p w x.write) with
    | some o => ch.grant k w x.write o
    | none =>
      if !(ch.pt p).lends w x.write then ch
      else
        let bs := ((List.range 7).map fun i => (p + 1 + i) % 8).filter fun b => (ch.pt b).valid && (ch.pt b).borrows w x.write
        let ch := bs.foldl (fun c b => c.makeReqs k b) ch
        match bs.findSome? fun b => bestOffer (ch.offers k b w x.write) with
        | some o => ch.grant k w x.write o
        | none => ch

/-! ### Walks (R222) -/

/-- A walk's translation enters one of the partition's ways of the set, in place of one of its own entries when all are taken; which goes is
the device's choice, the oldest here (R221). -/
def Region.fillTlb (g : Region) (p page : Nat) (large : Bool) (base ways : Nat) : Region :=
  let key := if large then page / 32 * 32 else page
  let set := (if large then page / 32 else page) % 64
  let mine := g.tlb.filter fun t => decide (t.set = set) && decide (t.part = p)
  let way := match ((List.range ways).map (base + ·)).find? fun w => mine.all fun t => t.way ≠ w with
    | some w => w
    | none => match mine with | v :: _ => v.way | [] => base
  { g with tlb := (g.tlb.filter fun t => !(decide (t.set = set) && decide (t.part = p) && (decide (t.way = way) || decide (t.page = key)))) ++
                    [{ set := set, way := way, part := p, page := key, large := large }],
           l1cache := if g.l1cache.contains (p, page / 16384) then g.l1cache else (if g.l1cache.length < 64 then g.l1cache else g.l1cache.drop 1) ++ [(p, page / 16384)] }

/-- The streams of a partition whose request being made waits for the walk of a page. -/
def Chip.waitWalk (ch : Chip) (r p page : Nat) : List (Nat × StreamReq) :=
  (List.range 64).filterMap fun n =>
    match (ch.str r n).reqs.getLast? with
    | some q => if q.walking && decide (ch.walkPage p (q.dva / 65536) = page) && (ch.pt p).ownsStream r n && decide ((ch.str r n).st = .active) then some (n, q) else none
    | none => none

/-- A walk completes: its reads are counted as any read, and one that is lost stops its streams with cause 1 (R246). Else the translation is
cached and its requests go on; a walk that finds no valid entry caches nothing, and its streams stop (R222, R223). -/
def Chip.walkDone (ch : Chip) (k : Clock) (r st : Nat) : Chip :=
  match (ch.rg r).walks.find? fun w => decide (w.stream = st) && w.reads.isEmpty with
  | none => ch
  | some w =>
    let e := (ch.pt w.part).pte w.page
    let lost := w.addrs.any ch.lostAt
    let ch := w.addrs.foldl (fun c a => c.touchPhys k (a / 64 * 64) 64) (ch.modRg r fun g => { g with walks := g.walks.filter (· ≠ w) })
    let ch := if e.v && !lost then ch.modRg r fun g => g.fillTlb w.part w.page e.lg (look 0 (ch.pt w.part).wayBase r) (max 1 (look 0 (ch.pt w.part).ways r)) else ch
    (ch.waitWalk r w.part w.page).foldl (fun c x => if lost then c.stopStream k r x.1 1 else c.resolve k r x.1 { x.2 with walking := false }) ch

/-! ### A request's data (R190, R191, R239, R276) -/

/-- The lane buffer of an expanding stream's block takes head or body bytes at their place; the head says how much the block needs (R276,
R278). -/
def Chip.laneBytes (ch : Chip) (r st : Nat) (d : Desc) (b dva : Nat) (bytes : List Byte) : Chip :=
  match d.pcid ch with
  | none => ch
  | some c =>
    let t := (ch.cl c).aclk
    ch.modCl c fun y => y.modBuf r st b fun z =>
      let all := placeAt z.bytes (dva - z.dva) bytes
      let got := z.got + bytes.length
      let need := if z.headBack || got < 64 then z.need
        else
          let s := look {} (ch.cl c).codec (hdrSlot all)
          if (headerCheck all d.run (if s.valid then some s.image else none)).isSome then z.need else max 64 (32 + hdrCodedLen all)
      { z with bytes := all, got := got, headBack := z.headBack || decide (64 ≤ got), need := need, complete := if need ≤ got then some t else none }

/-- The bytes of a read request, or none when a word of them is lost. -/
def Chip.reqBytes (ch : Chip) (q : StreamReq) : Option (List Byte) :=
  match q.window, q.phys with
  | some _, _ => some q.data
  | none, some a => if ch.lostPhys a q.len then none else some (ch.readPhys a q.len)
  | none, none => some q.data

/-- A read request's data reaches its destination. -/
def Chip.landRead (ch : Chip) (k : Clock) (r st : Nat) (q : StreamReq) (data : Option (List Byte)) : Chip :=
  match (ch.str r st).active with
  | none => ch
  | some d =>
    if d.dir = 2 then
      match data with
      | none => ch.stopStream k r st 3
      | some bs => ch.modStr r st fun x => { x with pieces := x.pieces ++ [{ half := false, dva := (d.dva2 + q.idx) % 2 ^ 48, bytes := bs, credit := bs.length }] }
    else
      let wt := ((ch.pt (ch.strOwner r st)).pte (q.dva / 65536)).wt
      match q.kind, data with
      | .subst, bs => ch.subLand k r st q.dva bs
      | .data, some bs => ch.landIn k r st q.half q.idx bs
      | .data, none => (blockParts q.idx q.len).foldl (fun c b => c.blockMissing k r st q.half b.1 3 (if wt then [(max q.idx (b.1 * 4096), b.2)] else [])) ch
      | _, some bs => ch.laneBytes r st d q.idx q.dva bs
      | _, none =>
        (match d.pcid ch with | some c => ch.modCl c fun y => y.freeBuf r st q.idx | none => ch).blockMissing k r st q.half q.idx 3
          (if wt then [(q.idx * 4096, 4096)] else [])

/-- A write request lands in memory: its half drains, or the copy moves on (R191, R193). -/
def Chip.landWrite (ch : Chip) (k : Clock) (r st : Nat) (q : StreamReq) : Chip :=
  match q.window, q.phys with
  | none, some a =>
    let lost := ch.lostWrite a q.len
    let ch := ch.writePhys k a q.data
    if lost then ch.stopStream k r st 3 else ch
  | _, _ => ch

/-- What a landed write adds. -/
def Chip.creditWrite (ch : Chip) (k : Clock) (r st : Nat) (q : StreamReq) : Chip :=
  match (ch.str r st).active with
  | none => ch
  | some d =>
    if d.dir = 2 then (ch.modStr r st fun x => { x with done := x.done + q.credit }).copyCheck k r st
    else (ch.modStr r st fun x => x.modHalf q.half fun y => { y with got := y.got + q.credit }).halfCheck k r st q.half

/-- A granted request completes; one that was given up while it was in flight lands its write, and its data is discarded. -/
def Chip.reqDoneAt (ch : Chip) (k : Clock) (r st : Nat) (q : StreamReq) (data : Option (List Byte)) : Chip :=
  let ch := ch.dropReq r st q
  if q.write then
    let ch := ch.landWrite k r st q
    if q.drop || (ch.str r st).st ≠ .active then ch else ch.creditWrite k r st q
  else
    let ch := match q.window, q.phys with | none, some a => ch.touchPhys k a q.len | _, _ => ch
    if q.drop then ch else ch.landRead k r st q data

/-- The oldest request of a stream that memory or the fabric can complete. -/
def Stream.landable (x : Stream) : Option StreamReq :=
  x.reqs.find? fun q => q.granted && q.flash.isNone && (q.window.isNone || decide (q.await = 0))

/-- Whether the staging buffer of a stream's cluster has room for what a read brings (R163). -/
def Chip.roomFor (ch : Chip) (r st : Nat) (q : StreamReq) : Bool :=
  q.write || q.drop || decide (q.kind ≠ .data) || match (ch.str r st).active.bind (·.pcid ch) with
    | some c => (ch.cl c).stageRoom q.len
    | none => true

/-- A stream's request completes (R190, R191): its data arrives, or its write lands. -/
def Chip.streamRequestComplete (ch : Chip) (k : Clock) (r st : Nat) : Chip :=
  match (ch.str r st).landable with
  | none => ch
  | some q => if ch.roomFor r st q then ch.reqDoneAt k r st q (ch.reqBytes q) else ch

/-! ### Expander lanes (R277 to R283) -/

/-- The page's suspect bit is set when a block of it failed its check twice; a lift of it ends (R228, R283). -/
def Chip.suspectPage (ch : Chip) (p dva : Nat) : Chip :=
  let e := (ch.pt p).pte (dva / 65536)
  if e.wt then ch.setSuspect e.lidx else ch

/-- A block failed its check twice: the page is suspect; a weight stream's owner hears of it (R283). -/
def Chip.failedTwice (ch : Chip) (k : Clock) (r st c : Nat) (d : Desc) (dva : Nat) : Chip :=
  let p := ch.strOwner r st
  let ch := (ch.modCl c fun y => { y with fail2 := satTo 0xFFFF (y.fail2 + 1) }).suspectPage p dva
  if d.fallback = 0 then ch else ch.raise k p 0xE013 .ok d.ctx (toBe r 1 ++ toBe st 1 ++ zeros 2 ++ toBe dva 8)

/-- What the check of a lane's block decides. -/
def Chip.laneCheck (ch : Chip) (k : Clock) (c : Nat) (b : LaneBuf) (d : Desc) : Chip :=
  let slot := hdrSlot b.bytes
  let img := let s := look {} (ch.cl c).codec slot; if s.valid then some s.image else none
  match checkBlock b.bytes d.run img with
  | .pass raw =>
    let ch := ch.modCl c fun y => { y.freeBuf b.region b.stream b.block with rawBlocks := if hdrRaw b.bytes then satTo 0xFFFF (y.rawBlocks + 1) else y.rawBlocks }
    ch.landIn k b.region b.stream b.half (b.block * 4096) raw
  | .stop => (ch.modCl c fun y => y.freeBuf b.region b.stream b.block).stopStream k b.region b.stream 4
  | .fail =>
    if !b.failed then
      ch.modCl c fun y => { (y.modBuf b.region b.stream b.block fun z => { z with bytes := [], asked := 0, got := 0, need := 64, headBack := false, complete := none, failed := true }) with
                            fail1 := satTo 0xFFFF (y.fail1 + 1) }
    else
      ((ch.modCl c fun y => y.freeBuf b.region b.stream b.block).failedTwice k b.region b.stream c d b.dva).blockMissing k b.region b.stream b.half b.block 4 []

/-- A lane's oldest block, complete in its buffer, is emitted for 64 or 128 aclk and then checked (R279). -/
def Chip.blockEmission (ch : Chip) (k : Clock) (c l : Nat) : Chip :=
  match ((ch.cl c).lane l).bufs with
  | [] => ch
  | b :: _ =>
    match b.complete, ((ch.str b.region b.stream).half b.half).desc with
    | some t, some d =>
      let e0 := max (t + 2) (((ch.cl c).lane l).lastEmit + 1)
      let n := if hdrWidth b.bytes = 0 then 128 else 64
      if (ch.cl c).aclk < e0 + n + 1 || !(ch.cl c).stageRoom 4096 then ch
      else (ch.modCl c fun y => { y with lanes := upd {} y.lanes l fun z => { z with lastEmit := e0 + n - 1 } }).laneCheck k c b d
    | _, _ => ch

/-! ### The region encoder (R285) -/

/-- The next raw block of a region, read whole, is coded with its table or stored raw, and goes to memory at the start of its run. -/
def Chip.outboundBlockCoding (ch : Chip) (k : Clock) (r : Nat) : Chip :=
  match (ch.rg r).encQueue with
  | [] => ch
  | (st, h, i) :: rest =>
    if (ch.rg r).encData.length < 4096 then ch
    else
      let raw := (ch.rg r).encData
      let ch := ch.modRg r fun g => { g with encQueue := rest, encData := [] }
      match ((ch.str r st).half h).desc with
      | none => ch
      | some d =>
        let s : CodecSlot := match d.pcid ch with | some c => look {} (ch.cl c).codec d.tslot | none => ({} : CodecSlot)
        let stored := storeBlock s.image d.tslot raw
        if !s.valid || d.run < stored.length then ch.stopStream k r st 4
        else ch.modStr r st fun x => { x with pieces := x.pieces ++ [{ half := h, dva := d.addr (i / 4096 * d.run), bytes := stored, credit := 4096 }] }

/-! ### Deadlines (R192) -/

/-- The blocks of a half that have not arrived in the banks (R239). -/
def Chip.blocksOut (ch : Chip) (r st : Nat) (h : Bool) (d : Desc) : List Nat :=
  let y := (ch.str r st).half h
  let waits : Nat → Bool := fun b => match d.pcid ch with
    | some c => (ch.cl c).staged.any fun s => decide (s.region = r) && decide (s.stream = st) && decide (s.half = h) &&
        decide (y.spd d h (b * 4096) ≤ s.addr) && decide (s.addr < y.spd d h (b * 4096) + 4096)
    | none => false
  (y.blocks.filter fun b => decide (b.1 ∉ y.substd) && (!y.blockDone b || waits b.1)).map (·.1)

/-- A half passes its deadline: missing blocks of a weight stream are substituted, else the owner hears that the stream is late. -/
def Chip.halfDeadline (ch : Chip) (k : Clock) (r st : Nat) (h : Bool) : Chip :=
  let y := (ch.str r st).half h
  match y.desc with
  | none => ch
  | some d =>
    if !y.eng || y.expired || d.deadline = 0 || k.timebase < y.handover + d.deadline then ch
    else
      let ch := ch.modStr r st fun x => { (x.modHalf h fun y => { y with expired := true }) with late := true }
      if d.dir = 0 && d.fallback ≠ 0 then
        ch.modStr r st fun x => (ch.blocksOut r st h d).foldl (fun x b => x.askSub h b none true []) x
      else ch.streamLate k r st d h

end Sys2Proof.Machine
end

