-- ==== Sys2Proof/Machine/Tiers.lean ====
section
/-! DEFINITION. The ends of lifts and drops, the release of epochs, flash sectors and zeroing (spec/07_tiers_translation.md R228, R232,
R233; spec/08_dram_flash.md R259, R261 to R263). -/

namespace Sys2Proof.Machine

/-! ### Lifts and drops (R228) -/

/-- DROP_COMPLETE (R228). -/
def execDropComplete (lidx : Nat) (s : State) : Res := onChip s fun _ ch => ch.dropComplete lidx

/-- LIFT_COMPLETE: with its last sector written the page switches to its frame (R228). -/
def execLiftComplete (lidx : Nat) (s : State) : Res :=
  onChip s fun _ ch =>
    let e := ch.led lidx
    if e.st = .lifting && decide (e.sectors.length = 16) then (ch.modLed lidx fun x => { x with st := .hbm }).pteTo e.part e.dpage (some e.frame) else ch

/-! ### Release of an epoch (R313) -/

/-- A weight page passes to FREE: its entry and its translation go, its frame returns to the epoch's pool (R228). -/
def Chip.freePage (ch : Chip) (h e i : Nat) : Chip :=
  let x := ch.led i
  if x.st = .free || x.inflight ≠ 0 then ch
  else
    let ch := ((ch.modPt x.part fun p => { p with pages := put {} p.pages x.dpage {} }).dropTlb x.part [x.dpage]).modLed i fun _ => {}
    let ch := match x.slot with
      | some s => { ch with flash := { ch.flash with slots := put [] ch.flash.slots s [], usedSlots := put 0 ch.flash.usedSlots s 0 } }
      | none => ch
    if x.st = .hbm || x.st = .hbmOnly || x.st = .lifting || x.st = .dropping then ch.modEp h e fun y => { y with free := y.free ++ [x.frame] } else ch

/-- The DVA pages of an epoch's fallback window. -/
def Epoch.fbPages (e : Epoch) : List Nat := (List.range (e.fsize / 65536)).map (e.fbase / 65536 + ·)

/-- The epoch's ledger entries. -/
def Epoch.lidxs (e : Epoch) : List Nat := (List.range (e.wsize / 65536)).map (e.ledBase + ·)

/-- Whether a request of a partition's streams, translated already, goes to a page (R224). -/
def Chip.pageInUse (ch : Chip) (p page : Nat) : Bool :=
  (List.range 16).any fun r => (ch.rg r).streams.any fun e => (ch.pt p).ownsStream r e.1 &&
    e.2.reqs.any fun q => !q.walking && q.window.isNone && decide (q.dva / 65536 = page)

/-- Releases an epoch as far as requests in flight let it (R224): the schedule stops, idle pages pass to FREE, idle pages of the fallback
window are unmapped; with the last page gone its frames are zeroed and its slot of the handle is empty. -/
def Chip.releaseEpoch (ch : Chip) (h e : Nat) (teardown : Bool) : Chip :=
  let p := (ch.mdl h).part
  let ep := (ch.mdl h).ep e
  if ep.st = .empty then ch
  else
    let ch := ch.modEp h e fun x => { x with releasing := true, sched := none, shards := [], pageKey := [] }
    let ch := ep.lidxs.foldl (fun c i => c.freePage h e i) ch
    let ch := ch.unmapPages p (ep.fbPages.filter fun g => ((ch.pt p).pte g).v && !ch.pageInUse p g) teardown
    if (ep.lidxs.any fun i => decide ((ch.led i).st ≠ .free)) || ep.fbPages.any fun g => ((ch.pt p).pte g).v then ch
    else
      let ch := ((ch.mdl h).ep e).free.foldl (fun c f => c.freeFrame f p teardown) ch
      let ch := ch.modEp h e fun _ => {}
      if (ch.mdl h).ep0.st = .empty && (ch.mdl h).ep1.st = .empty then ch.modMdl h fun _ => {} else ch

/-! ### Flash sectors (R232, R233, R261 to R263) -/

/-- A sector of a page slot: 4,096 bytes. -/
def Flash.sector (f : Flash) (slot sector : Nat) : List Byte := slice (look [] f.slots slot ++ zeros 65536) (sector * 4096) 4096

/-- Wear in whole percent of the rated 3,000 cycles (R265). -/
def Flash.wear (f : Flash) : Nat := f.erases * 100 / 3000

/-- The stream requests that wait for a sector. -/
def Chip.sectorReqs (ch : Chip) (slot sector : Nat) : List (Nat × Nat × StreamReq) :=
  (List.range 16).flatMap fun r => (List.range 64).flatMap fun st =>
    ((ch.str r st).reqs.filter fun q => q.granted && decide (q.flash = some (slot, sector))).map fun q => (r, st, q)

/-- The lift that lacks a sector. -/
def Chip.sectorLift (ch : Chip) (slot sector : Nat) : Option (Nat × LedgerEntry) :=
  ch.ledger.find? fun e => decide (e.2.slot = some slot) && decide (e.2.st = .lifting) && !(e.2.sectors.contains sector)

/-- The ledger entry whose flash copy a slot holds. -/
def Chip.slotPage (ch : Chip) (slot : Nat) : Option Nat := (ch.ledger.find? fun e => decide (e.2.slot = some slot) && decide (e.2.st ≠ .free)).map Prod.fst

/-- The channel of sector s of page slot f (R232). -/
def flashChannel (f s : Nat) : Nat := (16 * f + s) % 32

/-- A sector of a page slot has its channel in service, and its header names it (R261, R266). -/
def Flash.readable (f : Flash) (slot sector : Nat) : Bool :=
  let h := look {} f.heads (slot * 16 + sector)
  !f.failedCh.getLsbD (flashChannel slot sector) && decide (h.slot = slot) && decide (h.sector = sector)

/-- How a read of a sector is reported: soft decisions are tried over at most seven read levels (R261, R262). -/
def Flash.outcome (f : Flash) (slot sector : Nat) (o : FlashOutcome) : FlashOutcome :=
  if !f.readable slot sector then .uncorrectable
  else match o with
    | .soft n => if n = 0 ∨ 7 < n then .uncorrectable else o
    | _ => o

/-- A sector read is reported: the counters it moves, and the rewrite it may call for (R262, R266). -/
def Chip.countSector (ch : Chip) (slot sector : Nat) (o : FlashOutcome) : Chip :=
  let f := { ch.flash with report := some (slot, sector, o) }
  match o with
  | .hard n => { ch with flash := if f.threshold < n && !(f.rewrites.contains (slot, sector)) then { f with rewrites := f.rewrites ++ [(slot, sector)] } else f }
  | .soft _ => { ch with flash := { f with soft := satTo 0xFFFFFFFF (f.soft + 1) } }
  | .uncorrectable => { ch with flash := { f with ue := satTo 0xFFFF (f.ue + 1) } }

/-- The sectors of flash outside the page slots, as the commands number them, from slot 2^26 on (log entry 72): checkpoints, kept packages,
record copies. -/
def otherSlot : Nat := 67108864

/-- An uncorrectable sector outside the page slots: the checkpoint is unusable, the package unreadable, the record's other copy is used
(R263). -/
def Flash.losesOther (f : Flash) (n : Nat) : Flash :=
  if n < 4096 then { f with ckpts := f.ckpts.modify n fun x => { x with good := false } }
  else if n < 8192 then { f with kept := f.kept.modify (n - 4096) fun x => { x with good := false } }
  else if (n - 8192) / 2 < 13 && !f.unread.contains (n - 8192) then { f with unread := f.unread ++ [n - 8192] }
  else f

/-- Whether flash outside the page slots holds something at a number. -/
def Flash.hasOther (f : Flash) (n : Nat) : Bool :=
  if n < 4096 then decide (n < f.ckpts.length) else if n < 8192 then decide (n - 4096 < f.kept.length) else decide (look [] f.records (n - 8192) ≠ [])

/-- A sector read ends for those that asked, a re-hash among them: stream requests take its bytes, a lift writes it to its frame; an
uncorrectable one leaves the page suspect, the lift undone and the blocks missing (R228, R263). -/
def Chip.sectorRead (ch : Chip) (k : Clock) (slot sector : Nat) (o : FlashOutcome) : Chip :=
  if 16 ≤ sector then ch
  else if otherSlot ≤ slot then
    if !ch.flash.hasOther (slot - otherSlot) then ch
    else
      let ch := ch.countSector slot sector o
      if o = .uncorrectable then { ch with flash := ch.flash.losesOther (slot - otherSlot) } else ch
  else match ch.slotPage slot with
    | none => ch
    | some i =>
      let qs := (ch.sectorReqs slot sector).filter fun x => ch.roomFor x.1 x.2.1 x.2.2
      let o := ch.flash.outcome slot sector o
      let lift := ch.sectorLift slot sector
      let ch := ch.countSector slot sector o
      let bytes := ch.flash.sector slot sector
      if o = .uncorrectable then qs.foldl (fun c x => c.reqDoneAt k x.1 x.2.1 x.2.2 none) (ch.setSuspect i)
      else
        let ch := match lift with
          | some (j, e) => (ch.writePhys k (e.frame * 65536 + sector * 4096) bytes).modLed j fun x => { x with sectors := x.sectors ++ [sector] }
          | none => ch
        qs.foldl (fun c x => c.reqDoneAt k x.1 x.2.1 x.2.2 (some (slice bytes (x.2.2.dva % 4096) x.2.2.len))) ch

/-- FLASH_SECTOR_READ_COMPLETE (R262). -/
def execFlashSectorReadComplete (slot sector : Nat) (outcome : FlashOutcome) (s : State) : Res :=
  onChip s fun k ch => ch.sectorRead k slot sector outcome

/-- Sectors written count toward wear; at 90% the management partition hears of it (R265). -/
def Chip.flashWrote (ch : Chip) (k : Clock) (sectors : Nat) : Chip :=
  let f := ch.flash
  let f := { f with written := f.written + sectors, erases := Config.flashErases (f.written + sectors) }
  let ch' := { ch with flash := { f with wearRaised := f.wearRaised || decide (90 ≤ f.wear) } }
  if !f.wearRaised && decide (90 ≤ f.wear) then ch'.notice k 4 0 else ch'

/-- SECTOR_REFRESH_REWRITE_COMPLETE: a rewrite that was due is done, under the next write sequence (R261, R262). -/
def execSectorRefreshRewriteComplete (slot sector : Nat) (s : State) : Res :=
  onChip s fun k ch =>
    let f := ch.flash
    if f.rewrites.contains (slot, sector) then
      ({ ch with flash := { f with rewrites := f.rewrites.filter (· ≠ (slot, sector)), rewritten := satTo 0xFFFFFFFF (f.rewritten + 1),
                                   heads := if slot < otherSlot then upd {} f.heads (slot * 16 + sector) fun h => { h with seq := f.written + 1 } else f.heads } } : Chip).flashWrote k 1
    else ch

/-! ### Zeroing (R259) -/

/-- Zero chunks, with their check bursts, over a frame. -/
def Chip.zeroFrame (ch : Chip) (f : Nat) : Chip :=
  { ch with hbm := ch.hbm.filter fun c => c.1 / 65536 ≠ f, hbmErr := ch.hbmErr.filter fun e => e.1 / 2048 ≠ f }

/-- The zeroing engine keeps a stack's positions while frames of a teardown are pending there, and takes those that no partition holds. -/
def Chip.zeroPositions (ch : Chip) (s : Nat) : Chip :=
  let hold := decide (0 < ch.tearFrames s)
  (List.range 64).foldl (fun c i =>
    { c with wheels := upd {} c.wheels (wheelKey s i) fun w => { w with zeroing := hold && w.owner.isNone } }) ch

/-- Whether the zeroing engine has a position of a stack for a frame: for a teardown's one that it holds; for a frame that a living partition
freed one that no partition holds, or one of that partition at which it offers no request. -/
def Chip.mayZero (ch : Chip) (k : Clock) (s p : Nat) (teardown : Bool) : Bool :=
  (ch.sk s).serves && (List.range 64).any fun i =>
    let w := ch.wheelAt s i
    if teardown then w.zeroing
    else w.owner.isNone || (decide (w.owner = some p) && (bestOffer (ch.offers k p s w.write)).isNone)

/-- FRAME_ZEROED: the frame is free again, or retired when it is marked (R247), and with a stack's last teardown frame its positions are
released (R259). -/
def Chip.frameZeroed (ch : Chip) (k : Clock) (f : Nat) : Chip :=
  match (ch.fr f).use with
  | .zeroing p t =>
    let s := stackOfFrame f
    if !ch.mayZero k s p t then ch
    else
      let ch := if (ch.fr f).marked then { ch with boot := { ch.boot with retireDirty := true } } else ch
      ((ch.zeroFrame f).modFr f fun x => { x with use := if x.marked then .retired else .free, ces := [] }).zeroPositions s
  | _ => ch

def execFrameZeroed (frame : Nat) (s : State) : Res := onChip s fun k ch => ch.frameZeroed k frame

end Sys2Proof.Machine
end

