-- ==== Sys2Proof/Machine/MemCmds.lean ====
section
/-! DEFINITION. The memory commands and the debug port's memory access (spec/07_tiers_translation.md R218, R219, R224;
spec/13_host_protocol.md R392; spec/12_partitions_security.md R368). -/

namespace Sys2Proof.Machine

/-! ### MEM_MAP, MEM_UNMAP and MEM_PROTECT -/

/-- The payload the three share (R392). -/
structure MapReq where
  dva : Nat
  pages : Nat
  rd : Bool
  wr : Bool
  lg : Bool
  stack : Nat
  deriving DecidableEq, Repr

def mapReq (b : List Byte) : MapReq :=
  { dva := beAt b 0 8, pages := beAt b 8 4, rd := bitAt (beAt b 12 1) 0, wr := bitAt (beAt b 12 1) 1, lg := bitAt (beAt b 12 1) 2, stack := beAt b 13 1 }

/-- The pages a command names. -/
def MapReq.list (m : MapReq) : List Nat := (List.range m.pages).map (m.dva / 65536 + ·)

/-- A range past the DVA space names no page: its own refusal comes by the order of R512. -/
def MapReq.inRange (m : MapReq) : Bool := decide (m.pages ≤ 65536) && decide (m.dva + m.pages * 65536 ≤ 2 ^ 48)

/-- Whether a command names a weight page (R219). -/
def MapReq.weight (m : MapReq) (x : Partition) : Bool := m.inRange && m.list.any fun g => (x.pte g).v && (x.pte g).wt

/-- The form of the payload. -/
def MapReq.form (m : MapReq) (q : Req) : List (Bool × Refuse) :=
  [ (decide (m.dva % 65536 ≠ 0), (.badField, some 0)), (decide (m.pages = 0), (.badField, some 8)), (decide (8 ≤ beAt q.payload 12 1), (.badField, some 12)), reserved q 14 2 ]

def MapReq.above (m : MapReq) : List (Bool × Refuse) := [ (!m.inRange, (.lengthRange, some 8)) ]

/-- Whether a map meets a remote window of a job of the partition (R414). -/
def MapReq.inWindow (m : MapReq) (ch : Chip) (p : Nat) : Bool :=
  ch.fabric.jobs.any fun e => e.2.valid && decide (e.2.part = p) && e.2.windows.any fun w => overlaps m.dva (m.pages * 65536) w.dva w.len

/-- Runs of frames a map takes: 32 frames each for large pages (R218). -/
def MapReq.unit (m : MapReq) : Nat := if m.lg then 32 else 1

/-- Whether a stack's free frames and the partition's quota hold the map now. -/
def Chip.fitsNow (ch : Chip) (p : Nat) (m : MapReq) (s : Nat) : Bool :=
  decide (m.pages ≤ ch.quotaLeft p s) && decide ((ch.freeFrames s (m.pages / m.unit) m.unit).length = m.pages / m.unit)

/-- A frame that is free, or will be once it is zeroed (R259). -/
def FrameUse.comesFree : FrameUse → Bool
  | .free => true
  | .zeroing _ _ => true
  | _ => false

/-- Whether they hold it once the frames being zeroed are free (R219, R259). -/
def Chip.fitsLater (ch : Chip) (p : Nat) (m : MapReq) (s : Nat) : Bool :=
  decide (m.pages ≤ ch.quotaLeft p s + ch.zeroingOf p s) &&
  decide ((ch.framesFor s (m.pages / m.unit) m.unit fun u => u.comesFree).length = m.pages / m.unit)

def MapReq.places (m : MapReq) : List Nat := if m.stack = 0xFF then List.range 4 else [m.stack]

/-- Maps the pages on a stack: every new page reads as zero, for its frames were zeroed (R219, R259). -/
def Chip.mapPages (ch : Chip) (p : Nat) (m : MapReq) (s : Nat) : Chip :=
  let runs := ch.freeFrames s (m.pages / m.unit) m.unit
  let ch := (ch.takeFrames p (runs.flatMap fun f => (List.range m.unit).map (f + ·))).needTables p m.list
  ch.modPt p fun x => { x with pages := m.list.foldl (fun t g =>
    put {} t g { v := true, lg := m.lg, rd := m.rd, wr := m.wr, frame := runs.getD ((g - m.dva / 65536) / m.unit) 0 }) x.pages }

def memMapCmd (q : Req) (k : Clock) (ch : Chip) : Cmd :=
  let m := mapReq q.payload
  let x := ch.pt q.part
  match firstFail ((m.weight x, (.notPermitted, some 0)) :: m.form q ++
    [ (decide (3 < m.stack) && decide (m.stack ≠ 0xFF), (.badField, some 13)), (m.lg && decide (m.dva % 2097152 ≠ 0), (.badField, some 0)),
      (m.lg && decide (m.pages % 32 ≠ 0), (.badField, some 8)), (m.inRange && m.list.any fun g => (x.pte g).v, (.badField, some 0)), (m.inWindow ch q.part, (.badField, some 0)) ] ++ m.above) with
  | some r => .error r
  | none =>
    match m.places.find? (ch.fitsNow q.part m) with
    | none => .error (if m.places.any (ch.fitsLater q.part m) then .notReady else .noResource, none)
    | some s =>
      match firstFail [ch.worksFull q] with
      | some r => .error r
      | none =>
        let a := (ch.mapPages q.part m s).accept k q 0x0303 (.protect [])
        .ok ((a.2.reply q .accepted []).complete k a.1 0xE001 .ok [])

/-- MEM_MAP: done with its reply (R219). -/
def execMemMap (q : Req) (s : State) : Res := onChip s (runCmd 0x0303 q (memMapCmd q))

/-- A page that is not mapped, or a large page of which the command names only a part (R219). -/
def MapReq.misnamed (m : MapReq) (x : Partition) : Bool :=
  m.inRange && m.list.any fun g =>
    let e := x.pte g
    !e.v || (e.lg && (decide (g / 32 * 32 < m.dva / 65536) || decide (m.dva / 65536 + m.pages < g / 32 * 32 + 32)))

/-- The stream requests of a partition translated to some pages: region, stream and DVA (R224). -/
def Chip.translated (ch : Chip) (p : Nat) (pages : List Nat) : List (Nat × Nat × Nat) :=
  (List.range 16).flatMap fun r => ((ch.rg r).streams.filter fun e => (ch.pt p).ownsStream r e.1).flatMap fun e =>
    (e.2.reqs.filter fun x => !x.walking && decide (x.dva / 65536 ∈ pages)).map fun x => (r, e.1, x.dva)

def changeChecks (q : Req) (ch : Chip) : List (Bool × Refuse) :=
  let m := mapReq q.payload
  let x := ch.pt q.part
  (m.weight x, (.notPermitted, some 0)) :: m.form q ++ [(m.misnamed x, (.badField, some 0))] ++ m.above ++ [ch.worksFull q]

/-- The DVA ranges an accepted command still has to read, and to write. -/
def WorkKind.readRanges : WorkKind → List (Nat × Nat)
  | .ckptWrite _ dva len => [(dva, len)]
  | .tableBuild _ _ n src _ => [(src, n)]
  | _ => []

def WorkKind.writeRanges : WorkKind → List (Nat × Nat)
  | .ckptRead _ dva len => [(dva, len)]
  | .tableBuild _ _ _ _ dst => [(dst, 144)]
  | _ => []

def rangesMeet (xs ys : List (Nat × Nat)) : Bool := xs.any fun x => ys.any fun y => overlaps x.1 x.2 y.1 y.2

/-- Whether a command reads or writes a range that an accepted one of its context is still to write or, against a write, to read (R37). -/
def Chip.rangeOwed (ch : Chip) (p dva n : Nat) (write : Bool) : Bool :=
  ch.works.any fun (w : Work) => decide (w.part = p) && (rangesMeet w.kind.writeRanges [(dva, n)] || (write && rangesMeet w.kind.readRanges [(dva, n)]))

/-- The checkpoint a command names (R480). -/
def WorkKind.ckptId : WorkKind → Option Nat
  | .ckptWrite i _ _ => some i
  | .ckptRead i _ _ => some i
  | _ => none

/-- Whether an accepted command must wait for one accepted before it in its context (R37). -/
def Chip.workEarlier (ch : Chip) (w : Work) : Bool :=
  ch.works.any fun (v : Work) => decide (v.id < w.id) && decide (v.part = w.part) &&
    (rangesMeet v.kind.writeRanges (w.kind.readRanges ++ w.kind.writeRanges) || rangesMeet v.kind.readRanges w.kind.writeRanges ||
     (v.kind.ckptId.isSome && decide (v.kind.ckptId = w.kind.ckptId)))

/-- What a command does once the memory it reaches is served, and the commands before it have acted: until then it waits in the receive queue
and changes nothing (R37, R257, log entry 73). -/
def Chip.served (ch : Chip) (shut : Bool) (done : Chip) : Chip := if shut then ch else done

/-- MEM_UNMAP: the entries are invalid and out of every cache; the frames go when the change completes (R219, R224). -/
def execMemUnmap (q : Req) (s : State) : Res :=
  onChip s (runCmd 0x0304 q fun k ch =>
    let gs := (mapReq q.payload).list
    let fs := gs.map fun g => ((ch.pt q.part).pte g).frameOf g
    let kind := WorkKind.unmap fs (ch.translated q.part gs)
    checked (changeChecks q ch)
      (ch.served (ch.rangeOwed q.part (gs.headD 0 * 65536) (gs.length * 65536) true)
        (((ch.modPt q.part fun x => { x with pages := gs.foldl (fun t g => put {} t g {}) x.pages }).dropTlb q.part gs).acceptReply k q 0x0304 kind [])))

/-- MEM_PROTECT: sets rd and wr (R219, R392). -/
def execMemProtect (q : Req) (s : State) : Res :=
  onChip s (runCmd 0x0305 q fun k ch =>
    let m := mapReq q.payload
    let kind := WorkKind.protect (ch.translated q.part m.list)
    checked (changeChecks q ch)
      (ch.served (ch.rangeOwed q.part m.dva (m.pages * 65536) true)
        (((ch.modPt q.part fun x => { x with pages := m.list.foldl (fun t g => upd {} t g fun e => { e with rd := m.rd, wr := m.wr }) x.pages }).dropTlb q.part m.list).acceptReply
          k q 0x0305 kind [])))

/-- Whether a stream still has a request of a DVA. -/
def Chip.stillOut (ch : Chip) (o : Nat × Nat × Nat) : Bool := (ch.str o.1 o.2.1).reqs.any fun x => decide (x.dva = o.2.2)

/-- TRANSLATION_CHANGE_COMPLETE: with every request of the old entries done, an unmap's frames are zeroed for reuse and the command
is done (R219, R224). -/
def Chip.changeDone (ch : Chip) (k : Clock) (id : Nat) : Chip :=
  match ch.work? id with
  | none => ch
  | some w =>
    match w.kind with
    | .unmap fs old => if old.any ch.stillOut then ch else (fs.foldl (fun c f => c.freeFrame f w.part false) ch).complete k w 0xE001 .ok []
    | .protect old => if old.any ch.stillOut then ch else ch.complete k w 0xE001 .ok []
    | _ => ch

def execTranslationChangeComplete (id : Nat) (s : State) : Res := onChip s fun k ch => ch.changeDone k id

/-! ### MEM_WRITE and MEM_READ (R392) -/

/-- Whether a range holds anything but data pages with the right asked for. -/
def Partition.rangeBad (x : Partition) (dva n : Nat) (write : Bool) : Bool :=
  (pagesOf dva n).any fun g => let e := x.pte g; !(e.v && !e.wt && (if write then e.wr else e.rd))

/-- Whether a DVA range meets memory that is not served now (R249, R255, R257). -/
def Chip.rangeShut (ch : Chip) (k : Clock) (p dva n : Nat) : Bool := (ch.runsMem p dva n).any fun r => (wordsOf r.1 r.2.2).any fun w => ch.shut k (w * 32)

/-- Whether the stacks that hold a DVA range serve requests (R255, R257). -/
def Chip.rangeServes (ch : Chip) (p dva n : Nat) : Bool := (ch.runsMem p dva n).all fun r => (ch.sk (stackOf r.1)).serves

/-- MEM_WRITE. -/
def execMemWrite (q : Req) (s : State) : Res :=
  onChip s (runCmd 0x0306 q fun k ch =>
    let dva := beAt q.payload 0 8
    let n := beAt q.payload 8 4
    let lost := ch.firstLost q.part dva n true
    checked [ ((ch.pt q.part).rangeBad dva n true, (.notPermitted, some 0)), reserved q 12 4, (decide (q.payload.length ≠ 16 + n), (.lengthRange, some 8)) ]
      (ch.served (ch.rangeShut k q.part dva n || ch.rangeOwed q.part dva n true)
        ((ch.writeDva k q.part dva (q.payload.drop 16)).reply q (if lost.isSome then .dataLost else .ok) (match lost with | some o => toBe o 4 | none => []))))

/-- MEM_READ. -/
def execMemRead (q : Req) (s : State) : Res :=
  onChip s (runCmd 0x0307 q fun k ch =>
    let dva := beAt q.payload 0 8
    let n := beAt q.payload 8 4
    let lost := ch.firstLost q.part dva n false
    let data := ch.readDvaZero q.part dva n
    checked [ ((ch.pt q.part).rangeBad dva n false, (.notPermitted, some 0)), reserved q 12 4, (decide (ch.maxPayload q.port < n + 16), (.lengthRange, some 8)) ]
      (ch.served (ch.rangeShut k q.part dva n || ch.rangeOwed q.part dva n false)
        ((ch.touchDva k q.part dva n).reply q (if lost.isSome then .dataLost else .ok) (match lost with | some o => toBe o 4 ++ data | none => data))))

/-! ### DBG_READ and DBG_WRITE (R368)

The model's payload: 0 space (0 scratchpad, 1 HBM), 1 lcid, 2–3 reserved, 4–11 physical address, 12–15 length, then data. -/

/-- The cluster that serves the lcid a command names (R8). -/
def Chip.dbgCl (ch : Chip) (q : Req) : Cluster := match ch.pcid (beAt q.payload 1 1) with | some c => ch.cl c | none => {}

def dbgChecks (q : Req) (ch : Chip) (write : Bool) : List (Bool × Refuse) :=
  let space := beAt q.payload 0 1
  let l := beAt q.payload 1 1
  let a := beAt q.payload 4 8
  let n := beAt q.payload 12 4
  [ (!ch.sec.dbgOpen, (.notPermitted, none)), (decide (1 < space), (.badField, some 0)),
    (if space = 0 then decide (64 ≤ l) else decide (l ≠ 0), (.badField, some 1)), reserved q 2 2,
    (decide ((if space = 0 then spdSize else 2 ^ 37) < a + n), (.lengthRange, some 4)),
    (if write then decide (q.payload.length ≠ 16 + n) else decide (ch.maxPayload q.port < n), (.lengthRange, some 12)),
    (decide (space = 0) && (ch.pcid l).isSome && !(ch.dbgCl q).rangeOn a n, (.notReady, some 4)),
    (decide (space = 0) && (ch.pcid l).isNone, (.noResource, some 1)) ]

/-- Whether a physical range meets memory that is not served now. -/
def Chip.physShut (ch : Chip) (k : Clock) (a n : Nat) : Bool := (wordsOf a n).any fun w => ch.shut k (w * 32)

/-- DBG_READ. -/
def execDbgRead (q : Req) (s : State) : Res :=
  onChip s (runCmd 0x0F03 q fun k ch =>
    let c := (ch.pcid (beAt q.payload 1 1)).getD 0
    let a := beAt q.payload 4 8
    let n := beAt q.payload 12 4
    checked (dbgChecks q ch false)
      (if beAt q.payload 0 1 = 0 then (ch.eccReads k c 0 (spdWords a n)).reply q .ok (slice ((spdWords a n).flatMap ((ch.cl c).read c)) (a % 32) n)
       else ch.served (ch.physShut k a n) ((ch.touchPhys k a n).reply q .ok (ch.readPhys a n))))

/-- DBG_WRITE. -/
def execDbgWrite (q : Req) (s : State) : Res :=
  onChip s (runCmd 0x0F04 q fun k ch =>
    let c := (ch.pcid (beAt q.payload 1 1)).getD 0
    let a := beAt q.payload 4 8
    let data := q.payload.drop 16
    checked (dbgChecks q ch true)
      (if beAt q.payload 0 1 = 0 then (ch.modCl c fun x => x.writePhys 0 a data (data.length + 1)).reply q .ok []
       else ch.served (ch.physShut k a data.length) ((ch.writePhys k a data).reply q .ok [])))

end Sys2Proof.Machine
end

