-- ==== Sys2Proof/Machine/Session.lean ====
section
/-! DEFINITION. Sessions, attestation, keys and the debug port (spec/12_partitions_security.md R356 to R368, R372). -/

namespace Sys2Proof.Machine

/-! ### Partition registers and the report (R359, R360, R372) -/

def Partition.cfgReg (p : Partition) : Nat :=
  optBool p.valid * 2 ^ 31 + optBool p.conf * 2 ^ 30 + optBool p.tearing * 2 ^ 29 + p.prio % 8 * 2 ^ 24 + p.power % 128 * 2 ^ 17

def Partition.lendsAny (p : Partition) : Bool := [p.awnRd, p.awnWr, p.awnRm].any fun w => decide (w.toNat &&& 0x80808080 ≠ 0)

/-- The 48-byte grant record (R360). -/
def Partition.grant (p : Partition) : List Byte :=
  toBe p.cfgReg 4 ++ toBe (p.lcids.toNat % 2 ^ 32) 4 ++ toBe (p.lcids.toNat / 2 ^ 32) 4 ++ toBe p.engines.toNat 4 ++
  toBe (p.ctxCount * 65536 + p.ctxBase) 4 ++ toBe p.seqBase 4 ++ toBe (p.hndCount * 16 + p.hndBase) 4 ++
  ((List.range 4).flatMap fun s => toBe (look 0 p.quota s) 4) ++ toBe p.seqCount 4

/-- The setup measurement extended by an accepted command (R360). -/
def Partition.extend (p : Partition) (payload : List Byte) : Partition := { p with measure := Config.sha512 (p.measure ++ payload ++ p.grant) }

/-- Bytes 0 to 375 of an attestation report (R359). -/
def Chip.reportBody (ch : Chip) (k : Clock) (p : Nat) (nonce transcript : List Byte) : List Byte :=
  let x := ch.pt p
  let flags := optBool x.conf + 2 * optBool ch.sec.dbgOpen + 4 * optBool x.lendsAny + 8 * optBool (x.borrow ≠ 0) + 16 * optBool (ch.parts.any fun e => e.2.valid && e.2.lendsAny)
  [0x53, 0x4B, 0x41, 0x54] ++ toBe 1 2 ++ toBe p 1 ++ toBe flags 1 ++ toBe k.timebase 8 ++ nonce ++ toBe ch.sec.fwVersion 4 ++ zeros 4 ++
  ch.sec.idPub ++ ch.sec.kaPub ++ ch.sec.mFw ++ ch.sec.mCfg ++ x.measure ++ transcript

/-- An attestation report: its body and the identity key's signature over the body's SHA-512 (R359). -/
def Chip.report (ch : Chip) (k : Clock) (p : Nat) (nonce transcript : List Byte) : List Byte :=
  let b := ch.reportBody k p nonce transcript
  b ++ Config.ed25519Sign ch.sec.idSecret (Config.sha512 b)

/-! ### Sessions (R362 to R365) -/

/-- A packet's 32 header bytes (R379): flags hold event and reply. -/
def packetHeader (flags op status part ctx len seq session stamp : Nat) : List Byte :=
  toBe 0xA5C1 2 ++ toBe 1 1 ++ toBe flags 1 ++ toBe op 2 ++ toBe status 2 ++ toBe (part * 8192 + ctx * 2) 2 ++ toBe len 2 ++ toBe seq 4 ++
  toBe session 8 ++ toBe stamp 8

/-- The request's header as it travelled (R379). -/
def reqHeader (q : Req) (op : Nat) : List Byte := packetHeader 0 op 0 q.part q.ctx q.payload.length q.seq q.session q.stamp

/-- A packet of the device sealed under its session (R364): class 0 a reply, 1 an event. -/
def Session.sealed (x : Session) (cls seq : Nat) (header payload : List Byte) : List Byte :=
  header ++ Config.gcmSeal x.d2h (x.ivD ++ toBe cls 4 ++ toBe seq 4) header payload

/-- The packet in which a reply of the wire leaves (R376, R382): the request's opcode, partition, context, number and session, the status
and the stamp of its own sending; SESSION_OPEN's is the one without a tag (R362). -/
def replyPacket (x : Session) (q : Req) (op stamp : Nat) (st : Status) (payload : List Byte) : List Byte :=
  let h := packetHeader 1 op st.code q.part q.ctx payload.length q.seq q.session stamp
  if op = 0x0101 then h ++ payload else x.sealed 0 q.seq h payload

/-- The packet in which an event of the wire leaves in a session, under its number there (R364, R379, R397). -/
def eventPacket (x : Session) (number : Nat) (e : Event) : List Byte :=
  x.sealed 1 number (packetHeader 2 e.code e.status e.part e.ctx e.bytes.length number x.id e.stamp) e.bytes

/-- The X25519 base point (RFC 7748). -/
def x25519Base : List Byte := 9 :: zeros 31

/-- Sessions of a partition that count toward its four, pending ones with them (R362, R381). -/
def Chip.sessionCount (ch : Chip) (p : Nat) : Nat := (ch.host.sessions.filter fun x => decide (x.part = p) && !x.closed).length

/-- The session keys: 72 bytes derived from the agreement with the transcript as salt (R363). -/
def sessionKeys (secret peer transcript : List Byte) : List Byte :=
  Config.hkdf (Config.x25519 secret peer) transcript [0x53, 0x4B, 0x4F, 0x49, 0x4B, 0x2D, 0x53, 0x31] 72

def sessionOpenCmd (q : Req) (k : Clock) (ch : Chip) : Cmd :=
  match firstFail
    [ (decide (slice q.payload 32 32 ≠ (Config.sha512 (ch.pt q.part).tenant).take 32), (.authFailed, some 32)),
      (decide (4 ≤ ch.sessionCount q.part), (.noResource, none)) ] with
  | some r => .error r
  | none =>
    let secret := Config.random ch.sec.randoms 32
    let pub := Config.x25519 secret x25519Base
    let sid := ch.host.sidCount + 1
    let t := Config.sha512 (reqHeader q 0x0101 ++ q.payload ++ pub ++ toBe sid 8)
    let keys := sessionKeys secret (q.payload.take 32) t
    let x : Session := { id := sid, part := q.part, confirmed := false, closed := false, transcript := t, h2d := slice keys 0 32, d2h := slice keys 32 32,
                         ivH := slice keys 64 4, ivD := slice keys 68 4, repliedAt := k.localNs, highest := 0, window := [], evtNo := 1, addr := q.src, port := q.port }
    let ch := { ch with sec := { ch.sec with randoms := ch.sec.randoms + 1 }, host := { ch.host with sidCount := sid, sessions := ch.host.sessions ++ [x] } }
    .ok (ch.reply q .ok (pub ++ toBe sid 8 ++ ch.report k q.part (slice q.payload 64 32) t))

/-- SESSION_OPEN (R362, R363). -/
def execSessionOpen (q : Req) (s : State) : Res := onChip s (runCmd 0x0101 q (sessionOpenCmd q))

/-- The ring's events that had no session are sent when one opens (R398). -/
def Chip.sendWaiting (ch : Chip) (k : Clock) (p sid : Nat) : Chip :=
  let send : Chip → RingEntry → Chip := fun c e =>
    if e.toAll && decide (e.sends = 0) then
      match c.session? sid with
      | none => c
      | some x => (c.modPt p fun y => { y with ring := y.ring.map fun z => if z.id = e.id then { z with due := [(sid, x.evtNo)], sends := 1, last := k.localNs } else z }).sendEvent sid e.ev
    else c
  (ch.pt p).ring.foldl send ch

def sessionConfirmCmd (q : Req) (k : Clock) (ch : Chip) : Cmd :=
  match ch.session? q.session with
  | none => .error (.authFailed, none)
  | some x =>
    if x.confirmed then .error (.badField, none)
    else if Config.ed25519Verify (ch.pt x.part).tenant x.transcript q.payload then
      .ok (((ch.modSession q.session fun y => { y with confirmed := true }).reply q .ok []).sendWaiting k x.part q.session)
    else
      let ch := ch.refuse q (.authFailed, some 0)
      .ok { ch with host := { ch.host with sessions := ch.host.sessions.filter fun y => y.id ≠ q.session } }

/-- SESSION_CONFIRM (R365). -/
def execSessionConfirm (q : Req) (s : State) : Res := onChip s (runCmd 0x0102 q (sessionConfirmCmd q))

/-- Ring entries no longer wait for a session that is gone (R399). -/
def Chip.forgetSession (ch : Chip) (p sid : Nat) : Chip :=
  ch.modPt p fun x => { x with ring := (x.ring.map fun e => { e with due := e.due.filter fun d => d.1 ≠ sid }).filter fun e => !e.due.isEmpty || decide (e.sends = 0) }

/-- SESSION_CLOSE: the sending session closes at once; its name stays so that completions of its commands are dropped (R365). -/
def execSessionClose (q : Req) (s : State) : Res :=
  onChip s (runCmd 0x0103 q fun _ ch => .ok (((ch.reply q .ok []).modSession q.session fun x => { x with closed := true }).forgetSession q.part q.session))

/-- PENDING_SESSION_LAPSE: not confirmed within 1 s of its reply (R381), on the local count (DESIGN CHOICE, log entry 56). -/
def execPendingSessionLapse (sid : Nat) (s : State) : Res :=
  onChip s fun k ch => { ch with host := { ch.host with sessions := ch.host.sessions.filter fun x => !(decide (x.id = sid) && !x.confirmed && decide (x.repliedAt + 1000000000 ≤ k.localNs)) } }

/-- ATTEST: a fresh report of the partition, or for the management partition of any (R361). -/
def execAttest (q : Req) (s : State) : Res :=
  onChip s (runCmd 0x0104 q fun k ch =>
    let p := leAt q.payload 32 1
    match firstFail
      [ (decide (p ≠ q.part) && decide (q.part ≠ 0), (.notPermitted, some 32)), reserved q 33 3,
        (decide (8 ≤ p) || !(ch.pt p).valid, (.badField, some 32)) ] with
    | some r => .error r
    | none => .ok (ch.reply q .ok (ch.report k p (q.payload.take 32) (zeros 64))))

/-! ### Keys (R357, R366) -/

/-- Whether a resident epoch of a partition uses a model key. -/
def Chip.keyInUse (ch : Chip) (p key : Nat) : Bool :=
  ch.models.any fun m => m.2.valid && decide (m.2.part = p) && [m.2.ep0, m.2.ep1].any fun e => decide (e.st ≠ .empty) && decide (e.keyId = key)

def keyPutChecks (q : Req) (ch : Chip) : List (Bool × Refuse) :=
  let kind := leAt q.payload 0 1
  let id := beAt q.payload 4 4
  let p := ch.pt q.part
  [ (decide (kind = 0) || decide (3 < kind), (.badField, some 0)), reserved q 1 3,
    (decide (q.payload.length ≠ if kind = 1 then 72 else 40), (.lengthRange, none)),
    (decide (kind = 1) && decide (id = 0), (.badField, some 4)), (decide (kind = 2) && decide (id % 65536 ≠ 0), (.badField, some 6)),
    (decide (kind = 3) && decide (id ≠ 0), (.badField, some 4)),
    (decide (kind = 1) && ch.keyInUse q.part id, (.weightsBusy, some 4)),
    (decide (kind = 1) && decide (64 ≤ p.modelKeys.length) && !(p.modelKeys.any fun x => decide (x.1 = id)), (.noResource, none)),
    (decide (kind = 2) && decide (64 ≤ p.jobKeys.length) && !(p.jobKeys.any fun x => decide (x.1 = id / 65536)), (.noResource, none)) ]

/-- A key delivered. -/
def Partition.putKey (p : Partition) (payload : List Byte) : Partition :=
  let kind := leAt payload 0 1
  let id := beAt payload 4 4
  if kind = 1 then { p with modelKeys := (p.modelKeys.filter fun x => x.1 ≠ id) ++ [(id, slice payload 8 32, slice payload 40 32)] }
  else if kind = 2 then { p with jobKeys := (p.jobKeys.filter fun x => x.1 ≠ id / 65536) ++ [(id / 65536, slice payload 8 32)] }
  else { p with ckptKey := some (slice payload 8 32) }

/-- KEY_PUT (R366). -/
def execKeyPut (q : Req) (s : State) : Res :=
  onChip s (runCmd 0x0105 q fun _ ch => checked (keyPutChecks q ch) ((ch.modPt q.part fun p => p.putKey q.payload).reply q .ok []))

/-- A key removed. -/
def Partition.dropKey (p : Partition) (kind id : Nat) : Partition :=
  if kind = 1 then { p with modelKeys := p.modelKeys.filter fun x => x.1 ≠ id }
  else if kind = 2 then { p with jobKeys := p.jobKeys.filter fun x => x.1 ≠ id }
  else { p with ckptKey := none }

/-- KEY_DROP (R366). -/
def execKeyDrop (q : Req) (s : State) : Res :=
  onChip s (runCmd 0x0106 q fun _ ch =>
    let kind := leAt q.payload 0 1
    let id := beAt q.payload 4 4
    checked [ (decide (kind = 0) || decide (3 < kind), (.badField, some 0)), reserved q 1 3,
              (decide (kind = 1) && ch.keyInUse q.part id, (.weightsBusy, some 4)) ]
      ((ch.modPt q.part fun p => p.dropKey kind id).reply q .ok []))

/-! ### The debug port (R368) -/

def Chip.anyConf (ch : Chip) : Bool := ch.parts.any fun e => e.2.valid && e.2.conf

/-- DBG_OPEN: refused while any partition is confidential. -/
def execDbgOpen (q : Req) (s : State) : Res :=
  onChip s (runCmd 0x0F01 q fun _ ch =>
    checked [(ch.anyConf, (.notPermitted, none))] (({ ch with sec := { ch.sec with dbgOpen := true } } : Chip).reply q .ok []))

/-- DBG_CLOSE. -/
def execDbgClose (q : Req) (s : State) : Res :=
  onChip s (runCmd 0x0F02 q fun _ ch => .ok (({ ch with sec := { ch.sec with dbgOpen := false } } : Chip).reply q .ok []))

end Sys2Proof.Machine
end

