-- ==== Sys2Proof/Machine/Vector.lean ====
section
/-! DEFINITION. The vector unit (spec/04_cluster.md R145 to R150, spec/02_numerics.md R68 to R77). -/

namespace Sys2Proof.Machine

/-! ### Formats in memory (R146, R149) -/

/-- The vector-memory formats (R146). -/
def vecFmt (fmt : Nat) : Bool := decide (fmt < 0xE) && decide (fmt ≠ 2) && decide (fmt ≠ 3)

/-- MX formats carry scale bytes (R146). -/
def isMx (fmt : Nat) : Bool := decide (6 ≤ fmt) && decide (fmt ≤ 0xB)

/-- Element bytes a VLD or VST moves. -/
def moveBytes (fmt : Nat) (raw : Bool) : Nat := if raw then 512 else 16 * elemBits fmt

/-- Aclk a VLD or VST holds its port (R149). -/
def occupancy (fmt : Nat) (raw : Bool) : Nat := ceilDiv (moveBytes fmt raw) 128

/-- The four consecutive words of each 1,024-bit part (R160). -/
def vecParts (addr occ : Nat) : List (List Nat) :=
  (List.range occ).map fun j => (List.range 4).map fun i => (addr / 32 + 4 * j + i) % 131072

/-- The registers a post-increment advances: s[sa] by the element bytes, s[ss] by the scale bytes (R146). -/
def postInc (c : Cluster) (sa ss : BitVec 4) (post mx : Bool) (bytes : Nat) : Option Cluster :=
  if post then
    ((c.claimReg sa true).bind fun c => if mx then c.claimReg ss true else some c).map fun c' =>
      let c' := c'.later c.aclk (.sreg sa.toNat (c.s sa + BitVec.ofNat 64 bytes))
      if mx then c'.later c.aclk (.sreg ss.toNat ((if ss = sa then c.s ss + BitVec.ofNat 64 bytes else c.s ss) + 4)) else c'
  else some c

/-! ### VLD (R146, R147) -/

/-- Lane i of a load's data as a register word (R147). A NaN's payload is free. -/
def loadLane (fmt : Nat) (raw : Bool) (data scale : List Byte) (n i : Nat) : Word :=
  if raw then BitVec.ofNat 32 (leAt data (4 * i) 4)
  else
    let v := elemVal fmt (elemCode fmt data i)
    if fmt ≤ 1 then BitVec.ofInt 32 (signedOf (elemCode fmt data i) (elemBits fmt))
    else if isMx fmt then
      (match e8m0 (scale.getD (i / 32) 0).toNat with
       | none => freeNaN n i
       | some x => rndV n i (v.scale x))
    else rndV n i v

/-- A load under way reads the part of this aclk; after the last part its register write is on its way, due latency 3 + occupancy
after issue, unless a word was not delivered (R147, R157, R160). -/
def VldFlight.step (v : VldFlight) (c : Cluster) (pcid : Nat) : VldFlight :=
  match v.parts[c.aclk - v.issued]? with
  | some ws => { v with data := v.data ++ ws.flatMap (c.read pcid), lost := v.lost || ws.any c.lostWord }
  | none => v

def VldFlight.lastPart (v : VldFlight) (t : Nat) : Bool := decide (t + 1 = v.issued + v.parts.length)

/-- A landing put among those on their way by its aclk of issue (R145). -/
def Cluster.insertLanding (c : Cluster) (f : FlightItem) : Cluster := { c with flight := insBy (·.issued) f c.flight }

/-- The vector loads' part of one delivered edge. -/
def Cluster.vldEdge (c : Cluster) (pcid n : Nat) : Cluster :=
  let vs := c.vlds.map fun v => v.step c pcid
  let done := vs.filter fun v => v.lastPart c.aclk
  let c' := { c with vlds := vs.filter fun v => !v.lastPart c.aclk }
  done.foldl (fun c v =>
    if v.lost then c
    else (c.insertLanding { due := v.issued + 2 + v.parts.length, issued := v.issued, what := .vreg v.vd ((List.range 128).map (loadLane v.fmt v.raw v.data v.scale n)) }).flag
      { scaleNan := isMx v.fmt && !v.raw && v.scale.any fun b => decide (b = 0xFF) }) c'

/-- The physical words vector loads read in this aclk, with the context each reads for. -/
def Cluster.vldReads (c : Cluster) : List (Nat × List Nat) := c.vlds.map fun v => (v.ctx, (v.parts[c.aclk - v.issued]?).getD [])

/-- VLD: 128 elements or words from the scratchpad at s[sa] (R146, R147, R160). -/
def fieldVld (c : Nat) (vd sa ss : BitVec 4) (post port : Bool) (fmt : BitVec 4) (raw : Bool) : Field :=
  fun k ch cl =>
    let f := fmt.toNat
    let addr := (cl.s sa).toNat % spdSize
    let mx := isMx f && !raw
    let occ := occupancy f raw
    if addr % 32 ≠ 0 || (raw && decide (f ≠ 0)) || (!raw && !vecFmt f) then none
    else
      let parts := (vecParts addr occ).map fun ws => ws.map cl.physWord
      let sw := if mx then (spdWords (cl.s ss).toNat 4).map cl.physWord else []
      let uses := (List.range occ).flatMap (fun j => slotUses (cl.aclk + j) 0 (parts.getD j [])) ++ slotUses cl.aclk 2 sw
      (((cl.claim uses).bind fun x => x.claimPorts ((List.range occ).map fun j => (cl.aclk + j, optBool port))).bind
        fun x => postInc x sa ss post mx (moveBytes f raw)).map fun cl' =>
          let v : VldFlight := { vd := vd.toNat, fmt := f, raw := raw, issued := cl.aclk, parts := parts, total := moveBytes f raw, data := [],
                                 scale := if mx then cl.readAt c (cl.s ss).toNat 4 else [], lost := sw.any cl.lostWord, ctx := cl.curSlot.ctx }
          (ch.modCl c fun _ => ({ cl' with vlds := cl'.vlds ++ [v] }.count 4 1).count 3 uses.length).eccReads k c cl.curSlot.ctx sw

/-- The seed of the cluster's stochastic draws: the committed one, or its mix with a reserve's epoch (R71). -/
def Cluster.drawSeed (c : Cluster) : DWord := match c.mixed with | none => c.seed | some e => Config.seedMix c.seed e

/-! ### VST (R68 to R74, R146, R150) -/

/-- The exact value a writeback converts (R73). -/
def storeVal (srcint : Bool) (shift : Nat) (w : Word) : FVal := if srcint then (FVal.ofInt w.toInt).scale (-(shift : Int)) else f32 w

/-- One element of a writeback that is not MX (R68 to R73). -/
def storeConv (fmt : Nat) (satFp : Bool) (rd : Rnd) (v : FVal) : Conv :=
  match fltOf fmt with
  | some f => convF f (decide (0xC ≤ fmt)) satFp rd v
  | none => convI (elemBits fmt) rd v

/-- The four 32-lane blocks of a writeback vector. -/
def blocks4 (l : List α) : List (List α) := (List.range 4).map fun b => (l.drop (32 * b)).take 32

/-- What a writeback stores: elements, scale bytes, and the status bits it sets (R72, R74, R83). -/
structure Stored where
  codes : List Nat
  scales : List Byte
  num : NumStatus

def storeOf (fmt : Nat) (satFp : Bool) (rds : List Rnd) (vals : List FVal) : Stored :=
  if isMx fmt then
    let bs := blocks4 vals
    let scs := bs.map (mxScale fmt)
    let cs := (List.zipWith (mxBlock fmt) (blocks4 rds) bs).flatten
    { codes := cs.map (·.code), scales := scs.map (BitVec.ofNat 8),
      num := (NumStatus.ofConv cs).or { nanOut := scs.any fun x => decide (x = 255) } }
  else
    let cs := List.zipWith (storeConv fmt satFp) rds vals
    { codes := cs.map (·.code), scales := [], num := NumStatus.ofConv cs }

/-- Elements packed in order at a width (R45, R48). -/
def packNat (width : Nat) : List Nat → Nat
  | [] => 0
  | c :: t => c % 2 ^ width + 2 ^ width * packNat width t

def packCodes (width : Nat) (cs : List Nat) : List Byte := toLe (packNat width cs) (cs.length * width / 8)

/-- Byte writes at a logical address, word by word under the roles in force, due at one aclk (R160, R165). -/
def Cluster.storeLater (c : Cluster) (due a : Nat) (bytes : List Byte) : Cluster :=
  (spdWords a bytes.length).zipIdx.foldl (fun x w =>
    let off := if w.2 = 0 then a % 32 else 0
    let skip := if w.2 = 0 then 0 else 32 * w.2 - a % 32
    x.later due (.spd (c.physWord w.1 * 32 + off) ((bytes.drop skip).take (32 - off)))) c

/-- VST: a vector converted and stored at s[sa] (R146, R147, R150). -/
def fieldVst (c : Nat) (vs sa ss : BitVec 4) (post : Bool) (shift : BitVec 5) (fmt : BitVec 4) (sr raw srcint : Bool) : Field :=
  fun _ ch cl =>
    let f := fmt.toNat
    let addr := (cl.s sa).toNat % spdSize
    let mx := isMx f && !raw
    let occ := occupancy f raw
    let badShift := decide (shift ≠ 0) && (!srcint || (!raw && decide (2 ≤ f)))
    if addr % 32 ≠ 0 || (raw && (decide (f ≠ 0) || sr)) || (!raw && !vecFmt f) || badShift then none
    else
      let parts := (vecParts addr occ).map fun ws => ws.map cl.physWord
      let sw := if mx then (spdWords (cl.s ss).toNat 4).map cl.physWord else []
      let uses := (List.range occ).flatMap (fun j => slotUses (cl.aclk + 4 + j) 3 (parts.getD j [])) ++ slotUses (cl.aclk + 3 + occ) 3 sw
      (((cl.claim uses).bind fun x => x.claimPorts ((List.range occ).map fun j => (cl.aclk + 4 + j, 2))).bind
        fun x => postInc x sa ss post mx (moveBytes f raw)).map fun cl' =>
          let st := storeOf f cl.satFp (drawsOf sr cl.drawSeed cl.draws) ((cl.vec vs).map (storeVal srcint shift.toNat))
          let data := if raw then (cl.vec vs).flatMap fun w => toLe w.toNat 4 else packCodes (elemBits f) st.codes
          let cl' := (List.range occ).foldl (fun x j => x.storeLater (cl.aclk + 4 + j) (addr + 128 * j) ((data.drop (128 * j)).take 128)) cl'
          let cl' := if mx then cl'.storeLater (cl.aclk + 3 + occ) ((cl.s ss).toNat % spdSize) st.scales else cl'
          let cl' := if raw then cl' else { cl'.flag st.num with draws := if sr then cl'.draws + 1 else cl'.draws }
          ch.modCl c fun _ => (cl'.count 4 1).count 3 uses.length

/-! ### Register operations (R145, R147, R148) -/

/-- An operation of latency lat computed at issue: its register write lands so that entries issued lat aclk later see it. The
payload of each NaN it makes is free. -/
def vecOp (c : Nat) (vd : BitVec 4) (lat : Nat) (f : Nat → Cluster → List Word) : Field :=
  fun _ ch cl =>
    some { (ch.modCl c fun x => (x.later (x.aclk + lat - 1) (.vreg vd.toNat (f ch.free cl))).count 4 1) with free := ch.free + 1 }

/-- Lane by lane over two registers. -/
def lanes2 (g : Nat → Word → Word → Word) (a b : List Word) : List Word := (List.zipWith (fun i (p : Word × Word) => g i p.1 p.2) (List.range 128) (a.zip b))

/-- Lane by lane over one register. -/
def lanes1 (g : Word → Word) (a : List Word) : List Word := a.map g

/-- ACCRD: the accumulator entry before any write of this aclk (R109), whose results are read (R108). -/
def fieldAccrd (c : Nat) (vd : BitVec 4) (entry : BitVec 8) : Field := fun k ch cl =>
  (vecOp c vd 3 (fun _ cl => (List.range 128).map fun n => look 0 cl.arr.acc (entry.toNat * 128 + n)) k ch cl).map fun h =>
    h.modCl c fun x => { x with arr := { x.arr with live := x.arr.live.filter fun e => decide (e.1 / 128 ≠ entry.toNat) } }

/-- VNOP has no effect. -/
def fieldVnop : Field := fun _ ch _ => some ch

/-- VADD: FP32 sum (R75). -/
def fieldVadd (c : Nat) (vd va vb : BitVec 4) : Field :=
  vecOp c vd 4 fun n cl => lanes2 (fun i a b => rndV n i ((f32 a).add (f32 b))) (cl.vec va) (cl.vec vb)

/-- VSUB: FP32 difference (R75). -/
def fieldVsub (c : Nat) (vd va vb : BitVec 4) : Field :=
  vecOp c vd 4 fun n cl => lanes2 (fun i a b => rndV n i ((f32 a).add (f32 b).neg)) (cl.vec va) (cl.vec vb)

/-- VMUL: FP32 product (R75). -/
def fieldVmul (c : Nat) (vd va vb : BitVec 4) : Field :=
  vecOp c vd 4 fun n cl => lanes2 (fun i a b => rndV n i ((f32 a).mul (f32 b))) (cl.vec va) (cl.vec vb)

/-- VFMA: va × vb + vd with one rounding (R75, R147). -/
def fieldVfma (c : Nat) (vd va vb : BitVec 4) : Field :=
  vecOp c vd 4 fun n cl =>
    List.zipWith (fun i (p : Word × Word × Word) => rndV n i (((f32 p.1).mul (f32 p.2.1)).add (f32 p.2.2))) (List.range 128)
      ((cl.vec va).zip ((cl.vec vb).zip (cl.vec vd)))

/-- VMAX: NaN propagates, −0 below +0 (R75). -/
def fieldVmax (c : Nat) (vd va vb : BitVec 4) : Field :=
  vecOp c vd 2 fun n cl => lanes2 (fun i a b => fmaxV n i a b) (cl.vec va) (cl.vec vb)

/-- VMIN: NaN propagates, −0 below +0 (R75). -/
def fieldVmin (c : Nat) (vd va vb : BitVec 4) : Field :=
  vecOp c vd 2 fun n cl => lanes2 (fun i a b => fminV n i a b) (cl.vec va) (cl.vec vb)

/-- VADDS: FP32 sum with bits [31:0] of a scalar register (R147). -/
def fieldVadds (c : Nat) (vd va sb : BitVec 4) : Field :=
  vecOp c vd 4 fun n cl => lanes2 (fun i a b => rndV n i ((f32 a).add (f32 b))) (cl.vec va) (List.replicate 128 ((cl.s sb).setWidth 32))

/-- VMULS: FP32 product with bits [31:0] of a scalar register (R147). -/
def fieldVmuls (c : Nat) (vd va sb : BitVec 4) : Field :=
  vecOp c vd 4 fun n cl => lanes2 (fun i a b => rndV n i ((f32 a).mul (f32 b))) (cl.vec va) (List.replicate 128 ((cl.s sb).setWidth 32))

/-- VEXP2 (R76, R77). -/
def fieldVexp2 (c : Nat) (vd va : BitVec 4) : Field := vecOp c vd 12 fun _ cl => lanes1 (fExp2 0) (cl.vec va)

/-- VEXP (R76). -/
def fieldVexp (c : Nat) (vd va : BitVec 4) : Field := vecOp c vd 14 fun _ cl => lanes1 fExp (cl.vec va)

/-- VRCP (R76, R77). -/
def fieldVrcp (c : Nat) (vd va : BitVec 4) : Field := vecOp c vd 10 fun _ cl => lanes1 (fRcp 2) (cl.vec va)

/-- VRSQRT (R76, R77). -/
def fieldVrsqrt (c : Nat) (vd va : BitVec 4) : Field := vecOp c vd 12 fun _ cl => lanes1 fRsqrt (cl.vec va)

/-- VDIV (R76). -/
def fieldVdiv (c : Nat) (vd va vb : BitVec 4) : Field :=
  vecOp c vd 14 fun _ cl => lanes2 (fun _ a b => fDiv a b) (cl.vec va) (cl.vec vb)

/-- VSUMR: every lane the pairwise tree sum of va's lanes (R148). -/
def fieldVsumr (c : Nat) (vd va : BitVec 4) : Field :=
  vecOp c vd 10 fun n cl => List.replicate 128 (treeSum (fun a b => rndV n 0 ((f32 a).add (f32 b))) 7 (cl.vec va))

/-- VMAXR: every lane the maximum of va's lanes (R75). -/
def fieldVmaxr (c : Nat) (vd va : BitVec 4) : Field :=
  vecOp c vd 8 fun n cl => List.replicate 128 (treeSum (fmaxV n 0) 7 (cl.vec va))

/-- VABS: the sign cleared. -/
def fieldVabs (c : Nat) (vd va : BitVec 4) : Field := vecOp c vd 2 fun _ cl => lanes1 (fun a => a &&& 0x7FFFFFFF) (cl.vec va)

/-- VNEG: the sign inverted. -/
def fieldVneg (c : Nat) (vd va : BitVec 4) : Field := vecOp c vd 2 fun _ cl => lanes1 (fun a => a ^^^ 0x80000000) (cl.vec va)

/-- VCVTIF: INT32 to FP32 under round-to-nearest-even. -/
def fieldVcvtif (c : Nat) (vd va : BitVec 4) : Field := vecOp c vd 4 fun _ cl => lanes1 cvtIF (cl.vec va)

/-- VCVTFI: FP32 to INT32 rounded, saturated, NaN to 0. -/
def fieldVcvtfi (c : Nat) (vd va : BitVec 4) : Field := vecOp c vd 4 fun _ cl => lanes1 cvtFI (cl.vec va)

/-- VIADD: INT32 sum, saturating. -/
def fieldViadd (c : Nat) (vd va vb : BitVec 4) : Field :=
  vecOp c vd 2 fun _ cl => lanes2 (fun _ a b => (addI32 a b.toInt).1) (cl.vec va) (cl.vec vb)

/-- VMOV: a copy. -/
def fieldVmov (c : Nat) (vd va : BitVec 4) : Field := vecOp c vd 1 fun _ cl => lanes1 (fun a => a) (cl.vec va)

end Sys2Proof.Machine
end

