-- ==== Sys2Proof/Machine/Edge.lean ====
section
/-! DEFINITION. One delivered aclk edge of a cluster: the reads of the aclk, then everything due at its end, in issue order, then the words of
the fill and copy engine and of streams in the slots left open (spec/04_cluster.md R128, R145, R151; spec/05_scratchpad.md R159 to R163,
R171, R174). -/

namespace Sys2Proof.Machine

/-- A semaphore raised by n: it stops at 65,535 with a sem_ovf event to its owner (R130). -/
def Chip.raiseSem (ch : Chip) (k : Clock) (r j n : Nat) : Chip :=
  let v := look 0 (ch.rg r).sems j + n
  let ch' := ch.modRg r fun g => { g with sems := put 0 g.sems j (satTo 0xFFFF v) }
  if v ≤ 0xFFFF then ch'
  else match (List.range 8).find? fun p => (ch.pt p).valid && (ch.pt p).ownsSem r j with
    | some p => ch'.raise k p 0xE012 .ok 0 (toBe r 1 ++ toBe j 1 ++ zeros 2)
    | none => ch'

/-- A register write by the scalar unit takes effect (R113, R153): OAG registers, CLU_NUM_CTRL, CLU_NUM_STATUS, the seed. -/
def Cluster.writeLocal (c : Cluster) (n : Nat) (v : Word) : Cluster :=
  if n < 0x0E then { c with oag0 := c.oag0.write n v }
  else if 0x10 ≤ n ∧ n < 0x1E then { c with oag1 := c.oag1.write (n - 0x10) v }
  else if n = 0x20 then { c with satFp := v.getLsbD 0 }
  else if n = 0x21 then { c with num := c.num.clear v.toNat }
  else if n = 0x22 then { c with seedLo := v }
  else if n = 0x23 then { c with seedHi := v, seed := v ++ c.seedLo, mixed := none, draws := 0 }
  else c

/-- What a landing does to its cluster; a word whose bank is not on takes nothing (log entry 61). -/
def Cluster.land (c : Cluster) : Landing → Cluster
  | .vreg r vals => c.setVec r vals
  | .sreg r v => c.setS r v
  | .spd a bytes => if c.bankOn (bankOf (a / 32)) then c.writeWord a bytes 0 else c
  | .stn a bytes => if c.bankOn (bankOf (a / 32)) then c.writeWord a bytes 0 else c
  | .reg n v => c.writeLocal n v
  | .role n => { c with role := c.role ^^^ BitVec.twoPow 16 n }
  | .sem _ _ _ => c
  | .rel _ _ _ => c

/-- The landings due at the end of aclk t, in issue order. -/
def Cluster.due (c : Cluster) : List Landing := (c.flight.filter fun f => decide (f.due ≤ c.aclk)).map (·.what)

/-- The cluster after a delivered edge, its region's semaphores and streams apart (R91, R109, R145). Of an array or load event and a clear of
CLU_NUM_STATUS in one aclk the clear wins (log entry 57). -/
def Cluster.step (c : Cluster) (pcid n : Nat) : Cluster :=
  let r := (c.arrayEdge pcid).vldEdge pcid n
  let l := c.due.foldl Cluster.land r
  { l with flight := r.flight.filter (fun f => decide (c.aclk < f.due)), aclk := c.aclk + 1, entryW := [],
           uses := l.uses.filter (fun u => decide (c.aclk < u.1)), ports := l.ports.filter (fun u => decide (c.aclk < u.1)) }.count 8 1

/-! ### The fill and copy engine (R171) -/

/-- The bytes a fill writes from offset `off` of its range on. -/
def fillBytes (pat : Word) (off n : Nat) : List Byte := (List.range n).map fun i => BitVec.ofNat 8 (bitsAt pat.toNat (8 * ((off + i) % 4)) 8)

/-- Offset and length of the 128 bytes an operation moves next: ascending for a fill and when dst lies below src, else descending. -/
def FillCopy.chunk (o : FillCopy) : Nat × Nat :=
  let n := min 128 (o.len - o.moved)
  (if o.copy && decide (o.src ≤ o.dst) then o.len - o.moved - n else o.moved, n)

/-- The operation whose next chunk finds its slots A and W open in this aclk, no STN in flight on its words. -/
def Cluster.opNow (c : Cluster) : Option FillCopy :=
  match c.opBusy with
  | none => none
  | some o =>
    let x := o.chunk
    let ws := spdWords (o.dst + x.1) x.2
    if o.len ≤ o.moved || ws.any (fun w => c.slotHeld 3 (bankOf w) || c.stnOn w) ||
        (o.copy && (spdWords (o.src + x.1) x.2).any fun w => c.slotHeld 0 (bankOf w)) then none
    else some o

/-- Moves a chunk whose source is read from the cluster as it was before the edge: a word whose bank is not on and one whose source cannot be
corrected are not written (R157, log entries 64 and 65); a fill writes the pattern the register holds then (log entry 63). -/
def Chip.moveChunk (ch : Chip) (k : Clock) (c : Nat) (was : Cluster) (o : FillCopy) : Chip :=
  let x := o.chunk
  let dst := spdWords (o.dst + x.1) x.2
  let src := if o.copy then spdWords (o.src + x.1) x.2 else []
  let put := fun (y : Cluster) (i : Nat) =>
    let w := dst.getD i 0
    let s := src.getD i 0
    if !y.bankOn (bankOf w) || o.copy && (was.lostWord s || !was.bankOn (bankOf s)) then y
    else y.writeWord (w * 32) (if o.copy then was.read c s else fillBytes y.opPat (x.1 + 32 * i) 32) 0
  (ch.modCl c fun y =>
    let z := (((List.range dst.length).foldl put y).tearFronts (o.dst + x.1) x.2).count 3 (dst.length + src.length)
    { z with opBusy := some { o with moved := o.moved + x.2 } }).eccReads k c 0 (src.filter fun w => was.bankOn (bankOf w))

/-! ### Streams at the banks (R163, R174) -/

/-- Staged words reach the banks; one whose bank is not on stops its stream and is not stored. A half whose last byte is in the banks is
marked ready. -/
def Chip.landStaged (ch : Chip) (k : Clock) (c : Nat) (served kept : List Staged) : Chip :=
  if served.isEmpty then ch
  else
    let ch := ch.modCl c fun x => { x with staged := kept.filter fun s => decide ((ch.str s.region s.stream).st = .active) }
    let ch := served.foldl (fun h s =>
      if (h.str s.region s.stream).st ≠ .active then h else h.spdPut k s.region s.stream c s.addr s.bytes s.form) ch
    (served.map fun s => (s.region, s.stream, s.half)).eraseDups.foldl (fun h e => h.halfCheck k e.1 e.2.1 e.2.2) ch

/-- How many consecutive words from w on, at most n, can be read in this aclk: one a bank, in slot N left open and not in `taken`. -/
def Cluster.readRun (c : Cluster) (taken : List Nat) (w : Nat) : Nat → Nat
  | 0 => 0
  | n + 1 => if taken.contains (bankOf w) || c.slotHeld 2 (bankOf w) then 0 else c.readRun (bankOf w :: taken) ((w + 1) % 131072) n + 1

/-- Bytes of a range of the scratchpad that this aclk's open slots N deliver beyond those read already, with the words. -/
def Cluster.readMore (c : Cluster) (pcid : Nat) (taken : List Nat) (a len have_ : Nat) : List Nat × List Byte :=
  let from_ := a + have_
  let ws := (spdWords from_ (len - have_)).take (c.readRun taken (from_ % spdSize / 32) 16)
  (ws, ((ws.flatMap (c.read pcid)).drop (from_ % 32)).take (len - have_))

/-- The outbound requests of a cluster whose bytes are not all read, and its raw blocks for the encoder: stream, half, address, length,
bytes read so far, whether for the encoder. -/
def Chip.outReads (ch : Chip) (c : Nat) : List (Nat × Bool × Nat × Nat × Nat × Bool) :=
  let r := regionOf c
  let g := ch.rg r
  let here : Desc → Bool := fun d => decide (d.dir = 1) && decide (d.pcid ch = some c)
  (g.streams.flatMap fun e =>
    e.2.reqs.filterMap fun q =>
      match (e.2.half q.half).desc with
      | some d => if q.write && here d && !q.drop && decide (q.data.length < q.len) then some (e.1, q.half, (e.2.half q.half).spd d q.half q.idx, q.len, q.data.length, false) else none
      | none => none) ++
  (match g.encQueue.head? with
   | some (st, h, i) =>
     (match ((g.str st).half h).desc with
      | some d => if here d && decide (g.encData.length < 4096) then [(st, h, ((g.str st).half h).spd d h i, 4096, g.encData.length, true)] else []
      | none => [])
   | none => [])

/-- Bytes read for the oldest request of a half that lacks some. -/
def Stream.addRead (y : Stream) (h : Bool) (bs : List Byte) : Stream :=
  { y with reqs := takeFirst (fun q => q.write && decide (q.half = h) && decide (q.data.length < q.len)) (fun q => { q with data := q.data ++ bs }) y.reqs }

/-- Outbound reads of an aclk: each in turn takes the banks whose slot N is open; the first that meets a bank not on stops its stream. -/
def Chip.readOut (ch : Chip) (k : Clock) (c : Nat) (was : Cluster) : Chip :=
  ((ch.outReads c).foldl (fun (s : Chip × List Nat) e =>
    let h := s.1
    let r := regionOf c
    if (h.str r e.1).st ≠ .active then s
    else
      let x := was.readMore c s.2 e.2.2.1 e.2.2.2.1 e.2.2.2.2.1
      if x.1.any fun w => !was.bankOn (bankOf w) then (h.stopStream k r e.1 2, s.2)
      else
        let ctx := match (h.str r e.1).active with | some d => d.ctx | none => 0
        let h := h.eccReads k c ctx x.1
        let h := if e.2.2.2.2.2 then h.modRg r fun g => { g with encData := g.encData ++ x.2 }
          else h.modStr r e.1 (·.addRead e.2.1 x.2)
        (h, x.1.map bankOf ++ s.2)) (ch, [])).1

/-- What streams do at a cluster's banks in an aclk (R163): also while the cluster is parked (R441). -/
def Chip.streamEdge (ch : Chip) (k : Clock) (c : Nat) (was : Cluster) (taken : List Nat) : Chip :=
  let s := was.serve taken was.staged
  (ch.readOut k c was).landStaged k c s.1 s.2

/-! ### The edge -/

/-- One edge delivered to a cluster: the aclk's reads are checked, its landings take effect, semaphores it signalled rise, halves it released
pass to their engine, and the fill and copy engine and then streams take the slots W, A and N left open. -/
def Chip.edge (ch : Chip) (k : Clock) (c : Nat) : Chip :=
  let cl := ch.cl c
  let ch := (cl.frontReads ++ cl.vldReads).foldl (fun h x => h.eccReads k c x.1 x.2) ch
  let ch := { (ch.modCl c fun x => x.step c ch.free) with free := ch.free + cl.vlds.length }
  let ch := cl.due.foldl (fun h w => match w with | .sem r j n => h.raiseSem k r j n | .rel r st half => h.handOver k r st half | _ => h) ch
  match cl.opNow with
  | some o => (ch.moveChunk k c cl o).streamEdge k c cl ((spdWords (o.dst + o.chunk.1) o.chunk.2).map bankOf)
  | none => ch.streamEdge k c cl []

end Sys2Proof.Machine
end

