-- ==== Sys2Proof/Machine/Sync.lean ====
section
/-! DEFINITION. The stream/sync field, waits and captures (spec/04_cluster.md R126 to R140; spec/05_scratchpad.md R166, R167;
spec/06_streams_barriers.md R208 to R211; spec/15_power_clocks_thermal.md R443; spec/16_faults_recovery.md R455 to R460, R464, R477). -/

namespace Sys2Proof.Machine

/-! ### Filler (R443) -/

/-- The present filler level, in 256ths. -/
def Filler.level (f : Filler) (ns : Nat) : Nat :=
  let steps : Nat := if f.span = 0 then 16 else min 16 ((ns - f.since) * 16 / f.span)
  (((f.start : Int) + ((f.target : Int) - f.start) * steps / 16)).toNat

def Filler.ramp (f : Filler) (ns target span : Nat) : Filler := { start := f.level ns, target := target, since := ns, span := span, downDue := none }

/-- The filler level a partition's PWR_FILLp asks for, in 256ths (R448). -/
def fillTarget (w : Word) : Nat := if w.getLsbD 0 then bitsAt w.toNat 1 4 * 16 else 0

/-- Whether a slot of a cluster waits on a barrier's open generation. -/
def Cluster.waitsBar (c : Cluster) (b gen : Nat) : Bool :=
  (List.range 4).any fun n => match (c.slot n).standing with | some w => decide (w.on = .bar b gen) | none => false

/-- Ramps up the filler of every cluster that waits on a generation whose near has fired (R443). -/
def Chip.fillUp (ch : Chip) (k : Clock) (p b : Nat) : Chip :=
  let x := (ch.pt p).bar b
  if !x.near then ch
  else (ch.clustersOf p).foldl (fun h c =>
    h.modCl c fun y => if y.waitsBar b x.arrGen.toNat && y.filler.target ≠ fillTarget x.fill then { y with filler := y.filler.ramp k.localNs (fillTarget x.fill) 1000 } else y) ch

/-! ### Captures (R457 to R460) -/

/-- The plan record of a slot for a key. -/
def Slot.record (s : Slot) (key : Nat) : List PlanRange :=
  match s.plan.find? fun x => x.key = key with | some x => x.ranges | none => []

/-- The ranges a capture carries into the mirror, and those a restore reads from memory. -/
def Cluster.carried (c : Cluster) (keys : List (Nat × Nat)) : List PlanRange := (keys.flatMap fun e => (c.slot e.1).record e.2).filter fun x => decide (x.src = 0)
def Cluster.reread (c : Cluster) (keys : List (Nat × Nat)) : List PlanRange := (keys.flatMap fun e => (c.slot e.1).record e.2).filter fun x => decide (x.src ≠ 0)

/-- Starts a capture: 16 + ceil(bytes / 512) aclk (R457). -/
def Cluster.startCapture (c : Cluster) (keys : List (Nat × Nat)) : Cluster :=
  let all := (match c.capture with | some x => x.keys | none => []) ++ keys
  { c with capture := some { endAt := c.aclk + 16 + ceilDiv ((c.carried all).map (·.len)).sum 512, keys := all } }

/-- The streams a capture records (R459). -/
def Chip.streamRecs (ch : Chip) (r lcid : Nat) : List StreamRec :=
  (List.range 64).filterMap fun n =>
    let x := ch.str r n
    match x.last with
    | some d => if d.dir ≠ 2 && decide (d.lcid = lcid) && decide (x.st = .active) then
        some { stream := n, active := x.active, next := x.next, h0 := x.h0, h1 := x.h1, nextHalf := x.nextHalf, handed := x.handed, done := x.done, descFb := x.descFb } else none
    | none => none

/-- The image a capture makes (R132, R455). -/
def Chip.imageOf (ch : Chip) (c lcid : Nat) (keys : List (Nat × Nat)) : Image :=
  let cl := ch.cl c
  let p := (ch.ownerOf lcid).getD 0
  { slots := cl.slots, cur := cl.cur, sreg := cl.sreg, oag0 := cl.oag0, oag1 := cl.oag1, satFp := cl.satFp, seed := cl.seed, mixed := cl.mixed,
    dbuf := cl.dbuf, role := cl.role, streams := ch.streamRecs (regionOf c) lcid,
    arrivals := ((List.range 32).filterMap fun b => let n := look 0 ((ch.pt p).bar b).lastArr lcid; if n = 0 then none else some (b, n)),
    carry := (cl.carried keys).map fun x => (x.spd, (spdWords x.spd x.len).flatMap (cl.read c)), dvas := cl.reread keys }

/-- CHECKPOINT_CAPTURE_COMPLETE: the image becomes current, issue resumes, replay ends, retired descriptors go, and the semaphore log
restarts (R457, R459, R460, R464). A carried word that cannot be corrected abandons the capture (R457). -/
def Chip.captureComplete (ch : Chip) (k : Clock) (c : Nat) : Chip :=
  match (ch.cl c).capture, (ch.cl c).lcid with
  | some cp, some l =>
    if (ch.cl c).aclk < cp.endAt then ch
    else
      let cl := ch.cl c
      let ws := (cl.carried cp.keys).flatMap fun x => spdWords x.spd x.len
      let ch := (ch.modCl c fun x => { x with capture := none }).eccReads k c (ch.cl c).curSlot.ctx ws
      if ws.any cl.lostWord then ch
      else
        let img := ch.imageOf c l cp.keys
        let r := regionOf c
        let ch := (ch.modMir r l fun m => { m with current := some img, log := [], overflow := false }).modCl c fun x => { x with replay := none }
        (List.range 64).foldl (fun h n => h.modStr r n fun x => match x.last with | some d => if d.lcid = l && d.dir ≠ 2 then { x with retired := [] } else x | none => x) ch
  | _, _ => ch

def execCheckpointCaptureComplete (c : Nat) (s : State) : Res := onChip s fun k ch => ch.captureComplete k c

/-! ### Arrivals (R131, R208 to R211) -/

/-- Members of a barrier in this package. -/
def Barrier.members (x : Barrier) : List Nat := (List.range 64).filter fun l => x.mask.getLsbD l

def Barrier.count (x : Barrier) : Nat := ((List.range 64).filter fun l => x.arrived.getLsbD l).length

/-- The barrier after one member's arrival: its kind, the member's mark and generation, near (R208, R210, R211). -/
def Barrier.join (x : Barrier) (l : Nat) (ckpt : Bool) (at_ : Option (Nat × Nat)) : Barrier :=
  let y := { x with arrived := x.arrived ||| BitVec.twoPow 64 l, lastArr := put 0 x.lastArr l (x.arrGen.toNat + 1),
                    ckpt := if x.arrived = 0 then ckpt else x.ckpt, ckptPtr := if ckpt then put none x.ckptPtr l at_ else x.ckptPtr }
  let n := y.members.length
  if !y.near && decide (ceilDiv (7 * n) 8 ≤ y.count) then { y with near := true } else y

/-- Whether a barrier's members lie on one die (R211). -/
def Chip.oneDie (ch : Chip) (x : Barrier) : Bool :=
  match x.members.map fun l => ch.regionOfLcid l / 4 with
  | [] => false
  | d :: t => t.all fun e => decide (e = d)

/-- A live arrival of lcid l at barrier b of partition p; none when it is illegal: not a member, arrived already, or of the other kind
(R209, R210). -/
def Chip.arriveLive (ch : Chip) (k : Clock) (c p l b : Nat) (ckpt : Bool) (at_ : Option (Nat × Nat)) : Option Chip :=
  let x := (ch.pt p).bar b
  if !x.mask.getLsbD l || x.arrived.getLsbD l || (x.arrived ≠ 0 && x.ckpt ≠ ckpt) then none
  else
    let y := x.join l ckpt at_
    let ch := ch.modBar p b fun _ => y
    if y.count < y.members.length then some ch
    else if y.job.isNone then some (ch.modBar p b (Barrier.release (ch.pt p).fill (if ch.oneDie y then some (c, (ch.cl c).aclk + 2) else none)))
    else some ((ch.modBar p b fun z => { z with localDone := some k.localNs }).barrierUp p b)

/-- The generation the cluster last arrived at for a barrier id, plus 1; 0 for none: the replayed one while the lcid replays (R131, R209). -/
def Chip.lastArrival (ch : Chip) (c p b : Nat) : Nat :=
  match (ch.cl c).lcid, (ch.cl c).replay with
  | some _, some r => look 0 r.arrived b
  | some l, none => look 0 ((ch.pt p).bar b).lastArr l
  | none, _ => 0

/-- An arrival of a cluster: live, or while its lcid replays placed by its number and absorbed when the lcid has made it already or its
generation is released (R209, R464). A replayed CKPT of a released generation captures at once. -/
def Chip.arrive (ch : Chip) (k : Clock) (c b : Nat) (ckpt : Bool) : Option Chip :=
  match (ch.cl c).lcid.bind fun l => (ch.ownerOf l).map fun p => (l, p) with
  | none => none
  | some (l, p) =>
    let s := (ch.cl c).curSlot
    let key := ((ch.cl c).cur, s.ptr)
    match (ch.cl c).replay with
    | none => ch.arriveLive k c p l b ckpt (some key)
    | some r =>
      let x := (ch.pt p).bar b
      let gen := look 0 r.arrived b % 65536
      let ch := ch.modCl c fun y => { y with replay := some { r with arrived := put 0 r.arrived b (gen + 1) } }
      let behind := (x.arrGen.toNat + 65536 - gen) % 65536
      if 0 < behind && decide (behind < 32768) then some (if ckpt then ch.modCl c fun y => y.startCapture [key] else ch)
      else if behind = 0 && x.mask.getLsbD l && x.arrived.getLsbD l then some ch
      else ch.arriveLive k c p l b ckpt (some key)

/-! ### The fields that wait (R126, R127) -/

/-- What a waiting field waits on, after what it does before it waits; none: the entry is illegal. -/
abbrev WaitField := Clock → Chip → Cluster → Option (Chip × WaitOn)

/-- The wait of a WAITBAR, ARRWAIT or CKPT (R131); none for a cluster that has made no arrival at the id. -/
def Chip.barWait (ch : Chip) (c b : Nat) : Option (Chip × WaitOn) :=
  let g := ch.lastArrival c (ch.cl c).curSlot.part b
  if g = 0 then none else some (ch, .bar b (g - 1))

/-- WAITSEM: until the semaphore's value is at least n; it is then lowered by n (R127, R129). -/
def waitSem (c : Nat) (sem : BitVec 8) (n : BitVec 6) : WaitField := fun _ ch cl =>
  if (ch.pt cl.curSlot.part).ownsSem (regionOf c) sem.toNat then some (ch, .sem sem.toNat n.toNat) else none

/-- WAITBAR: until the generation this cluster last arrived at is released (R131). -/
def waitBar (c : Nat) (bar : BitVec 5) : WaitField := fun _ ch _ => ch.barWait c bar.toNat

/-- ARRWAIT: arrives, then waits as WAITBAR (R127). -/
def waitArr (c : Nat) (bar : BitVec 5) : WaitField := fun k ch _ => (ch.arrive k c bar.toNat false).bind fun h => h.barWait c bar.toNat

/-- CKPT: ARRWAIT on a checkpoint barrier (R127, R210). -/
def waitCkpt (c : Nat) (bar : BitVec 5) : WaitField := fun k ch _ => (ch.arrive k c bar.toNat true).bind fun h => h.barWait c bar.toNat

/-- The physical half that a stream's half field names on a cluster (R167). -/
def Chip.halfOf (ch : Chip) (c st : Nat) (h : Bool) : Bool :=
  let x := ch.str (regionOf c) st
  (ch.cl c).physHalf (x.active.or x.last) h

/-- WAITHALF: until the half is ready for the cluster (R127, R194). -/
def waitHalf (c : Nat) (stream : BitVec 6) (half : Bool) : WaitField := fun _ ch cl =>
  if (ch.pt cl.curSlot.part).ownsStream (regionOf c) stream.toNat then some (ch, .half stream.toNat (ch.halfOf c stream.toNat half)) else none

/-! ### The fields that do not wait -/

/-- YNOP has no effect. -/
def fieldYnop : Field := fun _ ch _ => some ch

/-- SIGSEM: raises the value by n, visible three aclk later; a replay absorbs what the log holds (R127, R128, R130, R464). -/
def fieldSigsem (c : Nat) (sem : BitVec 8) (n : BitVec 6) : Field := fun k ch cl =>
  let op : SemOp := { wait := false, sem := sem.toNat, n := n.toNat }
  if !(ch.pt cl.curSlot.part).ownsSem (regionOf c) sem.toNat then none
  else some (match ch.absorb c op with
    | .absorbed => ch.replayStep c
    | .mismatch => ch.replayMismatch k c
    | .live => (ch.logSem c op).modCl c fun x => x.later (x.aclk + 2) (.sem (regionOf c) sem.toNat n.toNat))

/-- ARRIVE: arrives at the barrier (R208). -/
def fieldArrive (c : Nat) (bar : BitVec 5) : Field := fun k ch cl =>
  (ch.arrive k c bar.toNat false).map fun h => h.fillUp k cl.curSlot.part bar.toNat

/-- RELHALF: the engine sees the half from the next aclk on (R128, R190); on a copy stream or a stopped one it hands nothing (R194). -/
def fieldRelhalf (c : Nat) (stream : BitVec 6) (half : Bool) : Field := fun _ ch cl =>
  let r := regionOf c
  let x := ch.str r stream.toNat
  if !(ch.pt cl.curSlot.part).ownsStream r stream.toNat then none
  else if (match x.last with | some d => decide (d.dir = 2) | none => false) || decide (x.st = .faulted) || decide (x.st = .stopping) then some ch
  else some (ch.modCl c fun y => y.later y.aclk (.rel r stream.toNat (ch.halfOf c stream.toNat half)))

/-- SWAP: inverts the pair's role bit for entries issued from the next aclk on (R166). -/
def fieldSwap (c : Nat) (pair : BitVec 4) : Field := fun _ ch cl =>
  if pairValid (look 0 cl.dbuf pair.toNat) then some (ch.modCl c fun x => x.later x.aclk (.role pair.toNat)) else none

/-- YIELDPT: with a ready slot of higher priority the cluster switches once the entry has issued (R135); a started slot that is not current
shows state 2 (DESIGN CHOICE, log entry 60). -/
def fieldYieldpt (c : Nat) : Field := fun _ ch cl =>
  if ((List.range 4).any fun n => decide (n ≠ cl.cur) && (cl.slot n).ready && decide (cl.curSlot.prio < (cl.slot n).prio)) then
    some (ch.modCl c fun x => { x with yielding := true })
  else some ch

/-! ### Heartbeats (R140) -/

/-- Whether a cluster is powered and not parked (R140). -/
def Cluster.beats (x : Cluster) : Bool := !x.parked && (decide (x.svc = .owned) || decide (x.svc = .clean))

/-- HEARTBEAT: the H-die hears the sequencer of a powered cluster (R140). -/
def execHeartbeat (c : Nat) (s : State) : Res := onChip s fun k ch => ch.modCl c fun x => if x.beats then { x with lastBeat := k.localNs } else x

/-- HEARTBEAT_LOSS: no heartbeat for 2 µs is cause 7 (R449); the count of 2 µs then begins afresh. -/
def execHeartbeatLoss (c : Nat) (s : State) : Res :=
  onChip s fun k ch =>
    if (ch.cl c).beats && decide ((ch.cl c).lastBeat + 2000 ≤ k.localNs) then
      (ch.modCl c fun x => { x with lastBeat := k.localNs }).fault k 7 (.cluster c) 0
    else ch

end Sys2Proof.Machine
end

