-- ==== Sys2Proof/Machine/Partition.lean ====
section
/-! DEFINITION. Partitions and contexts, the awning's positions and power collapse (spec/12_partitions_security.md R346 to R355;
spec/06_streams_barriers.md R204 to R206; spec/05_scratchpad.md R175 to R178). -/

namespace Sys2Proof.Machine

/-! ### Wheel positions (R201, R204, R206) -/

/-- A 6-bit index bit-reversed (R204). -/
def rev6 (i : Nat) : Nat := bitsAt i 0 1 * 32 + bitsAt i 1 1 * 16 + bitsAt i 2 1 * 8 + bitsAt i 3 1 * 4 + bitsAt i 4 1 * 2 + bitsAt i 5 1

/-- The share a register byte holds. -/
def shareAt (w : Word) (i : Nat) : Nat := bitsAt w.toNat (8 * i) 7

/-- The positions of a wheel a partition holds as read (or remote) or write positions, most recent first. -/
def Chip.heldOn (ch : Chip) (w p : Nat) (write : Bool) : List Nat :=
  (sortBy (fun i => (ch.wheelAt w i).order) ((List.range 64).filter fun i => decide ((ch.wheelAt w i).owner = some p) && decide ((ch.wheelAt w i).write = write))).reverse

def Chip.freePos (ch : Chip) (w : Nat) : List Nat := ((List.range 64).map rev6).filter fun i => (ch.wheelAt w i).owner.isNone && !(ch.wheelAt w i).zeroing

def Chip.setPos (ch : Chip) (w i : Nat) (x : WheelPos) : Chip := { ch with wheels := put {} ch.wheels (wheelKey w i) x }

/-- A partition gives up the positions it took most recently. -/
def Chip.losePos (ch : Chip) (w p : Nat) (write : Bool) (n : Nat) : Chip :=
  ((ch.heldOn w p write).take ((ch.heldOn w p write).length - n)).foldl (fun c i => c.setPos w i {}) ch

/-- A partition takes the lowest-ranked free positions. -/
def Chip.gainPos (ch : Chip) (w p : Nat) (write : Bool) (n : Nat) : Chip :=
  ((ch.freePos w).take (n - (ch.heldOn w p write).length)).foldl
    (fun c i => { c.setPos w i { owner := some p, write := write, order := c.wheelOrder } with wheelOrder := c.wheelOrder + 1 }) ch

/-- A partition's positions as its shares say: what it loses first, then what it gains; the zeroing engine takes those that come free of
partitions on a stack where it has frames of a teardown pending (R259). -/
def Chip.setShares (ch : Chip) (p : Nat) (rd wr rm : Word) : Chip :=
  let ch := (List.range 4).foldl (fun c s =>
    ((((c.losePos s p false (shareAt rd s)).losePos s p true (shareAt wr s)).gainPos s p false (shareAt rd s)).gainPos s p true (shareAt wr s))) ch
  let ch := (List.range 4).foldl (fun c d => [4 + 2 * d, 5 + 2 * d].foldl (fun c w => (c.losePos w p false (shareAt rm d)).gainPos w p false (shareAt rm d)) c) ch
  ((List.range 4).filter fun s => decide (0 < ch.tearFrames s)).foldl (fun c s => c.zeroPositions s) ch

/-- The shares the other partitions hold at a place. -/
def Chip.otherShares (ch : Chip) (p i : Nat) (f : Partition → Word) : Nat :=
  ((List.range 8).map fun q => if q ≠ p && (ch.pt q).valid then shareAt (f (ch.pt q)) i else 0).sum

/-- Whether new shares would pass 64 on some wheel (R206). -/
def Chip.sharesOver (ch : Chip) (p : Nat) (rd wr rm : Word) : Bool :=
  (List.range 4).any fun i =>
    decide (64 < shareAt rd i + shareAt wr i + ch.otherShares p i (·.awnRd) + ch.otherShares p i (·.awnWr)) ||
    decide (64 < shareAt rm i + ch.otherShares p i (·.awnRm))

/-- Whether new shares need positions that teardown zeroing holds (R206, R259). -/
def Chip.sharesHeld (ch : Chip) (p : Nat) (rd wr : Word) : Bool :=
  (List.range 4).any fun s =>
    decide ((ch.freePos s).length + (ch.heldOn s p false).length + (ch.heldOn s p true).length < shareAt rd s + shareAt wr s)

/-- The first of awning bytes at an offset whose share is above 64. -/
def awnBad (bs : List Byte) (off : Nat) : List (Bool × Refuse) :=
  (List.range 12).map fun i => (decide (64 < leAt bs (off + i) 1 % 128), (.badField, some (off + i)))

def awnWord (bs : List Byte) (off : Nat) : Word := BitVec.ofNat 32 (leAt bs off 4)

/-! ### Id ranges (R348, R353) -/

/-- The lowest start of a free run of n below a limit, beside the runs in use. -/
def lowestRun (used : List (Nat × Nat)) (n limit : Nat) : Option Nat :=
  (sortBy id (0 :: used.map fun u => u.1 + u.2)).find? fun s =>
    decide (s + n ≤ limit) && !(used.any fun u => decide (u.1 < s + n) && decide (s < u.1 + u.2))

/-- The runs of an id space that valid partitions hold. -/
def Chip.runsInUse (ch : Chip) (f : Partition → Nat × Nat) : List (Nat × Nat) :=
  ((ch.parts.filter fun e => e.2.valid).map fun e => f e.2).filter fun u => decide (0 < u.2)

def Chip.sumOf (ch : Chip) (f : Partition → Nat) : Nat := ((ch.parts.filter fun e => e.2.valid).map fun e => f e.2).sum

/-! ### PAR_CREATE (R350, R351, R353) -/

/-- A PAR_CREATE payload. -/
structure CreateReq where
  p : Nat
  conf : Bool
  prio : Nat
  power : Nat
  lcids : BitVec 64
  engines : BitVec 16
  handles : Nat
  contexts : Nat
  sequences : Nat
  ways : List Nat
  streams : List Nat
  sems : List Nat
  frames : List Nat
  rd : Word
  wr : Word
  rm : Word
  borrow : BitVec 3
  key : List Byte
  deriving DecidableEq, Repr

def createReq (b : List Byte) : CreateReq :=
  { p := leAt b 0 1, conf := bitAt (leAt b 1 1) 0, prio := leAt b 2 1, power := leAt b 3 1, lcids := BitVec.ofNat 64 (beAt b 4 8),
    engines := BitVec.ofNat 16 (beAt b 12 2), handles := leAt b 14 1, contexts := beAt b 16 2, sequences := beAt b 20 4,
    ways := (List.range 16).map fun r => leAt b (24 + r) 1, streams := (List.range 16).map fun r => leAt b (40 + r) 1,
    sems := (List.range 16).map fun r => beAt b (56 + 2 * r) 2, frames := (List.range 4).map fun s => beAt b (88 + 4 * s) 4,
    rd := awnWord b 104, wr := awnWord b 108, rm := awnWord b 112, borrow := BitVec.ofNat 3 (leAt b 116 1), key := slice b 128 32 }

/-- The regions in which a set of lcids lies (R488). -/
def Chip.regionsOf (ch : Chip) (lcids : BitVec 64) : List Nat := (List.range 16).filter fun r => (List.range 64).any fun l => lcids.getLsbD l && decide (ch.regionOfLcid l = r)

def lcidsOf (m : BitVec 64) : List Nat := (List.range 64).filter fun l => m.getLsbD l

/-- Counts and quotas above the limits of R347. -/
def CreateReq.above (c : CreateReq) : List (Bool × Refuse) :=
  [ (decide (64 < c.power), (.lengthRange, some 3)), (decide (16 < c.handles), (.lengthRange, some 14)), (decide (4096 < c.contexts), (.lengthRange, some 16)),
    (decide (65536 < c.sequences), (.lengthRange, some 20)) ] ++
  (List.range 16).map (fun r => (decide (8 < c.ways.getD r 0), (.lengthRange, some (24 + r)))) ++
  (List.range 16).map (fun r => (decide (64 < c.streams.getD r 0), (.lengthRange, some (40 + r)))) ++
  (List.range 16).map (fun r => (decide (256 < c.sems.getD r 0), (.lengthRange, some (56 + 2 * r)))) ++
  (List.range 4).map (fun s => (decide (516096 < c.frames.getD s 0), (.lengthRange, some (88 + 4 * s))))

/-- The fields that are wrong. -/
def CreateReq.bad (c : CreateReq) (ch : Chip) (b : List Byte) (rs : List Nat) : List (Bool × Refuse) :=
  [ (decide (c.p = 0) || decide (7 < c.p) || (ch.pt c.p).valid, (.badField, some 0)), (decide (1 < leAt b 1 1), (.badField, some 1)),
    (decide (7 < c.prio), (.badField, some 2)),
    ((List.range 16).any fun e => c.engines.getLsbD e && decide (e ∉ rs), (.badField, some 12)),
    (decide (leAt b 15 1 ≠ 0), (.badField, some 15)), (decide (beAt b 18 2 ≠ 0), (.badField, some 18)) ] ++
  (List.range 16).map (fun r => (decide ((c.ways.getD r 0 = 0) = (r ∈ rs)), (.badField, some (24 + r)))) ++
  (List.range 16).map (fun r => (decide (c.streams.getD r 0 ≠ 0) && decide (r ∉ rs), (.badField, some (40 + r)))) ++
  (List.range 16).map (fun r => (decide (c.sems.getD r 0 ≠ 0) && decide (r ∉ rs), (.badField, some (56 + 2 * r)))) ++
  awnBad b 104 ++
  [ (decide (7 < leAt b 116 1), (.badField, some 116)), (decide (slice b 117 11 ≠ zeros 11), (.badField, some 117)),
    (decide (c.key = zeros 32), (.badField, some 128)) ]

/-- What others hold, or the package has no more of. -/
def CreateReq.taken (c : CreateReq) (ch : Chip) (rs : List Nat) : List (Bool × Refuse) :=
  [ ((lcidsOf c.lcids).any fun l => (ch.ownerOf l).isSome || (ch.pcid l).isNone, (.noResource, some 4)),
    (decide (ch.parts.any fun e => e.2.valid && decide (e.2.engines &&& c.engines ≠ 0)), (.noResource, some 12)) ] ++
  (List.range 16).map (fun r => (decide (8 < c.ways.getD r 0 + ch.sumOf fun x => look 0 x.ways r), (.noResource, some (24 + r)))) ++
  rs.map (fun r => ((lowestRun (ch.runsInUse fun x => (look 0 x.strBase r, look 0 x.strCount r)) (c.streams.getD r 0) 64).isNone, (.noResource, some (40 + r)))) ++
  rs.map (fun r => ((lowestRun (ch.runsInUse fun x => (look 0 x.semBase r, look 0 x.semCount r)) (c.sems.getD r 0) 256).isNone, (.noResource, some (56 + 2 * r)))) ++
  [ ((lowestRun (ch.runsInUse fun x => (x.ctxBase, x.ctxCount)) c.contexts 4096).isNone, (.noResource, some 16)),
    ((lowestRun (ch.runsInUse fun x => (x.seqBase, x.seqCount)) c.sequences 65536).isNone, (.noResource, some 20)),
    ((lowestRun (ch.runsInUse fun x => (x.hndBase, x.hndCount)) c.handles 16).isNone, (.noResource, some 14)) ] ++
  (List.range 4).map (fun s => (decide (516096 < c.frames.getD s 0 + ch.sumOf fun x => look 0 x.quota s), (.noResource, some (88 + 4 * s)))) ++
  [ (decide (64 < c.power + ch.sumOf (·.power)), (.noResource, some 3)), (ch.sharesOver c.p c.rd c.wr c.rm, (.noResource, some 104)) ]

/-- What is not ready yet. -/
def CreateReq.waits (c : CreateReq) (ch : Chip) : List (Bool × Refuse) :=
  [ ((lcidsOf c.lcids).any fun l => match ch.pcid l with | some x => decide ((ch.cl x).svc ≠ .clean) | none => false, (.notReady, some 4)) ] ++
  (List.range 4).map (fun s => (decide (c.frames.getD s 0 ≠ 0) && decide (516096 < c.frames.getD s 0 + (ch.sumOf fun x => look 0 x.quota s) + ch.tearFrames s), (.notReady, some (88 + 4 * s)))) ++
  [ (ch.sharesHeld c.p c.rd c.wr, (.notReady, some 104)) ]

/-- The level-1 table's place: 2 MiB each in the device region of the stack of the partition's lowest lcid, the model's place (R225). -/
def Chip.rootFor (ch : Chip) (p : Nat) (lcids : BitVec 64) : Nat := (match (lcidsOf lcids).head? with | some l => ch.regionOfLcid l / 4 | none => 0) * 16384 + 16128 + p

/-- The barriers of a new partition: every lcid a member of each, generation 0 (R208, R351). -/
def newBarriers (lcids : BitVec 64) : Store Barrier :=
  (List.range 32).foldl (fun m b => put {} m b { mask := lcids }) []

/-- A store that holds f's value at each key of a list. -/
def tabOf [DecidableEq α] (d : α) (ks : List Nat) (f : Nat → α) : Store α := ks.foldl (fun m k => put d m k (f k)) []

/-- The partition as PAR_CREATE leaves it. -/
def CreateReq.make (c : CreateReq) (ch : Chip) (rs : List Nat) : Partition :=
  { valid := true, conf := c.conf, prio := c.prio, power := c.power, lcids := c.lcids, engines := c.engines,
    ctxBase := (lowestRun (ch.runsInUse fun x => (x.ctxBase, x.ctxCount)) c.contexts 4096).getD 0, ctxCount := c.contexts,
    seqBase := (lowestRun (ch.runsInUse fun x => (x.seqBase, x.seqCount)) c.sequences 65536).getD 0, seqCount := c.sequences,
    hndBase := (lowestRun (ch.runsInUse fun x => (x.hndBase, x.hndCount)) c.handles 16).getD 0, hndCount := c.handles,
    quota := tabOf 0 (List.range 4) fun s => c.frames.getD s 0, ways := tabOf 0 rs fun r => c.ways.getD r 0,
    wayBase := tabOf 0 rs fun r => (lowestRun (ch.runsInUse fun x => (look 0 x.wayBase r, look 0 x.ways r)) (c.ways.getD r 0) 8).getD 0,
    strBase := tabOf 0 rs fun r => (lowestRun (ch.runsInUse fun x => (look 0 x.strBase r, look 0 x.strCount r)) (c.streams.getD r 0) 64).getD 0,
    strCount := tabOf 0 rs fun r => c.streams.getD r 0,
    semBase := tabOf 0 rs fun r => (lowestRun (ch.runsInUse fun x => (look 0 x.semBase r, look 0 x.semCount r)) (c.sems.getD r 0) 256).getD 0,
    semCount := tabOf 0 rs fun r => c.sems.getD r 0, awnRd := c.rd, awnWr := c.wr, awnRm := c.rm, borrow := c.borrow, tenant := c.key,
    measure := zeros 64, barriers := newBarriers c.lcids, root := ch.rootFor c.p c.lcids }

/-- Streams and semaphores of a partition's ranges at their initial state (R351). -/
def Chip.clearRanges (ch : Chip) (p : Nat) : Chip :=
  let x := ch.pt p
  (List.range 16).foldl (fun c r => c.modRg r fun g =>
    { g with streams := g.streams.filter fun e => !x.ownsStream r e.1, sems := g.sems.filter fun e => !x.ownsSem r e.1,
             semFlight := g.semFlight.filter fun e => !x.ownsSem r e.1, tlb := g.tlb.filter fun t => t.part ≠ p,
             l1cache := g.l1cache.filter fun t => t.1 ≠ p, walks := g.walks.filter fun w => w.part ≠ p }) ch

/-- The clusters a partition is given serve it, its engines are its own. -/
def Chip.giveUnits (ch : Chip) (k : Clock) (p : Nat) : Chip :=
  let ch := (ch.clustersOf p).foldl (fun c x => c.modCl x fun y => { y with svc := .owned, lastBeat := k.localNs }) ch
  ((List.range 16).filter (ch.pt p).ownsEng).foldl (fun c e => c.modEng e fun _ => { part := some p }) ch

def parCreateCmd (q : Req) (k : Clock) (ch : Chip) : Cmd :=
  let c := createReq q.payload
  let rs := ch.regionsOf c.lcids
  checked (c.above ++ c.bad ch q.payload rs ++ [(c.conf && ch.sec.dbgOpen, (.notReady, some 1))] ++ c.taken ch rs ++ c.waits ch)
    (((((ch.setShares c.p c.rd c.wr c.rm).modPt c.p fun _ => c.make ch rs).clearRanges c.p).giveUnits k c.p).modPt c.p fun x => x.extend q.payload) |>.map fun ch' => ch'.reply q .ok []

/-- PAR_CREATE (R350, R351). -/
def execParCreate (q : Req) (s : State) : Res := onChip s (runCmd 0x0201 q (parCreateCmd q))

/-! ### PAR_SET (R352, R354) -/

/-- Whether a partition has an armed stream. -/
def Chip.anyArmed (ch : Chip) (p : Nat) : Bool :=
  (List.range 16).any fun r => (ch.rg r).streams.any fun e => (ch.pt p).ownsStream r e.1 && (e.2.active.isSome || e.2.next.isSome)

/-- Whether two awning words name other position counts. -/
def sharesDiffer (a b : Word) : Bool := (List.range 4).any fun i => decide (shareAt a i ≠ shareAt b i)

def parSetCmd (q : Req) (_ : Clock) (ch : Chip) : Cmd :=
  let b := q.payload
  let p := leAt b 0 1
  let rd := awnWord b 4
  let wr := awnWord b 8
  let rm := awnWord b 12
  let x := ch.pt p
  let changed := sharesDiffer rd x.awnRd || sharesDiffer wr x.awnWr || sharesDiffer rm x.awnRm
  checked
    ([ (decide (7 < p) || !x.valid || x.tearing, (.badField, some 0)), (decide (7 < leAt b 1 1), (.badField, some 1)), (decide (7 < leAt b 3 1), (.badField, some 3)) ] ++
     awnBad b 4 ++
     [ reserved q 16 4, (decide (64 < leAt b 2 1), (.lengthRange, some 2)),
       (decide (64 < leAt b 2 1 + ((List.range 8).map fun i => if i ≠ p && (ch.pt i).valid then (ch.pt i).power else 0).sum), (.noResource, some 2)),
       (ch.sharesOver p rd wr rm, (.noResource, some 4)), (changed && ch.sharesHeld p rd wr, (.notReady, some 4)),
       (changed && ch.anyArmed p, (.notReady, some 4)) ])
    (((ch.setShares p rd wr rm).modPt p fun y =>
      ({ y with prio := leAt b 1 1, power := leAt b 2 1, borrow := BitVec.ofNat 3 (leAt b 3 1), awnRd := rd, awnWr := wr, awnRm := rm } : Partition).extend b).reply q .ok [])

/-- PAR_SET (R352, R354, R206). -/
def execParSet (q : Req) (s : State) : Res := onChip s (runCmd 0x0202 q (parSetCmd q))

/-! ### Collapse (R175 to R178) -/

/-- The lowest free spare row of a bank (R179). -/
def EccRec.freeSpare (e : EccRec) (b : Nat) : Option Nat := (List.range 8).find? fun i => decide (look 0 e.spareRows (b * 8 + i) = 0)

/-- A row of a bank, by bank × 512 + row, mapped to a free spare of its bank (R179, R180). -/
def EccRec.mapRow (e : EccRec) (key : Nat) : EccRec :=
  match e.freeSpare (key / 512) with
  | some i => { e with spareRows := put 0 e.spareRows (key / 512 * 8 + i) (key % 512 + 1), rowErrs := put 0 e.rowErrs key 0 }
  | none => e

/-- Rows pending retirement go to free spares at a collapse, a reset or a boot (R180). -/
def Cluster.mapRows (c : Cluster) : Cluster :=
  { c with ecc := (c.ecc.rowErrs.filter fun e => decide (3 ≤ e.2)).foldl (fun x e => x.mapRow e.1) c.ecc }

def Cluster.rowsPending (c : Cluster) : Bool := c.ecc.rowErrs.any fun e => decide (3 ≤ e.2)

/-- The banks off and on again: every word reads as zero (R158, R172). -/
def Cluster.clearBanks (c : Cluster) : Cluster :=
  { c with spd := [], written := [], subst := [], spdErr := [], opBusy := none, bankReady := [] }.mapRows

/-- The collapse domain after its supply was off (R175). -/
def Cluster.collapsed (c : Cluster) : Cluster :=
  { c with slots := [], cur := 0, issueAt := 0, acted := 0, yielding := false, table := [], loads := [], sreg := [], vreg := [], flight := [], vlds := [],
           entryW := [], uses := [], ports := [], staged := [], arr := {}, oag0 := {}, oag1 := {}, satFp := true, num := {}, seedLo := 0, seedHi := 0, seed := 0,
           mixed := none, draws := 0, dbuf := [], role := 0,
           codec := [], fail1 := 0, fail2 := 0, rawBlocks := 0, lanes := [], replay := none, capture := none, filler := {}, parked := false, unparkAt := none }.clearBanks

/-- Stops every slot of a partition's clusters that runs or waits and meets a condition. -/
def Chip.stopSlots (ch : Chip) (k : Clock) (p : Nat) (f : Slot → Bool) : Chip :=
  (ch.clustersOf p).foldl (fun c x => (List.range 4).foldl (fun c n => if ((c.cl x).slot n).st.busy && f ((c.cl x).slot n) then c.cancelSlot k x n else c) c) ch

/-- Withdraws every stream of a partition whose descriptors meet a condition (R195). -/
def Chip.stopStreams (ch : Chip) (k : Clock) (p : Nat) (f : Stream → Bool) : Chip :=
  (List.range 16).foldl (fun c r => (keysWhere (fun n x => (c.pt p).ownsStream r n && decide (x.st = .active) && f x) (c.rg r).streams).foldl (fun c n => c.stopStream k r n 5) c) ch

/-- Begins a cluster's collapse, for a cause of the model's numbering: 0 none, 1 return from repair, 16 + p teardown of p. -/
def Chip.beginCollapse (ch : Chip) (k : Clock) (c reason : Nat) : Chip := ch.modCl c fun x => { x with svc := .collapsing k.localNs 0 reason }

/-- Whether a partition's streams have nothing in flight. -/
def Chip.streamsDry (ch : Chip) (p : Nat) : Bool :=
  (List.range 16).all fun r => (ch.rg r).streams.all fun e => !(ch.pt p).ownsStream r e.1 || e.2.reqs.isEmpty

def Chip.collapsingFor (ch : Chip) (p : Nat) : Bool :=
  ch.clusters.any fun e => match e.2.svc with | .collapsing _ _ r => decide (r = 16 + p) | _ => false

/-- The fifth step of a teardown, once its clusters have collapsed and nothing of it is in flight: its frames are zeroed, on positions it
held and idle ones (R259, R355). -/
def Chip.tearFrames5 (ch : Chip) (p : Nat) : Chip :=
  if !(ch.pt p).tearing || (ch.pt p).tearStep ≠ 4 || ch.collapsingFor p || !ch.streamsDry p then ch
  else
    let ch := (ch.epochsOf p).foldl (fun c x => c.releaseEpoch x.1 x.2 true) ch
    let fs := keysWhere (fun _ f => decide (f.use = .used p) || decide (f.use = .zeroing p false)) ch.frames
    let ch := fs.foldl (fun c f => c.freeFrame f p true) ch
    (ch.modPt p fun x => { x with quota := [], pages := [], tables := [], awnRd := 0, awnWr := 0, awnRm := 0, tearStep := 5 }).setShares p 0 0 0

/-- A collapse whose 200 samples are done: the domain is powered, its cluster takes a new epoch and is clean; one that returns from repair
waits for its BIST (R176). -/
def Chip.collapseDone (ch : Chip) (k : Clock) (c reason : Nat) : Chip :=
  let pend := (ch.cl c).rowsPending
  let ch := ch.modCl c fun x => { x.collapsed with epoch := x.epoch + 1 }
  let ch := if pend then { ch with boot := { ch.boot with repairDirty := true } } else ch
  if reason = 1 then ch.modCl c fun x => { x with svc := .collapsing k.localNs 200 1 }
  else
    let ch := (ch.modCl c fun x => { x with svc := .clean }).notice k 1 c
    if 16 ≤ reason then ch.tearFrames5 (reason - 16) else ch

/-- COLLAPSE_SUPPLY_SAMPLE: below 0.15 V counts, a sample above restarts the count (R176). -/
def Chip.supplySample (ch : Chip) (k : Clock) (c mv : Nat) : Chip :=
  match (ch.cl c).svc with
  | .collapsing since n reason =>
    if 200 ≤ n then ch
    else
      let n := if mv < 150 then n + 1 else 0
      if n < 200 then ch.modCl c fun x => { x with svc := .collapsing since n reason } else ch.collapseDone k c reason
  | _ => ch

def execCollapseSupplySample (c millivolts : Nat) (s : State) : Res := onChip s fun k ch => ch.supplySample k c millivolts

/-- The clean reserve of a region: a slot in service with no lcid (R25, R178). -/
def Chip.reserveOf (ch : Chip) (r : Nat) : Option Nat :=
  ((List.range 5).map (r * 5 + ·)).find? fun c => decide ((ch.cl c).svc = .clean) && (ch.cl c).lcid.isNone

/-- An lcid moves to another cluster of the repair map, or becomes unavailable. -/
def Chip.moveLcid (ch : Chip) (l fromC : Nat) (toC : Option Nat) : Chip :=
  let ch := ch.modCl fromC fun x => { x with lcid := none }
  let ch := match toC with | some c => ch.modCl c fun x => { x with lcid := some l } | none => ch
  { ch with lcidMap := put none ch.lcidMap l toC }

/-- The region's clean reserve takes an lcid over and serves its partition (R24, R27); the region then has no substitution left (R26). With no
clean reserve the lcid is unavailable (R177). -/
def Chip.useReserve (ch : Chip) (k : Clock) (l c : Nat) : Chip :=
  match ch.reserveOf (regionOf c) with
  | none => ch.moveLcid l c none
  | some n =>
    let ch := (ch.moveLcid l c (some n)).modRg (regionOf c) fun g => { g with reserve := none, inUse := true }
    if (ch.ownerOf l).isSome then ch.modCl n fun x => { x with svc := .owned, lastBeat := k.localNs } else ch

/-- Records a failure of a cluster in the repair map; at the third it is retired (R177, R489). -/
def Chip.recordFailed (ch : Chip) (c : Nat) : Chip :=
  let ch := ch.modCl c fun x => { x with svc := .outOfService, failed := true, failCount := x.failCount + 1, retired := x.retired || decide (3 ≤ x.failCount + 1) }
  { ch with boot := { ch.boot with repairDirty := true } }

/-- COLLAPSE_FAILURE: not verified within 2 ms; the cluster is out of service and the lcid headed for it goes to a clean reserve (R177). -/
def Chip.collapseFailure (ch : Chip) (k : Clock) (c : Nat) : Chip :=
  match (ch.cl c).svc with
  | .collapsing since n reason =>
    if 200 ≤ n || k.localNs < since + 2000000 then ch
    else
      let l := (ch.cl c).lcid
      let ch := (ch.recordFailed c).notice k 2 c
      let ch := match l with
        | some l => ch.useReserve k l c
        | none => ch
      if 16 ≤ reason then ch.tearFrames5 (reason - 16) else ch
  | _ => ch

def execCollapseFailure (c : Nat) (s : State) : Res := onChip s fun k ch => ch.collapseFailure k c

/-! ### PAR_DESTROY and teardown (R355) -/

/-- What a partition's job setups and flows leave behind goes with it (R357, R417). -/
def Chip.dropJobs (ch : Chip) (p : Nat) : Chip :=
  let mine := (ch.fabric.jobs.filter fun e => e.2.valid && decide (e.2.part = p)).map fun e => e.2.job
  { ch with fabric := { ch.fabric with jobs := ch.fabric.jobs.filter (fun e => !(e.2.valid && decide (e.2.part = p))), flows := ch.fabric.flows.filter fun f => f.job ∉ mine,
                                       colls := ch.fabric.colls.filter fun x => x.part ≠ p } }

/-- Steps 1 to 4 of a teardown: tasks cancelled and streams withdrawn, epochs released, keys destroyed, clusters collapsed and engines reset. -/
def Chip.tearDown (ch : Chip) (k : Clock) (p : Nat) : Chip :=
  let cs := ch.clustersOf p
  let ch := { ch with host := { ch.host with sessions := ch.host.sessions.filter fun x => x.part ≠ p, rx := ch.host.rx.filter fun e => e.2.part ≠ p } }
  let ch := ch.modPt p fun x => { x with tearing := true, tearStep := 4, ring := [] }
  let ch := (ch.stopSlots k p fun _ => true).stopStreams k p fun _ => true
  let ch := (ch.epochsOf p).foldl (fun c x => c.releaseEpoch x.1 x.2 true) ch
  let ch := (ch.modPt p fun x => { x with modelKeys := [], jobKeys := [], ckptKey := none, requests := [], staging := [] }).dropJobs p
  let ch := { ch with runs := ch.runs.filter fun r => r.part ≠ p, works := ch.works.filter fun w => w.part ≠ p,
                      seqs := ch.seqs.filter fun e => !(e.2.valid && decide (e.2.part = p)) }
  let ch := cs.foldl (fun c x => c.beginCollapse k x (16 + p)) ch
  let ch := ((List.range 16).filter (ch.pt p).ownsEng).foldl (fun c e => c.modEng e fun _ => {}) ch
  (ch.modPt p fun x => { x with lcids := 0, engines := 0, contexts := [] }).tearFrames5 p

def parDestroyCmd (q : Req) (k : Clock) (ch : Chip) : Cmd :=
  let p := leAt q.payload 0 1
  match firstFail [ (decide (p = 0) || decide (7 < p) || !(ch.pt p).valid || (ch.pt p).tearing, (.badField, some 0)), reserved q 1 3, ch.worksFull q ] with
  | some r => .error r
  | none => .ok ((ch.acceptReply k q 0x0203 (.teardown p) []).tearDown k p)

/-- PAR_DESTROY (R355). -/
def execParDestroy (q : Req) (s : State) : Res := onChip s (runCmd 0x0203 q (parDestroyCmd q))

/-- TEARDOWN_COMPLETE: with the last frame zeroed, ranges, ways, positions and share are free and the management partition hears of it. -/
def Chip.teardownComplete (ch : Chip) (k : Clock) (p : Nat) : Chip :=
  if (ch.pt p).tearing && decide ((ch.pt p).tearStep = 5) && !(ch.frames.any fun f => decide (f.2.use = .zeroing p true)) then
    let ch := (ch.clearRanges p).modPt p fun _ => {}
    match ch.works.find? fun w => decide (w.kind = .teardown p) with
    | some w => ch.complete k w 0xE030 .ok (toBe p 1)
    | none => ch.raise k 0 0xE030 .ok 0 (toBe p 1)
  else ch

def execTeardownComplete (p : Nat) (s : State) : Res := onChip s fun k ch => ch.teardownComplete k p

/-! ### Contexts (R348, R472) -/

/-- The lowest free context id of a partition's range. -/
def Partition.freeCtx (p : Partition) : Option Nat := ((List.range p.ctxCount).map (p.ctxBase + ·)).find? fun c => !p.hasCtx c

/-- CTX_CREATE: replies the new id and 2 reserved bytes. -/
def execCtxCreate (q : Req) (s : State) : Res :=
  onChip s (runCmd 0x0204 q fun k ch =>
    match (ch.pt q.part).freeCtx with
    | none => .error (.noResource, none)
    | some c => .ok ((ch.modPt q.part fun p => { p with contexts := put none p.contexts c (some { restart := k.localNs }) }).reply q .ok (toBe c 2 ++ zeros 2)))

/-- CTX_DESTROY: the id is free, and a quarantine of it is over (R472). -/
def execCtxDestroy (q : Req) (s : State) : Res :=
  onChip s (runCmd 0x0205 q fun _ ch => .ok ((ch.modPt q.part fun p => { p with contexts := put none p.contexts q.ctx none }).reply q .ok []))

end Sys2Proof.Machine
end

