-- ==== Sys2Proof/Machine/Manifest.lean ====
section
/-! DEFINITION. Manifests: their fields, layout and signature (spec/10_weights.md R293 to R297, R314; spec/07_tiers_translation.md R234). -/

namespace Sys2Proof.Machine

/-! ### Fields (R293, R294) -/

def mfVersion (m : List Byte) : Nat := leAt m 4 2
def mfNdev (m : List Byte) : Nat := leAt m 7 1
def mfModel (m : List Byte) : Nat := leAt m 8 8
def mfRevision (m : List Byte) : Nat := leAt m 16 4
def mfLength (m : List Byte) : Nat := leAt m 20 4
def mfWshards (m : List Byte) : Nat := leAt m 24 2
def mfFshards (m : List Byte) : Nat := leAt m 26 2
def mfLayers (m : List Byte) : Nat := leAt m 28 2
def mfTables (m : List Byte) : Nat := leAt m 30 1
def mfWsize (m : List Byte) : Nat := leAt m 32 8
def mfFsize (m : List Byte) : Nat := leAt m 40 8
def mfSchedLen (m : List Byte) : Nat := leAt m 48 4
def mfKeyId (m : List Byte) : Nat := leAt m 52 4
def mfShards (m : List Byte) : Nat := mfWshards m + mfFshards m

def mfLayerAt (m : List Byte) (i : Nat) : Nat := 64 + 96 * mfShards m + 8 * i
def mfTableAt (m : List Byte) (i : Nat) : Nat := mfLayerAt m (mfLayers m) + 148 * i
def mfSchedAt (m : List Byte) : Nat := mfTableAt m (mfTables m)
def mfDevAt (m : List Byte) (i : Nat) : Nat := mfSchedAt m + mfSchedLen m + 112 * i

/-- The length the parts add up to. -/
def mfTotal (m : List Byte) : Nat := mfDevAt m (mfNdev m) + 64

/-- A shard entry. -/
structure ShardEntry where
  offset : Nat
  length : Nat
  kind : Bool
  pin : Bool
  nonce : List Byte
  digest : List Byte
  deriving DecidableEq, Repr

def mfShard (m : List Byte) (i : Nat) : ShardEntry :=
  let b := slice m (64 + 96 * i) 96
  { offset := leAt b 0 8, length := leAt b 8 4, kind := bitAt (leAt b 12 1) 0, pin := bitAt (leAt b 12 1) 1, nonce := slice b 16 12, digest := slice b 32 64 }

def mfLayer (m : List Byte) (i : Nat) : LayerRec :=
  let b := slice m (mfLayerAt m i) 8
  { first := leAt b 0 2, count := leAt b 2 2, fb := bitAt (leAt b 4 1) 0 }

/-- A table record: its slot and image. -/
def mfTable (m : List Byte) (i : Nat) : Nat × List Byte := (leAt m (mfTableAt m i) 1, slice m (mfTableAt m i + 4) 144)

/-- A schedule entry (R234). -/
def schedEntry (b : List Byte) : PrefetchEntry :=
  { dva := bitsAt (leAt b 0 8) 0 48, pages := leAt b 8 2, start := leAt b 10 2, last := leAt b 12 2, drop := bitAt (leAt b 14 1) 0 }

def mfSched (m : List Byte) : Option Schedule :=
  if mfSchedLen m = 0 then none
  else
    let b := slice m (mfSchedAt m) (mfSchedLen m)
    some { barrier := bitsAt (leAt b 4 1) 0 5, cycle := leAt b 2 2, entries := (List.range (leAt b 0 2)).map fun i => schedEntry (slice b (16 + 16 * i) 16) }

/-! ### Layout (step 2 of R297) -/

/-- Bytes i to i + n − 1 of a structure are 0. -/
def zeroAt (b : List Byte) (i n : Nat) : Bool := decide (slice b i n = zeros n)

def ShardEntry.bad (e : ShardEntry) (m : List Byte) (i : Nat) : Bool :=
  let b := slice m (64 + 96 * i) 96
  let w := if e.kind then mfFsize m else mfWsize m
  decide (e.offset % 65536 ≠ 0) || decide (e.length % 65536 ≠ 0) || decide (e.length < 65536) || decide (268435456 < e.length) || decide (4 ≤ leAt b 12 1) || !zeroAt b 13 3 || !zeroAt b 28 4 ||
  decide (e.kind ≠ decide (mfWshards m ≤ i)) || decide (w < e.offset + e.length)

/-- Whether two shards of one kind overlap in their window. -/
def shardsOverlap (m : List Byte) : Bool :=
  (List.range (mfShards m)).any fun i => (List.range i).any fun j =>
    let a := mfShard m i
    let b := mfShard m j
    decide (a.kind = b.kind) && overlaps a.offset a.length b.offset b.length

def layerBad (m : List Byte) (i : Nat) : Bool :=
  let b := slice m (mfLayerAt m i) 8
  let l := mfLayer m i
  decide (mfWshards m < l.first + l.count) || decide (2 ≤ leAt b 4 1) || !zeroAt b 5 3

def tableBad (m : List Byte) (i : Nat) : Bool :=
  decide (7 < (mfTable m i).1) || !zeroAt m (mfTableAt m i + 1) 3 || !imgValid (mfTable m i).2

/-- A schedule's header and entries. -/
def schedBad (m : List Byte) : Bool :=
  let b := slice m (mfSchedAt m) (mfSchedLen m)
  if mfSchedLen m = 0 then false
  else decide (mfSchedLen m ≠ 16 + 16 * leAt b 0 2) || decide (leAt b 2 2 = 0) || decide (32 ≤ leAt b 4 1) || !zeroAt b 5 11 ||
    (List.range (leAt b 0 2)).any fun i => let x := slice b (16 + 16 * i) 16; !zeroAt x 6 2 || decide (leAt x 0 6 % 65536 ≠ 0) || decide (2 ≤ leAt x 14 1) || !zeroAt x 15 1

def schedOver (m : List Byte) : Bool :=
  match mfSched m with
  | none => false
  | some s => decide (16384 < s.entries.length) || s.entries.any fun x => decide (s.cycle ≤ x.start) || decide (s.cycle ≤ x.last)

/-- The layout's first failure (R297, R314). -/
def mfLayout (m : List Byte) (model rev : Nat) (stream : Bool) : Option Status :=
  let v1 := decide (mfVersion m = 1)
  let bad : Bool :=
    decide (slice m 0 4 ≠ [0x53, 0x4B, 0x4D, 0x46]) || decide (mfVersion m = 0) || decide (2 < mfVersion m) || decide (64 ≤ leAt m 6 1) ||
    (if v1 then decide (mfNdev m = 0) else decide (mfNdev m ≠ 0)) || !zeroAt m 31 1 || !zeroAt m 56 8 || decide (mfModel m ≠ model) || decide (mfRevision m ≠ rev) ||
    decide (mfWshards m = 0) || decide (mfLayers m = 0) || decide (mfWsize m % 65536 ≠ 0) || decide (mfFsize m % 65536 ≠ 0) ||
    (decide (mfFshards m = 0) && decide (mfFsize m ≠ 0)) || (v1 && (decide (mfFshards m ≠ 0) || decide (mfSchedLen m ≠ 0) || decide (mfKeyId m ≠ 0) || stream)) ||
    decide (mfLength m ≠ mfTotal m) || decide (m.length ≠ mfLength m) || schedBad m ||
    ((List.range (mfShards m)).any fun i => (mfShard m i).bad m i) || shardsOverlap m || ((List.range (mfLayers m)).any (layerBad m)) ||
    ((List.range (mfTables m)).any (tableBad m))
  let above : Bool :=
    decide (16384 < mfWshards m) || decide (4096 < mfFshards m) || decide (4096 < mfLayers m) || decide (8 < mfTables m) || decide (64 < mfNdev m) ||
    decide (16777216 < mfLength m) || decide (2 ^ 39 < mfWsize m) || schedOver m
  if bad then some .badField else if above then some .lengthRange else none

/-! ### Keys (R297, R314) -/

/-- The device-list entry of a version 1 manifest that names this device. -/
def Chip.deviceEntry (ch : Chip) (m : List Byte) : Option (List Byte) :=
  ((List.range (mfNdev m)).map fun i => slice m (mfDevAt m i) 112).find? fun b => decide (b.take 32 = (Config.sha512 ch.sec.idPub).take 32)

/-- The verifying key and the model key of a manifest, or why the load ends. -/
def Chip.mfKeys (ch : Chip) (p : Nat) (m : List Byte) : Except Status (List Byte × List Byte) :=
  if mfVersion m = 1 then
    match ch.deviceEntry m with
    | none => .error .notPermitted
    | some b =>
      match Config.keyUnwrap (Config.hkdf (Config.x25519 ch.sec.kaSecret (slice b 32 32)) [] [] 32) (slice b 64 40) with
      | none => .error .authFailed
      | some key => .ok (slice m (leAt b 104 8) 32, key)
  else
    match (ch.pt p).modelKeys.find? fun x => decide (x.1 = mfKeyId m) with
    | none => .error .badField
    | some x => .ok (x.2.2, x.2.1)

/-- Step 1: the signature over the SHA-512 digest of bytes 0 to L − 65. -/
def mfSigned (m key : List Byte) : Bool :=
  Config.ed25519Verify key (Config.sha512 (m.take (mfLength m - 64))) (slice m (mfLength m - 64) 64)

/-- Steps 1 and 2 of R297: the model key, or the code the load ends with. -/
def Chip.mfCheck (ch : Chip) (p : Nat) (m : List Byte) (model rev : Nat) (stream : Bool) : Except Status (List Byte) :=
  match ch.mfKeys p m with
  | .error st => .error st
  | .ok (signer, key) =>
    if !mfSigned m signer then .error .authFailed
    else match mfLayout m model rev stream with
      | some st => .error st
      | none => .ok key

end Sys2Proof.Machine
end

