-- ==== Sys2Proof/Machine/Scalar.lean ====
section
/-! DEFINITION. The scalar unit (spec/04_cluster.md R151 to R153, spec/05_scratchpad.md R162). -/

namespace Sys2Proof.Machine

/-- A scalar result written so that entries issued `lat` aclk later see it; the entry may not also post-increment the register
(R151). -/
def Cluster.scalarTo (c : Cluster) (sd : BitVec 4) (lat : Nat) (v : DWord) : Option Cluster :=
  (c.claimReg sd false).map fun c' => (c'.later (c.aclk + lat - 1) (.sreg sd.toNat v)).count 5 1

/-- An operation whose result the next aclk sees (R151). -/
def scalarOp (c : Nat) (sd : BitVec 4) (f : Cluster → DWord) : Field := fun _ ch cl => (cl.scalarTo sd 1 (f cl)).map fun cl' => ch.modCl c fun _ => cl'

/-- SNOP has no effect. -/
def fieldSnop : Field := fun _ ch _ => some ch

/-- LI: imm sign-extended. -/
def fieldLi (c : Nat) (sd : BitVec 4) (imm : BitVec 12) : Field := scalarOp c sd fun _ => imm.signExtend 64

/-- LUI: (sd << 12) OR imm. -/
def fieldLui (c : Nat) (sd : BitVec 4) (imm : BitVec 12) : Field :=
  scalarOp c sd fun cl => (cl.s sd <<< 12) ||| imm.setWidth 64

/-- ADD modulo 2^64. -/
def fieldAdd (c : Nat) (sd sa sb : BitVec 4) : Field := scalarOp c sd fun cl => cl.s sa + cl.s sb

/-- SUB modulo 2^64. -/
def fieldSub (c : Nat) (sd sa sb : BitVec 4) : Field := scalarOp c sd fun cl => cl.s sa - cl.s sb

/-- ADDI: imm signed. -/
def fieldAddi (c : Nat) (sd sa : BitVec 4) (imm : BitVec 8) : Field := scalarOp c sd fun cl => cl.s sa + imm.signExtend 64

/-- Bitwise AND. -/
def fieldAnd (c : Nat) (sd sa sb : BitVec 4) : Field := scalarOp c sd fun cl => cl.s sa &&& cl.s sb

/-- Bitwise OR. -/
def fieldOr (c : Nat) (sd sa sb : BitVec 4) : Field := scalarOp c sd fun cl => cl.s sa ||| cl.s sb

/-- Bitwise exclusive OR. -/
def fieldXor (c : Nat) (sd sa sb : BitVec 4) : Field := scalarOp c sd fun cl => cl.s sa ^^^ cl.s sb

/-- SHL by n. -/
def fieldShl (c : Nat) (sd sa : BitVec 4) (n : BitVec 6) : Field := scalarOp c sd fun cl => cl.s sa <<< n.toNat

/-- SHR, logical. -/
def fieldShr (c : Nat) (sd sa : BitVec 4) (n : BitVec 6) : Field := scalarOp c sd fun cl => cl.s sa >>> n.toNat

/-- The byte address of a narrow access: s[sa] + imm × 8 modulo 4 MiB, bits [2:0] ignored (R152). -/
def Cluster.narrowAddr (c : Cluster) (sa : BitVec 4) (imm : BitVec 8) : Nat := ((c.s sa).toNat + imm.toNat * 8) % spdSize / 8 * 8

/-- LDN: a 64-bit word, visible three aclk after issue (R151, R152, R160). -/
def fieldLdn (c : Nat) (sd sa : BitVec 4) (imm : BitVec 8) : Field :=
  fun k ch cl =>
    let a := cl.narrowAddr sa imm
    let w := cl.physWord (a / 32)
    ((cl.claim [(cl.aclk, 2, bankOf w)]).bind fun x =>
      if cl.lostWord w then (x.claimReg sd false) else x.scalarTo sd 3 (BitVec.ofNat 64 (leNat (slice (cl.read c w) (a % 32) 8)))).map
      fun cl' => (ch.modCl c fun _ => cl'.count 3 1).eccReads k c cl.curSlot.ctx [w]

/-- STN: read–modify–write of one code word, the other lanes as read in this aclk (R152, R162). -/
def fieldStn (c : Nat) (sb sa : BitVec 4) (imm : BitVec 8) : Field :=
  fun k ch cl =>
    let a := cl.narrowAddr sa imm
    let w := cl.physWord (a / 32)
    (cl.claim [(cl.aclk, 2, bankOf w), (cl.aclk + 2, 3, bankOf w)]).map fun cl' =>
      let old := cl.read c w
      let new := old.take (a % 32) ++ toLe (cl.s sb).toNat 8 ++ old.drop (a % 32 + 8)
      let cl' := if cl.lostWord w then cl' else cl'.later (cl.aclk + 2) (.stn (w * 32) new)
      (ch.modCl c fun _ => (cl'.count 5 1).count 3 2).eccReads k c cl.curSlot.ctx [w]

/-- Whether a local number names a register (R153). -/
def localReg (n : Nat) : Bool :=
  decide (n < 0x0E) || (decide (0x10 ≤ n) && decide (n < 0x1E)) || (decide (0x20 ≤ n) && decide (n ≤ 0x24)) || decide (n = 0x30)

/-- Whether a WREG of a value is an illegal entry: a number not listed, a generator field above its range, or a start of a
generator with a stride or dilation of 0 (R113, R153). -/
def Cluster.wregBad (c : Cluster) (n : Nat) (v : Word) : Bool :=
  if n < 0x0E then oagAbove n v.toNat || (decide (n = 12) && v.getLsbD 0 && c.oag0.geomBad)
  else if 0x10 ≤ n ∧ n < 0x1E then oagAbove (n - 0x10) v.toNat || (decide (n = 0x1C) && v.getLsbD 0 && c.oag1.geomBad)
  else !localReg n

/-- WREG: a cluster register takes bits [31:0] of a scalar register from the next aclk on (R113, R153). -/
def fieldWreg (c : Nat) (num : BitVec 8) (sa : BitVec 4) : Field :=
  fun _ ch cl =>
    let v : Word := (cl.s sa).setWidth 32
    if cl.wregBad num.toNat v then none
    else some (ch.modCl c fun x => (x.later x.aclk (.reg num.toNat v)).count 5 1)

/-- What a read of a cluster register returns (R153). -/
def Cluster.readLocal (c : Cluster) (n : Nat) : Nat :=
  if n < 0x0E then c.oag0.read n
  else if 0x10 ≤ n ∧ n < 0x1E then c.oag1.read (n - 0x10)
  else if n = 0x20 then optBool c.satFp
  else if n = 0x21 then c.num.word
  else if n = 0x22 then c.seedLo.toNat
  else if n = 0x23 then c.seedHi.toNat
  else if n = 0x24 then c.arr.status c.aclk
  else 0

/-- RDREG: a cluster register zero-extended, the timebase whole, visible two aclk after issue (R151, R153). -/
def fieldRdreg (c : Nat) (sd : BitVec 4) (num : BitVec 8) : Field :=
  fun k ch cl =>
    if !localReg num.toNat then none
    else
      let v := if num.toNat = 0x30 then k.timebase else cl.readLocal num.toNat
      (cl.scalarTo sd 2 (BitVec.ofNat 64 v)).map fun cl' => ch.modCl c fun _ => cl'

end Sys2Proof.Machine
end

