-- ==== Sys2Proof/Machine/Streams.lean ====
section
/-! DEFINITION. The commands and events of streams (spec/06_streams_barriers.md R182 to R200; spec/09_block_codec.md R279 to R285). -/

namespace Sys2Proof.Machine

/-! ### Descriptors (R185, R188) -/

/-- A descriptor as it travels. -/
def descOf (b : List Byte) : Desc :=
  { dva := bitsAt (leAt b 0 8) 0 48, length := leAt b 8 4, run := leAt b 12 2, n1 := leAt b 14 2, n2 := leAt b 16 2, n3 := leAt b 18 2,
    s1 := signedOf (leAt b 20 4) 32, s2 := signedOf (leAt b 24 4) 32, s3 := signedOf (leAt b 28 4) 32, spdBase := bitsAt (leAt b 32 2) 0 13,
    spdHalf := bitsAt (leAt b 34 2) 0 13, rate := leAt b 36 2, dir := bitsAt (leAt b 38 1) 0 2, codec := bitsAt (leAt b 38 1) 2 2,
    tslot := bitsAt (leAt b 38 1) 4 3, notify := bitAt (leAt b 38 1) 7, lcid := bitsAt (leAt b 39 1) 0 6, deadline := leAt b 40 4,
    fallback := bitsAt (leAt b 48 8) 0 48, dva2 := bitsAt (leAt b 56 8) 0 48 }

/-- Reserved bits of a descriptor, with their offsets in the payload. -/
def descReserved (b : List Byte) : List (Bool × Refuse) :=
  [ (decide (leAt b 6 2 ≠ 0), (.badField, some 4)), (decide (bitsAt (leAt b 32 2) 13 3 ≠ 0), (.badField, some 36)),
    (decide (bitsAt (leAt b 34 2) 13 3 ≠ 0), (.badField, some 38)), (decide (bitsAt (leAt b 39 1) 6 2 ≠ 0), (.badField, some 43)),
    (decide (leAt b 44 4 ≠ 0), (.badField, some 48)), (decide (leAt b 54 2 ≠ 0), (.badField, some 52)), (decide (leAt b 62 2 ≠ 0), (.badField, some 60)) ]

/-- dir, codec and the fields that must be 0. -/
def Desc.formBad (d : Desc) : List (Bool × Refuse) :=
  [ (decide (d.dir = 3) || decide (d.codec = 3) || (decide (d.codec = 1) && decide (d.dir ≠ 0)) || (decide (d.codec = 2) && decide (d.dir ≠ 1)), (.badField, some 42)),
    (decide (d.dir = 2) && decide (d.spdBase ≠ 0), (.badField, some 36)), (decide (d.dir = 2) && decide (d.spdHalf ≠ 0), (.badField, some 38)),
    (decide (d.dir = 2) && decide (d.rate ≠ 0), (.badField, some 40)), (decide (d.dir = 2) && decide (d.codec ≠ 0), (.badField, some 42)),
    (decide (d.dir = 2) && decide (d.lcid ≠ 0), (.badField, some 43)), (decide (d.dir = 2) && decide (d.deadline ≠ 0), (.badField, some 44)),
    (decide (d.dir = 2) && decide (d.fallback ≠ 0), (.badField, some 52)), (decide (d.dir ≠ 2) && decide (d.dva2 ≠ 0), (.badField, some 60)) ]

def Desc.strideBad (s : Int) : Bool := decide (s % 32 ≠ 0)

/-- Ranges, counts and strides, checked when length is above 0. -/
def Desc.rangeBad (d : Desc) : List (Bool × Refuse) :=
  if d.length = 0 then []
  else
    [ (decide (d.dva % 32 ≠ 0), (.badField, some 4)), (decide (d.run % 32 ≠ 0) || decide (d.run = 0), (.badField, some 16)),
      (decide (d.n1 = 0), (.badField, some 18)), (decide (d.n2 = 0), (.badField, some 20)), (decide (d.n3 = 0), (.badField, some 22)),
      (Desc.strideBad d.s1, (.badField, some 24)), (Desc.strideBad d.s2, (.badField, some 28)), (Desc.strideBad d.s3, (.badField, some 32)),
      (decide (d.dir ≠ 2) && decide (d.spdHalf = 0), (.badField, some 38)),
      (decide (d.codec ≠ 0) && decide (d.length % 4096 ≠ 0), (.badField, some 12)), (decide (d.codec ≠ 0) && decide (d.spdHalf % 8 ≠ 0), (.badField, some 38)),
      (decide (d.codec = 1) && decide (d.run < 64), (.badField, some 16)),
      (decide (32768 < d.run), (.lengthRange, some 16)), (decide (d.dir ≠ 2) && decide (8192 < d.spdBase + 2 * d.spdHalf), (.lengthRange, some 36)) ]

/-- Whether a descriptor's scratchpad range meets a fill or copy in progress. -/
def Cluster.opMeets (c : Cluster) (a n : Nat) : Bool :=
  match c.opBusy with
  | some o => overlaps a n o.dst o.len || (o.copy && overlaps a n o.src o.len)
  | none => false

/-- The larger rate of a stream's armed slots, when it expands for a cluster (R281). -/
def Stream.expandRate (x : Stream) (lcid : Nat) : Nat :=
  ((x.active.toList ++ x.next.toList).filter fun d => decide (d.codec = 1) && decide (d.lcid = lcid)).foldl (fun m d => max m d.rate) 0

def Chip.expandSum (ch : Chip) (r st : Nat) (d : Desc) : Nat :=
  ((List.range 64).map fun n => let m := (ch.str r n).expandRate d.lcid; if n = st then max m d.rate else m).sum

/-- The checks of an arm, in order (R188, R196, R281); a retired descriptor counts as the next slot armed (R459). Of a descriptor of length 0
the codec's alignment is not checked, the rules of R184 and of a fill or copy in progress are (DESIGN CHOICE, log entry 67). -/
def armChecks (q : Req) (ch : Chip) : List (Bool × Refuse) :=
  let r := leAt q.payload 0 1
  let st := leAt q.payload 1 1
  let b := q.payload.drop 4
  let d := descOf b
  let p := ch.pt q.part
  let x := ch.str r st
  [ (decide (16 ≤ r) || !p.ownsStream r st, (.notPermitted, some 0)), (decide (d.dir < 2) && !p.ownsLcid d.lcid, (.notPermitted, some 43)), reserved q 2 2 ] ++
  descReserved b ++ d.formBad ++ [(decide (d.dir < 2) && decide (ch.regionOfLcid d.lcid ≠ r), (.badField, some 43))] ++ d.rangeBad ++
  [ (decide (x.st = .faulted) || decide (x.st = .stopping), (.notReady, none)), (x.next.isSome || !x.retired.isEmpty, (.streamBusy, none)),
    (match x.active with | some a => decide (a.dir ≠ d.dir ∨ a.lcid ≠ d.lcid ∨ a.spdBase ≠ d.spdBase ∨ a.spdHalf ≠ d.spdHalf) | none => false, (.badField, some 36)),
    (match d.pcid ch with | some c => (ch.cl c).opMeets (d.spdBase * 512) (2 * d.halfBytes) | none => false, (.notReady, none)),
    (decide (d.codec = 1) && decide (4096 < ch.expandSum r st d), (.noResource, some 40)) ]

/-- Arms a descriptor that passed its checks: one of length 0 completes at once; else it becomes active, or next (R183, R188). -/
def Chip.arm (ch : Chip) (k : Clock) (r st : Nat) (d : Desc) : Chip :=
  if d.length = 0 then ch.notifyDesc k r st d 0
  else if (ch.str r st).active.isNone then ch.activate k r st d
  else ch.modStr r st fun x => { x with next := some d }

def streamArmCmd (q : Req) (k : Clock) (ch : Chip) : Cmd :=
  let d : Desc := { descOf (q.payload.drop 4) with ctx := q.ctx, session := q.session, seqNo := q.seq, armed := k.timebase }
  checked (armChecks q ch) ((ch.arm k (leAt q.payload 0 1) (leAt q.payload 1 1) d).reply q .ok [])

/-- STREAM_ARM (R188). -/
def execStreamArm (q : Req) (s : State) : Res := onChip s (runCmd 0x0504 q (streamArmCmd q))

/-- STREAM_WITHDRAW: the stream stops with cause 5 (R195); an idle stream has nothing to withdraw. -/
def execStreamWithdraw (q : Req) (s : State) : Res :=
  onChip s (runCmd 0x0505 q fun k ch =>
    let r := leAt q.payload 0 1
    let st := leAt q.payload 1 1
    checked [ (decide (16 ≤ r) || !(ch.pt q.part).ownsStream r st, (.notPermitted, some 0)), reserved q 2 2 ]
      ((ch.stopStream k r st 5).reply q .ok []))

/-! ### Events -/

/-- WHEEL_POSITION (R200). -/
def execWheelPosition (wheel pos : Nat) (s : State) : Res := onChip s fun k ch => ch.wheelPosition k wheel pos

/-- STREAM_REQUEST_COMPLETE (R190, R191, R193). -/
def execStreamRequestComplete (region stream : Nat) (s : State) : Res := onChip s fun k ch => ch.streamRequestComplete k region stream

/-- STREAM_IDLE_RETURN: a stopped stream with nothing in flight is idle again; a teardown that waited for it goes on (R196, R355). -/
def Chip.idleReturn (ch : Chip) (r st : Nat) : Chip :=
  let x := ch.str r st
  if (x.st = .faulted ∨ x.st = .stopping) ∧ x.reqs.isEmpty then
    (ch.modStr r st fun y => { y with st := .idle }).tearFrames5 (ch.strOwner r st)
  else ch

def execStreamIdleReturn (region stream : Nat) (s : State) : Res := onChip s fun _ ch => ch.idleReturn region stream

/-- TRANSLATION_WALK_COMPLETE (R222). -/
def execTranslationWalkComplete (region stream : Nat) (s : State) : Res := onChip s fun k ch => ch.walkDone k region stream

/-- HALF_DEADLINE (R192). -/
def execHalfDeadline (region stream : Nat) (half : Bool) (s : State) : Res := onChip s fun k ch => ch.halfDeadline k region stream half

/-- BLOCK_EMISSION (R279). -/
def execBlockEmission (c lane : Nat) (s : State) : Res := onChip s fun k ch => ch.blockEmission k c lane

/-- OUTBOUND_BLOCK_CODING (R285). -/
def execOutboundBlockCoding (region : Nat) (s : State) : Res := onChip s fun k ch => ch.outboundBlockCoding k region

end Sys2Proof.Machine
end

