-- ==== Sys2Proof/Machine/Registers.lean ====
section
/-! DEFINITION. Register addresses, rights and what a read returns (spec/13_host_protocol.md R390, R391; the register tables of every
chapter; spec/00_scope.md R16 to R18). -/

namespace Sys2Proof.Machine

/-! ### Addresses (R390) -/

structure RegAddr where
  block : Nat
  inst : Nat
  byPcid : Bool
  index : Nat
  reg : Nat
  deriving DecidableEq, Repr

def clusterBlock (b : Nat) : Bool := b = 1 || b = 2 || b = 3 || b = 9

/-- A register address taken apart. -/
def regAddr (a : Nat) : RegAddr :=
  let b := bitsAt a 27 5
  { block := b, inst := if clusterBlock b then bitsAt a 15 11 else bitsAt a 15 12, byPcid := clusterBlock b && bitAt a 26, index := bitsAt a 7 8, reg := bitsAt a 0 7 }

/-- A register address put together. -/
def mkAddr (block inst index reg : Nat) : Nat := block * 2 ^ 27 + inst * 2 ^ 15 + index * 2 ^ 7 + reg

def full32 : Nat := 0xFFFFFFFF

/-- A row of the register tables: instances (0: clusters), indices and the bits that are not reserved; R390 numbers the rows. -/
abbrev RegRow := Nat × Nat × Nat

def cluRow (r : Nat) : Option RegRow :=
  if r < 0x0D then some (0, 1, if r = 12 then 7 else oagMask r)
  else if r = 0x0D ∨ r = 0x1D then some (0, 1, 0xFFFF01FF)
  else if 0x10 ≤ r ∧ r < 0x1D then some (0, 1, if r = 0x1C then 7 else oagMask (r - 0x10))
  else match r with
    | 0x20 => some (0, 1, 1) | 0x21 => some (0, 1, 0x3F) | 0x22 => some (0, 1, full32) | 0x23 => some (0, 1, full32) | 0x24 => some (0, 1, 0x707)
    | _ => none

def strRows : List RegRow :=
  [(16, 64, 0xFFF00007), (16, 64, full32), (16, 64, full32), (16, 64, full32), (16, 256, 0xFFFF), (16, 32, 0x8000FFFF), (16, 32, full32), (16, 32, full32),
   (16, 32, 0xFFFF037F)]

def seqRows : List RegRow :=
  [(0, 4, 0xFFFFBFFF), (0, 4, 0xFFFFFF), (0, 4, 0xFFFFFF), (0, 4, 0xFFFFFF), (0, 4, 0xFFFFFF), (0, 4, 0xFF003FFF), (0, 4, 0x7FFF), (0, 4, full32), (0, 1, 7)]

def spdRows : List RegRow :=
  [(0, 16, 0xFFFC1FFF), (0, 1, 0xFFFF), (0, 1, 0x3FFFFF), (0, 1, 0x3FFFFF), (0, 1, 0x7FFFFF), (0, 1, full32), (0, 1, 0xF), (0, 1, full32), (0, 1, full32)]

def parRows : List RegRow :=
  [(8, 1, full32), (8, 1, full32), (8, 1, full32), (8, 1, 7), (8, 1, 0xE7FE0000), (8, 1, full32), (8, 1, full32), (8, 1, 0xFFFF), (8, 1, 0x1FFF0FFF),
   (8, 1, 0xFFFF), (8, 1, 0x1FF), (8, 4, 0xFFFFF)]

def pwrRows : List RegRow :=
  [(1, 1, 0x01FF01FF), (1, 1, 3), (4, 1, 0xFFF80000), (4, 1, 7), (4, 1, 0xFFFF0000), (8, 1, 0xFF000000), (8, 1, full32), (8, 1, 0x1FF), (1, 1, full32),
   (1, 1, 0xFF0000FF), (1, 1, full32), (1, 1, full32), (1, 1, full32)]

def talRows : List RegRow :=
  [(1, 1, 0xFF000000), (1, 1, full32), (1, 1, full32), (16, 1, 0xFF80FFFF), (8, 1, full32), (8, 1, 0xFFFF0000), (8, 1, 0xFFFF), (8, 1, 0x1FFF), (8, 1, full32),
   (8, 1, full32)]

/-- The rows of a block other than CLU. -/
def blockRows : Nat → List RegRow
  | 2 => seqRows
  | 3 => spdRows
  | 4 => strRows
  | 5 => [(8, 1, 0x7FFFF), (16, 1, full32), (8, 1, full32), (8, 1, 0xFFFF), (8, 1, 0xF0FFFF3F)]
  | 6 => [(8, 1, 0x1FFFFF), (8, 1, 0x1FFFFF), (8, 1, full32)]
  | 7 => [(4, 1, 0x1F), (4, 1, full32), (4, 1, 0xFFFF00FF), (4, 1, 0x3FFF), (4, 1, 0x7F), (4, 1, 0xFFFFFE0D), (4, 1, full32), (4, 1, 0x1FFFFF)]
  | 8 => [(1, 1, 0xFFC0003F), (1, 1, full32), (1, 1, 0xFFFF), (1, 1, full32)]
  | 9 => [(0, 8, 0xC0FFFFFF), (0, 1, full32), (0, 1, 0xFFFF00FF)]
  | 10 => [(16, 1, 0xF80FFFFF), (16, 2, 0xFC007FFF), (16, 2, full32), (16, 2, full32), (16, 2, full32)]
  | 11 => [(16, 1, 0xFE0FFFFF), (16, 1, full32), (16, 1, full32), (16, 1, full32), (8, 1, 0x1FFFF), (8, 1, 0x1FFFF)]
  | 12 => parRows
  | 13 => [(1, 1, 0xE000003F), (1, 1, full32), (1, 1, full32)]
  | 14 => [(1, 1, 0xFFFF0003), (1, 2, 0xC0000000), (1, 2, full32), (1, 1, 0xE0000000), (1, 1, full32), (8, 1, full32)]
  | 15 => [(1, 1, 0xFFFFF8FF), (1, 8, full32), (1, 8, full32), (1, 64, full32)]
  | 16 => pwrRows
  | 17 => talRows
  | 18 => [(1, 1, 0xFC0FFFFF), (1, 1, full32), (16, 1, 0xFFFFFC00), (1, 1, 1)]
  | _ => []

/-- The row a register address names. -/
def RegAddr.row (a : RegAddr) : Option RegRow := if a.block = 1 then cluRow a.reg else (blockRows a.block)[a.reg]?

/-- The physical cluster a cluster register address names. -/
def Chip.regCluster (ch : Chip) (a : RegAddr) : Option Nat :=
  if a.byPcid then (if a.inst < 80 then some a.inst else none) else if a.inst < 64 then ch.pcid a.inst else none

/-- Whether an address names a register that exists. -/
def Chip.regExists (ch : Chip) (a : RegAddr) : Bool :=
  match a.row with
  | none => false
  | some (n, m, _) => decide (a.index < m) && (if n = 0 then (ch.regCluster a).isSome else decide (a.inst < n))

/-! ### Rights (R17) -/

/-- Whether a partition owns an lcid on a die. -/
def Chip.onDie (ch : Chip) (p d : Nat) : Bool := (ch.pt p).lcidList.any fun l => decide (ch.regionOfLcid l / 4 = d)

def Partition.ownsHandle (p : Partition) (h : Nat) : Bool := decide (p.hndBase ≤ h) && decide (h < p.hndBase + p.hndCount)

/-- Rights to the registers of a cluster: its owner and the management partition; CDC its owner, and by pcid the management partition;
SPD_ECC_STATUS the management partition (R8, R181, R292, R390). -/
def Chip.cluRight (ch : Chip) (p : Nat) (a : RegAddr) : Bool :=
  if a.byPcid then decide (p = 0)
  else if a.block = 3 && a.reg = 8 then decide (p = 0)
  else (ch.pt p).ownsLcid a.inst || (decide (p = 0) && decide (a.block ≠ 9))

/-- Whether a partition may read a register. -/
def Chip.readRight (ch : Chip) (p : Nat) (a : RegAddr) : Bool :=
  let own := decide (a.inst = p) || decide (p = 0)
  match a.block with
  | 1 => ch.cluRight p a
  | 2 => ch.cluRight p a
  | 3 => ch.cluRight p a
  | 9 => ch.cluRight p a
  | 4 => if a.reg < 4 then (ch.pt p).ownsStream a.inst a.index else if a.reg = 4 then (ch.pt p).ownsSem a.inst a.index else true
  | 5 => if a.reg = 1 then decide (p = 0) else own
  | 6 => own
  | 10 => decide (p = 0) || (ch.pt p).ownsHandle a.inst
  | 11 => if a.reg < 4 then decide (p = 0) || (ch.pt p).ownsEng a.inst else own
  | 12 => if a.reg < 4 then decide (a.inst = p) else own
  | 13 => decide (a.reg < 2) || decide (p = 0)
  | 14 => if a.reg = 5 then own else decide (p = 0)
  | 15 => if a.reg < 2 then true else if a.reg = 2 then decide (p = 0) else decide (p = 0) || decide ((look {} ch.fabric.jobs a.index).valid ∧ (look {} ch.fabric.jobs a.index).part = p)
  | 16 => if a.reg = 0 then true else if a.reg = 2 ∨ a.reg = 4 then decide (p = 0) || ch.onDie p a.inst else if 5 ≤ a.reg ∧ a.reg ≤ 7 then own else decide (p = 0)
  | 17 => if a.reg < 4 then decide (p = 0) else own
  | 18 => decide (a.reg = 0) || decide (p = 0)
  | _ => decide (p = 0)

/-- Whether a partition may write a register. What is only readable to others the management partition alone writes, the awning and sideband
registers no register write reaches, and the fields of a partition's tally registers its partition alone writes (R206, R448, R483, R494,
R511). -/
def Chip.writeRight (ch : Chip) (p : Nat) (a : RegAddr) : Bool :=
  ch.readRight p a && (match a.block with
    | 12 => decide (4 ≤ a.reg)
    | 16 => decide (a.reg < 9) && (decide (p = 0) || decide (a.reg = 7))
    | 17 => decide (a.reg < 4) || decide (a.inst = p)
    | 18 => decide (p = 0)
    | _ => true)

def Chip.regRight (ch : Chip) (p : Nat) (write : Bool) (a : RegAddr) : Bool := if write then ch.writeRight p a else ch.readRight p a

/-- Whether an address names a register the partition has no right to. -/
def Chip.regDenied (ch : Chip) (p : Nat) (write : Bool) (a : RegAddr) : Bool := ch.regExists a && !ch.regRight p write a

/-- Whether recovery mode holds a register back (R492). -/
def Chip.regShut (ch : Chip) (a : RegAddr) : Bool := ch.inRecoveryMode && decide (a.block ≠ 18) && decide (a.block ≠ 13)

/-- The checks of a command's addresses before any access, each with its offset, under R512. -/
def Chip.regChecks (ch : Chip) (p : Nat) (write : Bool) (as : List (Nat × RegAddr)) (fields counts : List (Bool × Refuse)) : List (Bool × Refuse) :=
  as.map (fun x => (ch.regDenied p write x.2, (.notPermitted, some x.1))) ++ fields ++ as.map (fun x => (!ch.regExists x.2, (.badField, some x.1))) ++ counts ++
    as.map fun x => (ch.regShut x.2, (.notReady, some x.1))

/-- The order of refusals where no rule gives its own (R512). -/
def Status.rank : Status → Nat
  | .notPermitted => 1
  | .badField => 2
  | .lengthRange => 3
  | .noResource => 5
  | _ => 4

/-- The refusal first in the order of R512. -/
def leastRank : List Refuse → Option Refuse
  | [] => none
  | r :: t => match leastRank t with
    | some s => if s.1.rank < r.1.rank then some s else some r
    | none => some r

/-! ### Reads -/

def maxOf (l : List Nat) : Nat := l.foldl max 0

def int8 (i : Int) : Nat := (i % 256).toNat

/-- SEQ registers (R141). -/
def Cluster.readSeq (c : Cluster) (n reg : Nat) : Nat :=
  let s := c.slot n
  match reg with
  | 0 => s.prio * 2 ^ 30 + s.len * 2 ^ 15 + s.base
  | 5 => s.st.code * 2 ^ 28 + s.depth * 2 ^ 26 + (match s.standing with | none => 0 | some w => match w.on with | .sem _ _ => 1 | .bar _ _ => 2 | .half _ _ => 3) * 2 ^ 24 + s.ptr % 2 ^ 14
  | 6 => s.part * 2 ^ 12 + s.ctx
  | 7 => s.yields
  | 8 => optBool ((List.range 4).all fun i => decide ((c.slot i).st ≠ .running) && decide ((c.slot i).st ≠ .waiting)) * 4 + c.cur
  | _ => look 0xFFFFFF s.budgets (reg - 1)

/-- SPD registers (R164, R168, R169, R173, R181). -/
def Cluster.readSpd (c : Cluster) (n reg : Nat) : Nat :=
  match reg with
  | 0 => (look 0 c.dbuf n).toNat
  | 1 => c.role.toNat
  | 2 => c.opDst.toNat
  | 3 => c.opSrc.toNat
  | 4 => c.opLen.toNat
  | 5 => c.opPat.toNat
  | 6 => optBool c.opBusy.isSome * 8 + c.op.toNat * 2
  | 7 => c.bankPwr.toNat
  | _ => c.ecc.ceCount * 2 ^ 16 + c.ecc.lastBank * 2 ^ 12 + c.ecc.lastRow * 8 + optBool c.rowsPending * 4 + optBool ((List.range 16).any fun b => c.ecc.freeSpare b = none) * 2 + optBool c.ecc.ue

/-- Whether a lane buffer holds a coded block naming a slot (R286). -/
def LaneBuf.refs (b : LaneBuf) (slot : Nat) : Bool := b.headBack && !hdrRaw b.bytes && decide (hdrSlot b.bytes = slot)

/-- The reference count of a codec slot (R286). -/
def Chip.slotRefs (ch : Chip) (c slot : Nat) : Nat :=
  ((ch.cl c).bufs.filter fun b => b.refs slot).length +
  ((ch.rg (regionOf c)).streams.filter fun e => (e.2.active.toList ++ e.2.next.toList).any fun d => decide (d.codec = 2) && decide (d.tslot = slot) && decide ((ch.cl c).lcid = some d.lcid)).length

/-- CDC registers (R292). -/
def Chip.readCdc (ch : Chip) (c n reg : Nat) : Nat :=
  let x := ch.cl c
  match reg with
  | 0 => let s := look {} x.codec n
         if s.valid then 2 ^ 31 + imgWidth s.image * 2 ^ 30 + ch.slotRefs c n * 2 ^ 16 + leAt s.image 4 4 % 65536 else ch.slotRefs c n * 2 ^ 16
  | 1 => x.fail1 * 2 ^ 16 + x.fail2
  | _ => x.rawBlocks * 2 ^ 16 + ((List.range 8).map fun l => if (x.lane l).bufs.isEmpty then 0 else 2 ^ l).sum

def StreamState.code : StreamState → Nat
  | .idle => 0
  | .active => 1
  | .faulted => 2
  | .stopping => 3

/-- STR registers of a partition (R197, R207, R213). -/
def Chip.readStr (ch : Chip) (p r n reg : Nat) : Nat :=
  let x := ch.str r n
  let b := (ch.pt p).bar n
  match reg with
  | 0 => x.st.code * 2 ^ 29 + optBool (x.next.isSome || !x.retired.isEmpty) * 2 ^ 28 + x.cause * 2 ^ 24 + optBool x.h1.eng * 2 ^ 23 + optBool x.h0.eng * 2 ^ 22 +
         optBool x.relDup * 2 ^ 21 + optBool x.late * 2 ^ 20 + x.reqs.length
  | 1 => (match x.active with | some d => if d.dir = 2 then x.done else x.done + (if x.h0.eng && x.h0.desc.isSome then x.h0.got else 0) + (if x.h1.eng && x.h1.desc.isSome then x.h1.got else 0) | none => 0) % 2 ^ 32
  | 2 => x.fidelity
  | 3 => match x.dry with | some d => d / dryUnit % 2 ^ 32 | none => full32
  | 4 => look 0 (ch.rg r).sems n
  | 5 => match b.job with | some j => 2 ^ 31 + j | none => 0
  | 6 => b.mask.toNat % 2 ^ 32
  | 7 => b.mask.toNat / 2 ^ 32
  | _ => b.arrGen.toNat * 2 ^ 16 + optBool b.ckpt * 2 ^ 9 + optBool b.near * 2 ^ 8 + b.count

/-- MMU and LDG registers (R225, R231). -/
def Chip.readMmu (ch : Chip) (i reg : Nat) : Nat :=
  let x := ch.pt i
  match reg with
  | 0 => x.root
  | 1 => ((List.range 8).map fun w =>
      match (List.range 8).find? fun p => (ch.pt p).valid && decide (look 0 (ch.pt p).wayBase i ≤ w) && decide (w < look 0 (ch.pt p).wayBase i + look 0 (ch.pt p).ways i) with
      | some p => (8 + p) * 2 ^ (4 * w)
      | none => 0).sum
  | 2 => x.mmuDva % 2 ^ 32
  | 3 => x.mmuDva / 2 ^ 32
  | _ => optBool x.mmuValid * 2 ^ 31 + x.mmuCause * 2 ^ 28 + x.mmuCtx * 2 ^ 12 + x.mmuRegion * 2 ^ 8 + x.mmuStream

def Chip.readLdg (ch : Chip) (p reg : Nat) : Nat :=
  match reg with
  | 0 => ch.poolSize p
  | 1 => ch.poolUsed p
  | _ => satTo 0xFFFF (ch.ledger.filter fun e => decide (e.2.part = p) && e.2.suspect).length * 2 ^ 16 + (ch.pt p).skipped

/-- Whether a stack's positions are held by more than one partition (R248). -/
def Chip.stackShared (ch : Chip) (s : Nat) : Bool :=
  decide (1 < ((List.range 8).filter fun p => (List.range 64).any fun i => decide ((ch.wheelAt s i).owner = some p)).length)

/-- HBM registers (R260). -/
def Chip.readHbm (ch : Chip) (s reg : Nat) : Nat :=
  let x := ch.sk s
  match reg with
  | 0 => optBool x.failed * 16 + optBool (ch.stackShared s) * 8 + optBool x.postEn * 4 + x.point
  | 1 => x.riskNs * 2 ^ 16 + x.interval
  | 2 => x.makeups * 2 ^ 16 + x.owedPeak * 16 + maxOf (x.owed.map (·.2))
  | 3 => x.dlySel.toNat
  | 4 => look 0 x.delays x.dlySel.toNat
  | 5 => x.ceCount * 2 ^ 16 + x.lastPch * 2 ^ 11 + x.lastLane * 2 ^ 9 + optBool x.laneWarn * 8 +
         optBool (ch.frames.any fun f => decide (stackOfFrame f.1 = s) && f.2.marked && decide (f.2.use ≠ .retired)) * 4 + optBool x.ue
  | 6 => x.passes * 2 ^ 16 + x.patrol / 1024
  | _ => (ch.frames.filter fun f => decide (stackOfFrame f.1 = s) && (match f.2.use with | .zeroing _ _ => true | _ => false)).length

/-- FLS registers (R266). -/
def Flash.read (f : Flash) (reg : Nat) : Nat :=
  match reg with
  | 0 => satTo 255 f.wear * 2 ^ 24 + optBool (90 ≤ f.wear) * 2 ^ 23 + optBool (100 ≤ f.wear) * 2 ^ 22 + ((List.range 32).filter fun i => f.failedCh.getLsbD i).length
  | 1 => f.soft
  | 2 => f.ue
  | _ => f.rewritten

def EpochState.code : EpochState → Nat
  | .empty => 0
  | .loading => 1
  | .standby => 2
  | .current => 3
  | .draining => 4

/-- Requests bound to an epoch. -/
def Chip.bound (ch : Chip) (h e : Nat) : Nat :=
  ((ch.pt (ch.mdl h).part).requests.filter fun r => decide (r.handle = h) && decide (r.epoch = e)).length

def Epoch.countShards (e : Epoch) (f : ShardState → Bool) : Nat := ((List.range e.nshards).filter fun i => f (e.shard i).st).length

/-- WGT registers (R315). -/
def Chip.readWgt (ch : Chip) (m e reg : Nat) : Nat :=
  let x := ch.mdl m
  let p := x.ep e
  match reg with
  | 0 => optBool x.valid * 2 ^ 31 + x.part * 2 ^ 28 + x.cur * 2 ^ 27 + x.rehash
  | 1 => p.st.code * 2 ^ 29 + optBool p.degraded * 2 ^ 28 + optBool p.stream * 2 ^ 27 + optBool p.darino * 2 ^ 26 + ch.bound m e
  | 2 => p.revision
  | 3 => p.digestFails * 2 ^ 16 + p.tryFails
  | _ => p.countShards (fun s => s = .suspect || s = .missing) * 2 ^ 16 + p.countShards (· = .missing)

def EngState.code : EngState → Nat
  | .idle => 0
  | .running => 1
  | .holding => 2
  | .faulted => 3
  | .resetting => 4

/-- ATT registers (R345). -/
def Chip.readAtt (ch : Chip) (i reg : Nat) : Nat :=
  let e := (ch.rg i).eng
  match reg with
  | 0 => e.st.code * 2 ^ 29 + e.part.getD 0 * 2 ^ 26 + optBool e.part.isSome * 2 ^ 25 + e.index
  | 1 => optBool e.faultValid * 2 ^ 31 + e.faultCause * 2 ^ 28 + e.faultCtx * 2 ^ 16 + e.faultSeq
  | 2 => e.races
  | 3 => e.evict
  | 4 => (ch.pt i).seqCount
  | _ => (ch.seqs.filter fun s => s.2.valid && decide (s.2.part = i)).length

/-- PAR registers (R206, R372). -/
def Partition.readPar (x : Partition) (n reg : Nat) : Nat :=
  match reg with
  | 0 => x.awnRd.toNat
  | 1 => x.awnWr.toNat
  | 2 => x.awnRm.toNat
  | 3 => x.borrow.toNat
  | 4 => x.cfgReg
  | 5 => x.lcids.toNat % 2 ^ 32
  | 6 => x.lcids.toNat / 2 ^ 32
  | 7 => x.engines.toNat
  | 8 => x.ctxCount * 2 ^ 16 + x.ctxBase
  | 9 => x.seqBase
  | 10 => x.hndCount * 16 + x.hndBase
  | _ => look 0 x.quota n

/-- SEC and HST registers (R373, R400). -/
def Chip.readSec (ch : Chip) (reg : Nat) : Nat :=
  match reg with
  | 0 => optBool ch.sec.idOk * 2 ^ 31 + optBool ch.sec.dbgOpen * 2 ^ 30 + optBool ch.anyConf * 2 ^ 29 + (ch.host.sessions.filter Session.open).length
  | 1 => ch.sec.fwVersion
  | _ => ch.sec.authFail

def Chip.readHst (ch : Chip) (k : Clock) (i n reg : Nat) : Nat :=
  let h := ch.host
  match reg with
  | 0 => h.udpPort * 2 ^ 16 + optBool h.jumbo1 * 2 + optBool h.jumbo0
  | 1 => optBool (if n = 0 then h.link0 else h.link1) * 2 ^ 31 + optBool (if n = 0 then h.gm0 else h.gm1) * 2 ^ 30
  | 2 => (if n = 0 then h.malformed0 else h.malformed1) * 2 ^ 16 + (if n = 0 then h.queueFull0 else h.queueFull1)
  | 3 => optBool k.synced * 2 ^ 31 + optBool k.holdover * 2 ^ 30 + k.gmPort % 2 * 2 ^ 29
  | 4 => h.stale * 2 ^ 16 + h.mismatch
  | _ => (ch.pt i).evtLost

def PortState.code : PortState → Nat
  | .disabled => 0
  | .training => 1
  | .measuring => 2
  | .hello => 3
  | .up => 4
  | .failed => 5

def Fabric.cfg (f : Fabric) : Nat := f.selfId * 2 ^ 23 + f.xs * 2 ^ 19 + f.ys * 2 ^ 15 + f.zs * 2 ^ 11 + f.epoch.toNat

def Port.status (p : Port) : Nat := p.st.code * 2 ^ 29 + p.cause * 2 ^ 26 + p.partner * 2 ^ 17 + p.length * 2 ^ 9 + p.loss

/-- FAB registers (R423). -/
def Chip.readFab (ch : Chip) (n reg : Nat) : Nat :=
  match reg with
  | 0 => ch.fabric.cfg
  | 1 => (ch.prt n).status
  | 2 => satTo 0xFFFF (ch.prt n).replays * 2 ^ 16 + satTo 0xFFFF (ch.prt n).fecUe
  | _ => let j := look {} ch.fabric.jobs n
         optBool j.valid * 2 ^ 31 + j.part * 2 ^ 28 + (ch.fabric.flows.filter fun f => j.valid && f.outbound && !f.failed && decide (f.job = j.job)).length * 2 ^ 16 + j.job

/-- Whether a die's lcids belong to more than one partition (R432, R433). -/
def Chip.dieShared (ch : Chip) (d : Nat) : Bool := decide (1 < ((List.range 8).filter fun p => (ch.pt p).valid && ch.onDie p d).length)

/-- BOOT_STATUS (R494). -/
def Boot.status (b : Boot) : Nat := b.phase * 2 ^ 29 + optBool b.fwCopy * 2 ^ 28 + optBool b.fwABad * 2 ^ 27 + optBool b.cold * 2 ^ 26 + b.recCause * 2 ^ 16 + satTo 0xFFFF b.ms

def PowerState.code : PowerState → Nat
  | .off => 0
  | .sequencing => 1
  | .on => 2
  | .tripHold => 3
  | .faultOff => 4

/-- Sideband registers by command code (R511). -/
def sideband (k : Clock) (m : ModulePins) (ch : Chip) (code : Nat) : Nat :=
  match code with
  | 0 => m.st.code * 2 ^ 29 + optBool m.pcReq * 2 ^ 28 + optBool m.trip * 2 ^ 27 + optBool m.uvlo * 2 ^ 26 + optBool m.ovlo * 2 ^ 25 + optBool m.railFail * 2 ^ 24 +
         (match m.tripHoldEnd with | some t => ceilDiv (t - k.localNs) 1000000000 | none => 0)
  | 1 => if m.st = .off then ch.boot.status % 2 ^ 29 else ch.boot.status
  | 2 => int8 m.tripTemp * 2 ^ 24 + m.tripSensor * 2 ^ 16 + m.tripCount
  | _ => m.vinVolts * 2 ^ 16 + m.vinPower

/-- PWR registers (R448, R511). -/
def Chip.readPwr (ch : Chip) (k : Clock) (m : ModulePins) (i reg : Nat) : Nat :=
  let d := ch.die i
  let x := ch.pt i
  match reg with
  | 0 => ch.power.preg / 100 * 2 ^ 16 + ch.power.cap
  | 1 => optBool ch.power.overCap * 2 + optBool ch.power.flashHold
  | 2 => d.opp * 2 ^ 29 + d.request * 2 ^ 26 + d.limit * 2 ^ 21 + optBool (ch.dieShared i) * 2 ^ 20 + optBool d.target.isSome * 2 ^ 19
  | 3 => d.lock
  | 4 => int8 d.junction * 2 ^ 24 + int8 d.stackTemp * 2 ^ 16
  | 5 => optBool x.parked * 2 ^ 31 + optBool x.floor * 2 ^ 30 + optBool x.hold * 2 ^ 29 + x.step * 2 ^ 24
  | 6 => satTo 0xFFFF x.allow * 2 ^ 16 + satTo 0xFFFF x.est
  | 7 => x.fill.toNat
  | 8 => ch.power.overCount * 2 ^ 16 + ch.power.meanVin
  | n => sideband k m ch (n - 9)

/-- The step that handles a partition: 0 none (R483). -/
def Chip.stepOf (ch : Chip) (p : Nat) : Nat := match ch.rcv.steps.find? fun s => decide (p ∈ s.parts) with | some s => s.unit.code | none => 0

def Chip.reservePcid (ch : Chip) (r : Nat) : Nat := ((ch.rg r).reserve).getD 0

/-- TAL registers (R483). -/
def Chip.readTal (ch : Chip) (i reg : Nat) : Nat :=
  let x := ch.pt i
  match reg with
  | 0 => ch.rcv.pkgQueue.length * 2 ^ 27 + (match ch.rcv.steps.find? (·.pkg) with | some s => s.unit.code | none => 0) * 2 ^ 24
  | 1 => ch.rcv.scans
  | 2 => ch.rcv.drops
  | 3 => optBool (ch.rg i).busy * 2 ^ 31 + optBool (ch.rg i).inUse * 2 ^ 30 + ch.reservePcid i * 2 ^ 23 + (ch.cl (ch.reservePcid i)).epoch.toNat
  | 4 => x.wdog
  | 5 => x.dumpLo * 2 ^ 16
  | 6 => x.dumpHi
  | 7 => x.dumpLen
  | 8 => ch.stepOf i * 2 ^ 29 + (x.contexts.filter fun c => match c.2 with | some y => y.quarantined | none => false).length * 2 ^ 16 + x.hangs
  | _ => x.recSeq

/-- BOOT registers (R494). -/
def Chip.readBoot (ch : Chip) (i reg : Nat) : Nat :=
  let slotBits : (Cluster → Bool) → Nat := fun f => ((List.range 5).map fun n => if f (ch.cl (i * 5 + n)) then 2 ^ n else 0).sum
  match reg with
  | 0 => ch.boot.status
  | 1 => ch.boot.bad.toNat * 2 ^ 16 + ch.boot.inB.toNat
  | 2 => slotBits (·.bistPass) * 2 ^ 27 + slotBits (·.failed) * 2 ^ 22 + slotBits (·.retired) * 2 ^ 17 +
         (match (ch.rg i).reserve with | some c => c % 5 | none => 7) * 2 ^ 14 +
         (((List.range 16).find? fun b => ch.boot.layout.getD b 16 = i).getD 0) * 2 ^ 10
  | _ => optBool ch.boot.fullNext

/-- What a read of a register returns to partition p (R16). -/
def Chip.regRead (ch : Chip) (k : Clock) (m : ModulePins) (p : Nat) (a : RegAddr) : Nat :=
  let c := (ch.regCluster a).getD 0
  match a.block with
  | 1 => (ch.cl c).readLocal a.reg
  | 2 => (ch.cl c).readSeq a.index a.reg
  | 3 => (ch.cl c).readSpd a.index a.reg
  | 4 => ch.readStr p a.inst a.index a.reg
  | 5 => ch.readMmu a.inst a.reg
  | 6 => ch.readLdg a.inst a.reg
  | 7 => ch.readHbm a.inst a.reg
  | 8 => ch.flash.read a.reg
  | 9 => ch.readCdc c a.index a.reg
  | 10 => ch.readWgt a.inst a.index a.reg
  | 11 => ch.readAtt a.inst a.reg
  | 12 => (ch.pt a.inst).readPar a.index a.reg
  | 13 => ch.readSec a.reg
  | 14 => ch.readHst k a.inst a.index a.reg
  | 15 => ch.readFab a.index a.reg
  | 16 => ch.readPwr k m a.inst a.reg
  | 17 => ch.readTal a.inst a.reg
  | 18 => ch.readBoot a.inst a.reg
  | _ => 0

/-- REG_READ: every address is checked, then the registers are read in listed order (R391). -/
def regReadCmd (q : Req) (m : ModulePins) (k : Clock) (ch : Chip) : Cmd :=
  let n := beAt q.payload 0 2
  let addrs := (List.range n).map fun i => regAddr (beAt q.payload (4 + 4 * i) 4)
  let held := ((List.range n).filter fun i => decide (4 * i + 8 ≤ q.payload.length)).map fun i => (4 + 4 * i, addrs.getD i (regAddr 0))
  checked (ch.regChecks q.part false held [ (decide (n = 0), (.badField, some 0)), reserved q 2 2 ]
      [ (decide (256 < n) || decide (q.payload.length ≠ 4 + 4 * n), (.lengthRange, some 0)) ])
    (ch.reply q .ok (toBe n 2 ++ zeros 2 ++ addrs.flatMap fun a => toBe (ch.regRead k m q.part a) 4))

/-- REG_READ (R391). -/
def execRegRead (q : Req) (s : State) : Res := onModule s fun k m ch => (m, runCmd 0x0301 q (regReadCmd q m) k ch)

end Sys2Proof.Machine
end

