-- ==== Sys2Proof/Machine/Weights.lean ====
section
/-! DEFINITION. Model loads, shards, re-hash and weight epochs (spec/10_weights.md R296 to R315; spec/08_dram_flash.md R264, R265). -/

namespace Sys2Proof.Machine

/-! ### Names -/

/-- The epoch of a partition's model with a revision. -/
def Chip.findEpoch (ch : Chip) (p model rev : Nat) : Option (Nat × Nat) :=
  (ch.epochsOf p).find? fun x => decide ((ch.mdl x.1).modelId = model) && decide (((ch.mdl x.1).ep x.2).revision = rev)

/-- The handle of a partition's model. -/
def Chip.handleOf (ch : Chip) (p model : Nat) : Option Nat :=
  (List.range 16).find? fun h => let m := ch.mdl h; m.valid && decide (m.part = p) && decide (m.modelId = model)

/-- The kept package of a model and revision of a partition. -/
def Chip.keptOf (ch : Chip) (p model rev : Nat) : Option KeptPackage :=
  ch.flash.kept.find? fun x => decide (x.part = p) && decide (x.model = model) && decide (x.rev = rev)

/-- The sealed bytes of a shard in a kept package; none while a sector of it cannot be read (R263). -/
def KeptPackage.shard (x : KeptPackage) (sh : Nat) : Option (List Byte) := if x.good then some (look [] x.shards sh) else none

/-- A row that acts on a shard of a resident or loading epoch. -/
def Chip.liveShard (ch : Chip) (h e sh : Nat) : Bool :=
  let ep := (ch.mdl h).ep e
  decide (h < 16) && decide (e < 2) && decide (ep.st ≠ .empty) && !ep.releasing && decide (sh < ep.nshards)

/-- The degraded bit: at least one weight shard is MISSING (R315). -/
def Epoch.redegrade (e : Epoch) : Epoch :=
  { e with degraded := (List.range e.nshards).any fun i => decide ((e.shard i).st = .missing) && !(e.shard i).kind }

/-! ### Sources and tries (R298 to R300) -/

/-- The sources of an epoch that can hold a shard, in order: 1 peer, 2 own flash, 3 host. -/
def Chip.sources (ch : Chip) (h e : Nat) : List Nat :=
  let m := ch.mdl h
  let ep := m.ep e
  (((List.range 3).map fun i => bitsAt ep.srcOrder.toNat (2 * i) 2).filter fun s =>
    if s = 1 then !ep.peers.isEmpty else if s = 2 then (ch.keptOf m.part m.modelId ep.revision).isSome else decide (s = 3)).eraseDups

/-- Hops to a device on the first-choice route. -/
def Fabric.hops (f : Fabric) (d : Nat) : Nat := (f.path f.selfId d 24).length

/-- The peer a try goes to: the nearest that has not failed, else the nearest (R299). -/
def Chip.peerFor (ch : Chip) (ep : Epoch) (s : Shard) : Option Nat :=
  let order := sortBy (fun d => ch.fabric.hops d * 512 + d) ep.peers
  (order.find? fun d => d ∉ s.peersTried).or order.head?

/-- The name of a shard in messages and events. -/
def shardName (model rev sh : Nat) : List Byte := toBe model 8 ++ toBe rev 4 ++ toBe sh 2

/-- The flow of a job that carries an epoch's shards: the model's numbering, above the streams' flows. -/
def shardFlow (h e : Nat) : Nat := 1024 + h * 2 + e

/-- A message to a peer about a shard. -/
def Chip.tellPeer (ch : Chip) (k : Clock) (h e sh kind peer : Nat) : Chip :=
  let m := ch.mdl h
  match ch.jobSlot (m.ep e).peerJob with
  | none => ch
  | some (_, j) => match ch.flowSend k j peer (shardFlow h e) false (flowMsg kind 0 0 0 14 (shardName m.modelId (m.ep e).revision sh)) with | some x => x.2 | none => ch

/-- A try begins at a source. -/
def Chip.startTry (ch : Chip) (k : Clock) (h e sh src tries : Nat) : Chip :=
  let m := ch.mdl h
  let ep := m.ep e
  let ch := ch.modShard h e sh fun s =>
    { s with st := if s.st = .suspect then .suspect else .fetching, source := src, tries := tries, trying := true, received := [], lastByte := k.localNs }
  if src = 1 then (match ch.peerFor ep (ep.shard sh) with | some d => ch.tellPeer k h e sh 4 d | none => ch)
  else if src = 3 then ch.raise k m.part 0xE020 .ok 0 (shardName m.modelId ep.revision sh ++ zeros 2)
  else ch

/-- The source order run from its start; with no source the shard is MISSING. -/
def Chip.fetchShard (ch : Chip) (k : Clock) (h e sh : Nat) : Chip :=
  match (ch.sources h e).head? with
  | some src => ch.startTry k h e sh src 1
  | none => (ch.modShard h e sh fun s => { s with st := .missing, trying := false }).modEp h e Epoch.redegrade

/-- A try fails: the next try of the source, the next source, or MISSING (R298). A try number above 3 is the extra host try of R300. -/
def Chip.tryFailed (ch : Chip) (k : Clock) (h e sh cause : Nat) : Chip :=
  let ep := (ch.mdl h).ep e
  let s := ep.shard sh
  let peer := if s.source = 1 then (ch.peerFor ep s).toList else []
  let ch := (ch.modEp h e fun x => { x with tryFails := satTo 0xFFFF (x.tryFails + 1) }).modShard h e sh fun x =>
    { x with trying := false, lastCause := cause, received := [], peersTried := x.peersTried ++ peer }
  let rest := ((ch.sources h e).dropWhile (· ≠ s.source)).drop 1
  if s.tries < 3 then ch.startTry k h e sh s.source (s.tries + 1)
  else match (if s.tries = 3 then rest.head? else none) with
    | some src => ch.startTry k h e sh src 1
    | none => (ch.modShard h e sh fun x => { x with st := .missing, peersTried := [] }).modEp h e Epoch.redegrade

/-- SHARD_TRY_TIMEOUT: no byte for 200 ms. -/
def execShardTryTimeout (h e sh : Nat) (s : State) : Res :=
  onChip s fun k ch =>
    let x := ((ch.mdl h).ep e).shard sh
    if ch.liveShard h e sh && x.trying && decide (x.received.length < x.length + 16) && decide (x.lastByte + 200000000 ≤ k.localNs) then
      ch.tryFailed k h e sh Status.shardUnavailable.code
    else ch

/-- The additional authenticated data of a shard (R295). -/
def shardAad (manifest : List Byte) (sh : Nat) : List Byte := slice manifest 8 12 ++ toLe sh 4

/-- The bytes a try has delivered: from own flash the kept package's, from the host and peers those received; what a peer sent in no
frame of the model is the row's operand. -/
def Chip.tryBytes (ch : Chip) (h e sh : Nat) (data : List Byte) : List Byte :=
  let m := ch.mdl h
  let ep := m.ep e
  let x := ep.shard sh
  if x.source = 2 then ((ch.keptOf m.part m.modelId ep.revision).bind fun kp => kp.shard sh).getD []
  else if x.source = 1 then x.received ++ data else x.received

/-- SHARD_TRY_COMPLETE: the tag, then the digest (R298); a digest that differs is told to the peer it came from (R299). -/
def Chip.tryComplete (ch : Chip) (k : Clock) (h e sh : Nat) (refuses : Bool) (data : List Byte) : Chip :=
  let ep := (ch.mdl h).ep e
  let x := ep.shard sh
  let bytes := ch.tryBytes h e sh data
  if !ch.liveShard h e sh || !x.trying then ch
  else if (refuses && decide (x.source ≠ 3)) || decide (x.source = 2 ∧ bytes = []) then ch.tryFailed k h e sh Status.shardUnavailable.code
  else if bytes.length ≠ x.length + 16 then ch
  else match Config.gcmOpen ep.modelKey x.nonce (shardAad ep.manifest sh) bytes with
    | none => ch.tryFailed k h e sh Status.authFailed.code
    | some plain =>
      if Config.sha512 plain ≠ x.digest then
        let from_ := (x.source, if x.source = 1 then (ch.peerFor ep x).getD 0 else 0)
        let ch := (ch.modEp h e fun y => { y with digestFails := satTo 0xFFFF (y.digestFails + 1) }).modShard h e sh fun y => { y with mismatches := y.mismatches ++ [from_] }
        let ch := if x.source = 1 then (match ch.peerFor ep x with | some d => ch.tellPeer k h e sh 7 d | none => ch) else ch
        ch.tryFailed k h e sh Status.digestMismatch.code
      else (ch.modShard h e sh fun y => { y with st := .placing, trying := false, plain := plain, received := [], tries := 0, peersTried := [], restoring := y.restoring && decide (ep.st ≠ .loading) }).modEp h e Epoch.redegrade

def execShardTryComplete (h e sh : Nat) (sourceRefuses : Bool) (data : List Byte) (s : State) : Res :=
  onChip s fun k ch => ch.tryComplete k h e sh sourceRefuses data

def shardPutChecks (q : Req) (ch : Chip) : List (Bool × Refuse) :=
  let b := q.payload
  match ch.findEpoch q.part (beAt b 0 8) (beAt b 8 4) with
  | none => [(true, (.badField, some 0))]
  | some (h, e) =>
    let ep := (ch.mdl h).ep e
    let sh := beAt b 12 2
    let x := ep.shard sh
    let host := x.trying && decide (x.source = 3)
    [ (!ch.liveShard h e sh, (.badField, some 12)), reserved q 14 2, reserved q 20 4,
      (decide (beAt b 16 4 ≠ if host then x.received.length else 0), (.badField, some 16)), (decide (x.length + 16 < beAt b 16 4 + (b.length - 24)), (.lengthRange, some 16)),
      (!host && decide (x.st ≠ .missing), (.notReady, none)) ]

/-- SHARD_PUT: host bytes in order; one that nobody asked for opens an extra host try of a MISSING shard (R300). -/
def execShardPut (q : Req) (s : State) : Res :=
  onChip s (runCmd 0x0405 q fun k ch =>
    let b := q.payload
    let sh := beAt b 12 2
    checked (shardPutChecks q ch)
      (match ch.findEpoch q.part (beAt b 0 8) (beAt b 8 4) with
       | none => ch
       | some (h, e) => (ch.modShard h e sh fun x =>
           let x := if x.trying then x else { x with st := .fetching, source := 3, tries := 4, trying := true, received := [], restoring := true }
           { x with received := x.received ++ b.drop 24, lastByte := k.localNs }).reply q .ok []))

/-! ### Placing (R301, R304, R307 to R309) -/

/-- Frames of the partition's stacks, in rising order of stack. -/
def Chip.takeAcross (ch : Chip) (p n : Nat) : Option (List Nat × Chip) :=
  let r := (List.range 4).foldl (fun (x : List Nat × Chip) s =>
    let fs := x.2.freeFrames s (min (n - x.1.length) (x.2.quotaLeft p s)) 1
    (x.1 ++ fs, x.2.takeFrames p fs)) ([], ch)
  if r.1.length = n then some r else none

/-- A weight page's flash copy is written, each sector under its header (R261, R308). -/
def Chip.writeSlot (ch : Chip) (k : Clock) (slot : Nat) (bytes : List Byte) : Chip :=
  let f := ch.flash
  ({ ch with flash := { f with
      slots := put [] f.slots slot bytes,
      heads := (List.range 16).foldl (fun m i => put {} m (slot * 16 + i) { slot := slot, sector := i, seq := f.written + i + 1 }) f.heads } } : Chip).flashWrote k 16

/-- A page that lies in a frame which stays: not one marked for retirement (R247). -/
def Chip.holdsFrame (ch : Chip) (i : Nat) : Bool :=
  let x := ch.led i
  (decide (x.st = .hbm) || decide (x.st = .hbmOnly)) && !(ch.fr x.frame).marked

/-- Frames the partition's pool still has for arrivals: its free ones, and those that retirement took out of it, which the partition's free
frames make good (R230, R247, log entry 74). -/
def Chip.poolRoom (ch : Chip) (p : Nat) : Nat :=
  ch.poolSize p - (ch.ledger.filter fun e => decide (e.2.part = p) &&
    (decide (e.2.st = .lifting) || decide (e.2.st = .dropping) || ch.holdsFrame e.1)).length

/-- The frame a verified page goes to: the one it has, unless that is marked for retirement, else one of the pool. -/
def Chip.frameForPage (ch : Chip) (i : Nat) : Option (Nat × Chip) :=
  let x := ch.led i
  if ch.holdsFrame i then some (x.frame, ch)
  else
    let ch := if x.st = .hbm || x.st = .hbmOnly then ch.freeFrame x.frame x.part false else ch
    (ch.poolFrame x.part i).or (if ch.poolRoom x.part = 0 then none else (ch.takeAcross x.part 1).bind fun r => r.1.head?.map fun f => (f, r.2))

/-- One page of a verified shard takes its residence (R228, R307, R308). -/
def Chip.placePage (ch : Chip) (k : Clock) (stream pin : Bool) (i : Nat) (bytes : List Byte) : Chip :=
  let x := ch.led i
  let ch := match x.slot with | some s => if stream then ch.writeSlot k s bytes else ch | none => ch
  if stream && !pin then
    let ch := if x.st = .hbm || x.st = .dropping || x.st = .lifting then ch.poolReturn x.part i x.frame else ch
    let ch := (ch.modLed i fun y => { y with st := .flash, suspect := false, frame := 0, sectors := [] }).pteTo x.part x.dpage none
    if x.liftHeld then ch.heldLift x.part i else ch
  else match ch.frameForPage i with
    | none => ch
    | some (f, ch) =>
      ((ch.writePhys k (f * 65536) bytes).modLed i fun y => { y with st := if stream then .hbm else .hbmOnly, suspect := false, pin := true, frame := f, sectors := [] }).pteTo x.part x.dpage (some f)

/-- The pages of a shard in its window. -/
def Shard.pageOffsets (s : Shard) : List Nat := (List.range (s.length / 65536)).map fun i => s.offset / 65536 + i

/-- The ledger entries of a shard. -/
def Shard.lidxs (x : Shard) (ep : Epoch) : List Nat := x.pageOffsets.map (ep.ledBase + ·)

/-- The frames the pool lacks for a verified shard, beside those on their way back to it. -/
def Chip.framesLacking (ch : Chip) (p : Nat) (ep : Epoch) (x : Shard) : Nat :=
  if x.kind || (ep.stream && !x.pin) then 0
  else ((x.lidxs ep).filter fun i => !ch.holdsFrame i).length - ch.poolRoom p

/-- An arrival that finds the pool full drops pages as a lift does, and waits for their frames (R230, log entry 74). -/
def Chip.makeRoom (ch : Chip) (p n : Nat) : Chip :=
  (List.range (n - (ch.pagesIn p .dropping false).length)).foldl (fun c _ => match c.victim p with | some v => c.dropPage v | none => c) ch

/-- A verified shard whose pages the worn flash no longer takes goes MISSING (R265). -/
def Chip.placeRefused (ch : Chip) (h e sh : Nat) : Chip :=
  (ch.modShard h e sh fun y => { y with st := .missing, plain := [], lastCause := Status.noResource.code }).modEp h e Epoch.redegrade

/-- SHARD_PLACED, once no request translated under an old entry of its pages is in flight (R224): a weight shard's pages take their ledger transitions, a fallback shard's pages become readable; the shard is RESIDENT
(R301, R303, R304). -/
def Chip.shardPlaced (ch : Chip) (k : Clock) (h e sh : Nat) : Chip :=
  let m := ch.mdl h
  let ep := m.ep e
  let x := ep.shard sh
  if !ch.liveShard h e sh || x.st ≠ .placing || (!x.kind && (x.lidxs ep).any fun i => (ch.led i).inflight ≠ 0) then ch
  else if !x.kind && ep.stream && decide (100 ≤ ch.flash.wear) then ch.placeRefused h e sh
  else if ch.framesLacking m.part ep x ≠ 0 then ch.makeRoom m.part (ch.framesLacking m.part ep x)
  else
    let page : Nat → List Byte := fun i => slice x.plain ((i - x.offset / 65536) * 65536) 65536
    let ch :=
      if x.kind then
        let gs := x.pageOffsets.map (ep.fbase / 65536 + ·)
        let ch := ch.writeDva k m.part (ep.fbase + x.offset) x.plain
        (ch.modPt m.part fun y => { y with pages := gs.foldl (fun t g => upd {} t g fun z => { z with rd := true }) y.pages }).dropTlb m.part gs
      else x.pageOffsets.foldl (fun c i => c.placePage k ep.stream x.pin (ep.ledBase + i) (page i)) ch
    let ch := (ch.modShard h e sh fun y => { y with st := .resident, plain := [], restoring := false, hashedAt := k.localNs, hashing := false }).modEp h e Epoch.redegrade
    if x.restoring then ch.raise k m.part 0xE021 .ok 0 (shardName m.modelId ep.revision sh ++ zeros 2) else ch

def execShardPlaced (h e sh : Nat) (s : State) : Res := onChip s fun k ch => ch.shardPlaced k h e sh

/-! ### MODEL_STAGE, MODEL_LOAD (R296, R297) -/

/-- MODEL_STAGE (R392). -/
def execModelStage (q : Req) (s : State) : Res :=
  onChip s (runCmd 0x0401 q fun _ ch =>
    let off := beAt q.payload 0 4
    let data := q.payload.drop 8
    checked [ (decide (off ≠ 0) && decide (off ≠ (ch.pt q.part).staging.length), (.badField, some 0)), reserved q 4 4,
              (decide (16777216 < off + data.length), (.lengthRange, some 0)) ]
      ((ch.modPt q.part fun x => { x with staging := (if off = 0 then [] else x.staging) ++ data }).reply q .ok []))

/-- A MODEL_LOAD payload (R392). -/
structure LoadReq where
  kept : Bool
  stream : Bool
  keep : Bool
  peers : List Nat
  model : Nat
  rev : Nat
  rehash : Nat
  wbase : Nat
  fbase : Nat
  pool : Nat
  job : Nat
  lcids : BitVec 64
  deriving DecidableEq, Repr

def loadReq (b : List Byte) : LoadReq :=
  { kept := decide (beAt b 0 1 = 1), stream := decide (beAt b 1 1 = 1), keep := decide (beAt b 2 1 = 1), peers := (List.range (beAt b 3 1)).map fun i => beAt b (56 + 2 * i) 2,
    model := beAt b 4 8, rev := beAt b 12 4, rehash := beAt b 16 4, wbase := beAt b 20 8, fbase := beAt b 28 8, pool := beAt b 36 4, job := beAt b 40 2,
    lcids := BitVec.ofNat 64 (beAt b 44 8) }

/-- The manifest a load names. -/
def Chip.loadManifest (ch : Chip) (p : Nat) (l : LoadReq) : Option (List Byte) :=
  if l.kept then (ch.keptOf p l.model l.rev).map (·.manifest) else some (ch.pt p).staging

/-- Epochs of a model resident in a partition. -/
def Chip.epochCount (ch : Chip) (p model : Nat) : Nat := ((ch.epochsOf p).filter fun x => decide ((ch.mdl x.1).modelId = model)).length

def loadChecks (q : Req) (ch : Chip) : List (Bool × Refuse) :=
  let b := q.payload
  let p := ch.pt q.part
  let l := loadReq b
  let m := (ch.loadManifest q.part l).getD []
  let n := beAt b 3 1
  [ (decide (l.lcids &&& ~~~p.lcids ≠ 0), (.notPermitted, some 44)),
    (decide (0 < n) && (match ch.jobSlot l.job with | some (_, j) => decide (j.part ≠ q.part) | none => true), (.notPermitted, some 40)),
    (decide (2 ^ 48 < l.wbase + mfWsize m), (.notPermitted, some 20)), (decide (2 ^ 48 < l.fbase + mfFsize m), (.notPermitted, some 28)),
    (decide (1 < beAt b 0 1) || (l.kept && (ch.loadManifest q.part l).isNone), (.badField, some 0)), (decide (1 < beAt b 1 1), (.badField, some 1)),
    (decide (1 < beAt b 2 1), (.badField, some 2)), reserved q 42 2, reserved q 52 4, (decide (l.rehash < 60) || decide (86400 < l.rehash), (.badField, some 16)),
    (decide (l.wbase % 65536 ≠ 0), (.badField, some 20)), (decide (l.fbase % 65536 ≠ 0), (.badField, some 28)), (decide (m.length < 232), (.badField, some 0)),
    (decide (8 < n), (.lengthRange, some 3)), (decide (b.length ≠ 56 + (2 * n + 3) / 4 * 4), (.lengthRange, some 3)), (decide (16777216 < m.length), (.lengthRange, some 0)),
    ((ch.findEpoch q.part l.model l.rev).isSome, (.badField, some 4)), (decide (2 ≤ ch.epochCount q.part l.model), (.weightsBusy, some 4)),
    (decide (mfVersion m = 2) && !(p.modelKeys.any fun x => decide (x.1 = mfKeyId m)), (.notReady, none)),
    (ch.power.flashHold && (l.keep || l.stream), (.notReady, none)),
    ((ch.handleOf q.part l.model).isNone && !((List.range 16).any fun h => p.ownsHandle h && !(ch.mdl h).valid), (.noResource, none)), ch.worksFull q ]

/-- The handle a load takes, and the epoch slot (R315). -/
def Chip.loadSlot (ch : Chip) (p model : Nat) : Nat × Nat :=
  match ch.handleOf p model with
  | some h => (h, if (ch.mdl h).ep0.st = .empty then 0 else 1)
  | none => (((List.range 16).find? fun h => (ch.pt p).ownsHandle h && !(ch.mdl h).valid).getD 0, 0)

/-- Whether a table slot is referenced on the named lcids, or used by a resident epoch of the partition (step 4). -/
def Chip.tableBusy (ch : Chip) (p : Nat) (lcids : BitVec 64) (slot : Nat) : Bool :=
  ((lcidsOf lcids).any fun l => match ch.pcid l with | some c => decide (0 < ch.slotRefs c slot) | none => false) ||
  (ch.epochsOf p).any fun x => decide (slot ∈ ((ch.mdl x.1).ep x.2).tables)

/-- The window pages of a load. -/
def windowPages (base size : Nat) : List Nat := (List.range (size / 65536)).map (base / 65536 + ·)

/-- Steps 3 and 4: the failure of the windows, frames or table slots; else the frames taken, fallback first, and the ledger and flash runs. -/
def Chip.loadRoom (ch : Chip) (p : Nat) (l : LoadReq) (m : List Byte) : Except Status (Chip × List Nat × List Nat × Nat × Nat) :=
  let w := windowPages l.wbase (mfWsize m)
  let f := windowPages l.fbase (mfFsize m)
  let pins := (((List.range (mfWshards m)).map (mfShard m)).filter (·.pin)).map fun s => s.length / 65536
  let pool := if l.stream then l.pool else w.length
  if (w ++ f).any (fun g => ((ch.pt p).pte g).v) || overlaps l.wbase (mfWsize m) l.fbase (mfFsize m) then .error .badField
  else if l.stream && (decide (pool < pins.sum + 4096) || decide (w.length < pool)) then .error .noResource
  else if (l.stream || l.keep) && decide (100 ≤ ch.flash.wear) then .error .noResource
  else
    let led := lowestRun (ch.ledger.map fun e => (e.1, 1)) w.length 8388607
    let slot := if l.stream then lowestRun (ch.flash.usedSlots.map fun e => (e.1, 1)) w.length 67108864 else some 0
    match (ch.takeAcross p f.length).bind fun a => (a.2.takeAcross p pool).map fun b => (a.1, b.1, b.2), led, slot with
    | some (fs, ps, ch'), some i, some s =>
      if (List.range (mfTables m)).any fun t => ch.tableBusy p l.lcids (mfTable m t).1 then .error .tableInUse else .ok (ch', fs, ps, i, s)
    | _, _, _ => .error .noResource

/-- Steps 5 and 6: windows, ledger entries, tables and shards. -/
def Chip.loadMap (ch : Chip) (p h e : Nat) (l : LoadReq) (m key : List Byte) (fs ps : List Nat) (led slot work : Nat) : Chip :=
  let w := windowPages l.wbase (mfWsize m)
  let f := windowPages l.fbase (mfFsize m)
  let ch := (ch.needTables p (w ++ f)).modPt p fun x => { x with
    pages := (f.zip fs).foldl (fun t g => put {} t g.1 { v := true, frame := g.2 })
      (w.foldl (fun t g => put {} t g { v := true, rd := true, wt := true, fl := true, lidx := led + (g - l.wbase / 65536) }) x.pages) }
  let ch := { ch with
    ledger := w.foldl (fun t g => let i := g - l.wbase / 65536
      put {} t (led + i) { st := .absent, dpage := g, part := p, suspect := true, slot := if l.stream then some (slot + i) else none }) ch.ledger,
    flash := { ch.flash with usedSlots := if l.stream then (List.range w.length).foldl (fun t i => put 0 t (slot + i) (p + 1)) ch.flash.usedSlots else ch.flash.usedSlots } }
  let tables := (List.range (mfTables m)).map (mfTable m)
  let ch := ((lcidsOf l.lcids).filterMap ch.pcid).foldl (fun c x => c.modCl x fun y =>
    { y with codec := tables.foldl (fun t r => put {} t r.1 { valid := true, image := r.2 }) y.codec }) ch
  let shards := tabOf ({} : Shard) (List.range (mfShards m)) fun i =>
    let s := mfShard m i
    { kind := s.kind, pin := s.pin, offset := s.offset, length := s.length, nonce := s.nonce, digest := s.digest }
  let ep : Epoch :=
    { st := .loading, revision := l.rev, stream := l.stream, darino := decide (mfVersion m = 1), keyId := mfKeyId m, modelKey := key, wbase := l.wbase, fbase := l.fbase,
      wsize := mfWsize m, fsize := mfFsize m, pool := ps.length, keep := l.keep, srcOrder := m.getD 6 0, peers := l.peers, peerJob := l.job,
      devices := (List.range (mfNdev m)).map fun i => slice m (mfDevAt m i) 32, manifest := m, shards := shards, nshards := mfShards m,
      layers := (List.range (mfLayers m)).map (mfLayer m), tables := tables.map (·.1), sched := mfSched m, ledBase := led,
      pageKey := Config.random ch.sec.randoms 64, free := ps, work := some work }
  let ch := { ch with sec := { ch.sec with randoms := ch.sec.randoms + 1 } }
  ch.modMdl h fun x => ({ x with valid := true, part := p, modelId := l.model, rehash := l.rehash } : Model).modEp e fun _ => ep

/-- The load after its acceptance: a failure ends it with its code and leaves nothing reserved (R296, R297). -/
def Chip.loadRun (ch : Chip) (k : Clock) (p h e : Nat) (l : LoadReq) (w : Work) : Chip :=
  let m := (ch.loadManifest p l).getD []
  match ch.mfCheck p m l.model l.rev l.stream with
  | .error st => ch.complete k w 0xE001 st []
  | .ok key =>
    match ch.loadRoom p l m with
    | .error st => ch.complete k w 0xE001 st []
    | .ok (ch', fs, ps, led, slot) =>
      (List.range (mfShards m)).foldl (fun c i => c.fetchShard k h e i) (ch'.loadMap p h e l m key fs ps led slot w.id)

/-- MODEL_LOAD (R296, R297). -/
def execModelLoad (q : Req) (s : State) : Res :=
  onChip s (runCmd 0x0402 q fun k ch =>
    match firstFail (loadChecks q ch) with
    | some r => .error r
    | none =>
      let l := loadReq q.payload
      let x := ch.loadSlot q.part l.model
      let a := ch.accept k q 0x0402 (.load x.1 x.2)
      .ok ((a.2.reply q .accepted (toBe x.1 1 ++ zeros 3)).loadRun k q.part x.1 x.2 l a.1))

/-- The missing shards of an epoch with the last cause of each, as a load's completion lists them. -/
def Epoch.missingList (e : Epoch) : List Byte :=
  ((List.range e.nshards).filter fun i => (e.shard i).st = .missing).flatMap fun i => toBe i 2 ++ toBe (e.shard i).lastCause 2

/-- Whether an epoch in which weight shards are missing may run: fallback shards verified, every layer that names one of them covered (R302); a
Darino package has none that cover (R314). -/
def Epoch.runnable (e : Epoch) : Bool :=
  !e.darino && (List.range e.nshards).all (fun i => !(e.shard i).kind || decide ((e.shard i).st ≠ .missing)) &&
  e.layers.all fun l => l.fb || !((List.range l.count).any fun i => decide ((e.shard (l.first + i)).st = .missing))

/-- LOAD_COMPLETE (R302, R310): the schedule is activated, and a package to be kept begins to be written. -/
def Chip.loadComplete (ch : Chip) (k : Clock) (h e : Nat) : Chip :=
  let m := ch.mdl h
  let ep := m.ep e
  let busy := (List.range ep.nshards).any fun i => let s := (ep.shard i).st; decide (s = .waiting) || decide (s = .fetching) || decide (s = .placing)
  if ep.st ≠ .loading || ep.releasing || busy then ch
  else
    let done : Status → Chip → Chip := fun st c => match ep.work.bind c.work? with | some w => c.complete k w 0xE001 st ep.missingList | none => c
    if ep.missingList.isEmpty || ep.runnable then
      let other := m.ep (1 - e)
      let st := if other.st = .empty then EpochState.current else .standby
      let ch := (ch.modMdl h fun x => { x with cur := if st = .current then e else x.cur }).modEp h e fun x => ({ x with st := st, work := none } : Epoch).redegrade
      let ch := done (if ep.missingList.isEmpty then .ok else .degraded) (ch.liftsAt h e 0)
      if ep.keep && !ep.darino then
        { ch with works := ch.works ++ [{ id := ch.nextWork, part := m.part, ctx := 0, session := 0, seqNo := 0, opcode := 0x0402, kind := .flashKeep h e }],
                  nextWork := ch.nextWork + 1 }
      else ch
    else done .shardUnavailable (ch.releaseEpoch h e false)

def execLoadComplete (h e : Nat) (s : State) : Res := onChip s fun k ch => ch.loadComplete k h e

/-- SHARD_RETRY_DUE: once per re-hash interval the source order runs again for every MISSING shard (R303), the interval on the local count
(DESIGN CHOICE, log entry 56). -/
def execShardRetryDue (h e : Nat) (s : State) : Res :=
  onChip s fun k ch =>
    let m := ch.mdl h
    let ep := m.ep e
    if ep.st = .empty || ep.st = .loading || ep.releasing || k.localNs < ep.lastRetry + m.rehash * 1000000000 then ch
    else
      ((List.range ep.nshards).filter fun i => decide ((ep.shard i).st = .missing)).foldl
        (fun c i => (c.modShard h e i fun x => { x with restoring := true, peersTried := [] }).fetchShard k h e i) (ch.modEp h e fun x => { x with lastRetry := k.localNs })

/-! ### Re-hash (R305, R306) -/

/-- A shard of a resident epoch goes SUSPECT and its sources run again (R304, R306). -/
def Chip.suspectShard (ch : Chip) (k : Clock) (h e sh : Nat) : Chip :=
  let ep := (ch.mdl h).ep e
  let x := ep.shard sh
  if x.st ≠ .resident || x.kind then ch
  else
    let ch := x.pageOffsets.foldl (fun c i => c.setSuspect (ep.ledBase + i)) ch
    (ch.modShard h e sh fun y => { y with st := .suspect, peersTried := [], hashing := false }).fetchShard k h e sh

/-- Shards with a page that a read error or a failed block left suspect follow it (R304). -/
def Chip.suspectShards (ch : Chip) (k : Clock) : Chip :=
  (List.range 16).foldl (fun c h => [0, 1].foldl (fun c e =>
    let ep := (c.mdl h).ep e
    if ep.st = .empty || ep.st = .loading || ep.releasing then c
    else (List.range ep.nshards).foldl (fun c i =>
      let x := ((c.mdl h).ep e).shard i
      if x.st = .resident && !x.kind && x.pageOffsets.any (fun g => (c.led (ep.ledBase + g)).suspect) then c.suspectShard k h e i else c) c) c) ch

/-- The bytes a page's reads are served from (R227). -/
def Chip.pageBytes (ch : Chip) (i : Nat) : List Byte :=
  let x := ch.led i
  if x.st = .hbm || x.st = .hbmOnly then ch.readPhys (x.frame * 65536) 65536
  else match x.slot with
    | some s => if (List.range 16).all (ch.flash.readable s) then slice (look [] ch.flash.slots s ++ zeros 65536) 0 65536 else []
    | none => []

/-- The plaintext of a shard as its pages' reads serve it: a weight shard's page by page, a fallback shard's through its window. -/
def Chip.shardBytes (ch : Chip) (p : Nat) (ep : Epoch) (x : Shard) : List Byte :=
  if x.kind then ch.readDva p (ep.fbase + x.offset) x.length else (x.lidxs ep).flatMap ch.pageBytes

/-- The physical ranges of a shard's pages in HBM. -/
def Chip.shardRuns (ch : Chip) (p : Nat) (ep : Epoch) (x : Shard) : List (Nat × Nat) :=
  if x.kind then (ch.runsMem p (ep.fbase + x.offset) x.length).map fun r => (r.1, r.2.2)
  else ((x.lidxs ep).filter fun i => decide ((ch.led i).st = .hbm) || decide ((ch.led i).st = .hbmOnly)).map fun i => ((ch.led i).frame * 65536, 65536)

/-- A shard's plaintext read: errors are counted and handled as of any read, a page that passes to flash is read there, and another lost word
is not delivered (R246, R247, R305). -/
def Chip.readShard (ch : Chip) (k : Clock) (p : Nat) (ep : Epoch) (x : Shard) : Option (List Byte) × Chip :=
  let ch := (ch.shardRuns p ep x).foldl (fun c r => c.touchPhys k r.1 r.2) ch
  (if (ch.shardRuns p ep x).any fun r => ch.lostPhys r.1 r.2 then none else some (ch.shardBytes p ep x), ch)

/-- REHASH_DUE: a RESIDENT weight shard's interval has passed (R305), on the local count (DESIGN CHOICE, log entry 56). -/
def execRehashDue (h e sh : Nat) (s : State) : Res :=
  onChip s fun k ch =>
    let x := ((ch.mdl h).ep e).shard sh
    if ch.liveShard h e sh && decide (x.st = .resident) && !x.kind && !x.hashing && decide (x.hashedAt + (ch.mdl h).rehash * 1000000000 ≤ k.localNs) then
      ch.modShard h e sh fun y => { y with hashing := true }
    else ch

/-- REHASH_COMPLETE (R306). -/
def execRehashComplete (h e sh : Nat) (s : State) : Res :=
  onChip s fun k ch =>
    let ep := (ch.mdl h).ep e
    let x := ep.shard sh
    if !(ch.liveShard h e sh && x.hashing) then ch
    else
      let (data, ch) := ch.readShard k (ch.mdl h).part ep x
      if data.map Config.sha512 = some x.digest then ch.modShard h e sh fun y => { y with hashing := false, hashedAt := k.localNs } else ch.suspectShard k h e sh

/-! ### Peers (R299, R314) -/

/-- The epoch of a job's partition that holds a model and revision, and the job. -/
def Chip.peerEpoch (ch : Chip) (job src model rev : Nat) : Option (Job × Nat × Nat) :=
  (ch.jobSlot job).bind fun x => if src ∈ x.2.members then (ch.findEpoch x.2.part model rev).map fun y => (x.2, y.1, y.2) else none

/-- Whether a peer is in a Darino package's device list: known by the identity its hello showed. -/
def Chip.listedPeer (ch : Chip) (ep : Epoch) (src : Nat) : Bool :=
  (List.range 8).any fun i => decide ((ch.prt i).partner = src) && decide ((ch.prt i).st = .up) && decide ((Config.sha512 (ch.prt i).partnerPub).take 32 ∈ ep.devices)

/-- Bytes cut into messages of at most 2,048 bytes. -/
def chunks (bs : List Byte) : Nat → List (List Byte)
  | 0 => []
  | n + 1 => if bs.isEmpty then [] else bs.take 2048 :: chunks (bs.drop 2048) n

/-- PEER_SHARD_REQUEST: served from the kept package or sealed again from verified pages, else refused. -/
def Chip.servePeer (ch : Chip) (k : Clock) (job src model rev sh : Nat) : Chip :=
  match ch.peerEpoch job src model rev with
  | none => match ch.jobSlot job with
    | some (_, j) => if src ∈ j.members then (match ch.flowSend k j src (shardFlow 16 0) false (flowMsg 6 0 0 0 14 (shardName model rev sh)) with | some x => x.2 | none => ch) else ch
    | none => ch
  | some (j, h, e) =>
    let ep := (ch.mdl h).ep e
    let x := ep.shard sh
    let (bytes, ch) : List Byte × Chip :=
      if sh ≥ ep.nshards || (ep.darino && !ch.listedPeer ep src) then ([], ch)
      else match (ch.keptOf j.part model rev).bind fun kp => kp.shard sh with
        | some b => (b, ch)
        | none =>
          if x.st ≠ .resident then ([], ch)
          else let r := ch.readShard k j.part ep x; ((r.1.map (Config.gcmSeal ep.modelKey x.nonce (shardAad ep.manifest sh))).getD [], r.2)
    if bytes.isEmpty then (match ch.flowSend k j src (shardFlow h e) false (flowMsg 6 0 0 0 14 (shardName model rev sh)) with | some y => y.2 | none => ch)
    else (chunks bytes (bytes.length / 2048 + 1)).foldl (fun c b =>
      match c.flowSend k j src (shardFlow h e) false (flowMsg 5 0 0 0 (14 + b.length) (shardName model rev sh ++ b)) with | some y => y.2 | none => c) ch

def execPeerShardRequest (job src model rev shard : Nat) (s : State) : Res := onChip s fun k ch => ch.servePeer k job src model rev shard

/-- A peer found this device's copy wrong: the shard is suspect as after a failed re-hash (R299). -/
def Chip.peerMismatch (ch : Chip) (k : Clock) (job src model rev sh : Nat) : Chip :=
  match ch.peerEpoch job src model rev with
  | some (_, h, e) => if ch.liveShard h e sh && decide (((ch.mdl h).ep e).st ≠ .loading) then ch.suspectShard k h e sh else ch
  | none => ch

def execPeerMismatchReport (job src model rev shard : Nat) (s : State) : Res := onChip s fun k ch => ch.peerMismatch k job src model rev shard

/-- Shard bytes of a peer arrive: those of the shard whose try at that peer is open; a refusal fails the try (R298). -/
def Chip.peerData (ch : Chip) (k : Clock) (p src : Nat) (refuse : Bool) (model rev sh : Nat) (bytes : List Byte) : Chip :=
  match ch.findEpoch p model rev with
  | none => ch
  | some (h, e) =>
    let ep := (ch.mdl h).ep e
    let x := ep.shard sh
    if !ch.liveShard h e sh || !x.trying || x.source ≠ 1 || ch.peerFor ep x ≠ some src then ch
    else if refuse then ch.tryFailed k h e sh Status.shardUnavailable.code
    else ch.modShard h e sh fun y => { y with received := y.received ++ bytes, lastByte := k.localNs }

/-! ### Epochs (R310 to R313) -/

/-- SWITCH_WEIGHTS (R311). -/
def execSwitchWeights (q : Req) (s : State) : Res :=
  onChip s (runCmd 0x0404 q fun _ ch =>
    match ch.findEpoch q.part (beAt q.payload 0 8) (beAt q.payload 8 4) with
    | none => .error (.badField, some 0)
    | some (h, e) =>
      let ep := (ch.mdl h).ep e
      checked [ (ep.releasing, (.badField, some 8)), (decide (ep.st = .loading), (.notReady, some 8)) ]
        ((if ep.st = .current then ch
          else (ch.modMdl h fun m => { (m.modEp (1 - e) fun x => if x.st = .current then { x with st := .draining } else x) with cur := e }).modEp h e fun x => { x with st := .current }).reply q .ok []))

/-- An unload and its release end the load they interrupt, as one that cannot complete. -/
def Chip.endLoad (ch : Chip) (k : Clock) (h e : Nat) : Chip :=
  let ep := (ch.mdl h).ep e
  match ep.work.bind ch.work? with
  | some w => (ch.complete k w 0xE001 .shardUnavailable ep.missingList).modEp h e fun x => { x with work := none }
  | none => ch

/-- A released epoch whose last page is free ends the unload that asked for it. -/
def Chip.unloadDone (ch : Chip) (k : Clock) (h e : Nat) : Chip :=
  if ((ch.mdl h).ep e).st ≠ .empty then ch
  else match ch.works.find? fun w => decide (w.kind = .unload h e) with
    | some w => ch.complete k w 0xE001 .ok []
    | none => ch

/-- MODEL_UNLOAD: refused while requests are bound (R313). -/
def execModelUnload (q : Req) (s : State) : Res :=
  onChip s (runCmd 0x0403 q fun k ch =>
    let h := beAt q.payload 0 1
    let m := ch.mdl h
    let e := if m.ep0.st ≠ .empty && m.ep0.revision = beAt q.payload 4 4 then 0 else 1
    let ep := m.ep e
    checked
      [ (decide (16 ≤ h) || !(ch.pt q.part).ownsHandle h, (.notPermitted, some 0)), reserved q 1 3, (!m.valid, (.badField, some 0)),
        (decide (ep.st = .empty) || decide (ep.revision ≠ beAt q.payload 4 4) || ep.releasing, (.badField, some 4)), (decide (0 < ch.bound h e), (.weightsBusy, some 4)), ch.worksFull q ]
      (((((ch.acceptReply k q 0x0403 (.unload h e) []).endLoad k h e).releaseEpoch h e false).unloadDone k h e)))

/-- EPOCH_RELEASE: a DRAINING epoch with no bound request is released, as far as its requests in flight let it (R313). -/
def execEpochRelease (h e : Nat) (s : State) : Res :=
  onChip s fun k ch =>
    let ep := (ch.mdl h).ep e
    if ep.releasing || (decide (ep.st = .draining) && decide (ch.bound h e = 0)) then (ch.releaseEpoch h e false).unloadDone k h e else ch

end Sys2Proof.Machine
end

