-- ==== Sys2Proof/Machine/CodecCmds.lean ====
section
/-! DEFINITION. The table commands and the table builder (spec/09_block_codec.md R287 to R291; spec/13_host_protocol.md R392). -/

namespace Sys2Proof.Machine

/-- The lcids a table command names, and the clusters that serve them. -/
def tableLcids (q : Req) : List Nat := lcidsOf (BitVec.ofNat 64 (beAt q.payload 4 8))

def tableClusters (q : Req) (ch : Chip) : List Nat := (tableLcids q).filterMap ch.pcid

/-- What refuses a table load or clear (R287, R176). -/
def tableChecks (q : Req) (ch : Chip) (image : Option (List Byte)) : List (Bool × Refuse) :=
  let b := q.payload
  let m := BitVec.ofNat 64 (beAt b 4 8)
  let cs := tableClusters q ch
  [ (decide (m &&& ~~~(ch.pt q.part).lcids ≠ 0), (.notPermitted, some 4)), (decide (7 < beAt b 0 1), (.badField, some 0)), reserved q 1 3,
    (match image with | some i => !imgValid i | none => false, (.badField, some 12)),
    (cs.any fun c => decide ((ch.cl c).svc ≠ .owned), (.notReady, some 4)), (cs.any fun c => decide (0 < ch.slotRefs c (beAt b 0 1)), (.tableInUse, some 0)),
    ((tableLcids q).any fun l => (ch.pcid l).isNone, (.noResource, some 4)), ch.worksFull q ]

/-- The named slot is empty while the command is in progress (R287). -/
def Chip.emptySlots (ch : Chip) (cs : List Nat) (slot : Nat) : Chip := cs.foldl (fun c x => c.modCl x fun y => { y with codec := put {} y.codec slot {} }) ch

/-- TABLE_LOAD (R287). -/
def execTableLoad (q : Req) (s : State) : Res :=
  onChip s (runCmd 0x0406 q fun k ch =>
    let slot := beAt q.payload 0 1
    let img := q.payload.drop 12
    let cs := tableClusters q ch
    checked (tableChecks q ch (some img)) ((ch.emptySlots cs slot).acceptReply k q 0x0406 (.tableLoad (tableLcids q) slot img) []))

/-- TABLE_CLEAR (R287). -/
def execTableClear (q : Req) (s : State) : Res :=
  onChip s (runCmd 0x0407 q fun k ch =>
    let slot := beAt q.payload 0 1
    let cs := tableClusters q ch
    checked (tableChecks q ch none) ((ch.emptySlots cs slot).acceptReply k q 0x0407 (.tableLoad (tableLcids q) slot []) []))

/-- An accepted table load acts on the clusters that serve its lcids when it completes, on all or on none: with an lcid that no cluster serves
any more it completes with NO_RESOURCE (R287, log entry 75). -/
def Chip.tablesDone (ch : Chip) (k : Clock) (w : Work) (ls : List Nat) (slot : Nat) (img : List Byte) : Chip :=
  let cs := ls.filterMap ch.pcid
  if (ls.any fun l => (ch.pcid l).isNone) || cs.any fun c => decide ((ch.cl c).svc ≠ .owned) then ch.complete k w 0xE001 .noResource []
  else
    (cs.foldl (fun c x => c.modCl x fun y =>
      { y with codec := put {} y.codec slot (if img.isEmpty then {} else { valid := true, image := img }) }) ch).complete k w 0xE001 .ok []

/-- TABLE_LOAD_COMPLETE: the image is in the slots it was loaded to, or they stay empty after a clear (R287). -/
def execTableLoadComplete (id : Nat) (s : State) : Res :=
  onChip s fun k ch =>
    match ch.work? id with
    | none => ch
    | some w =>
      match w.kind with
      | .tableLoad ls slot img => ch.tablesDone k w ls slot img
      | _ => ch

/-- TABLE_BUILD (R290). -/
def execTableBuild (q : Req) (s : State) : Res :=
  onChip s (runCmd 0x0408 q fun k ch =>
    let b := q.payload
    checked [ (decide (1 < beAt b 0 1), (.badField, some 0)), (decide (1 < beAt b 1 1), (.badField, some 1)), reserved q 2 2, ch.worksFull q ]
      (ch.acceptReply k q 0x0408 (.tableBuild (beAt b 0 1) (decide (beAt b 1 1 = 1)) (beAt b 4 4) (beAt b 8 8) (beAt b 16 8)) []))

/-- The bytes of a page of a partition as its reads are served: from HBM, or a weight page's from where its ledger entry says; none when no
read of it is issued (R227, R229). -/
def Chip.pageServed (ch : Chip) (p g : Nat) : Option (List Byte) :=
  let e := (ch.pt p).pte g
  if !e.v || !e.rd then none
  else if e.wt then (let l := ch.led e.lidx; if l.suspect || decide (l.st = .absent) then none else some (ch.pageBytes e.lidx))
  else some (ch.readPhys (e.phys (g * 65536)) 65536)

/-- A DVA range as its reads are served, or the first DVA that no read reaches. -/
def Chip.readServed (ch : Chip) (p dva n : Nat) : Except Nat (List Byte) :=
  match (pagesOf dva n).find? fun g => (ch.pageServed p g).isNone with
  | some g => .error (max dva (g * 65536))
  | none => .ok (slice ((pagesOf dva n).flatMap fun g => (ch.pageServed p g).getD []) (dva % 65536) n)

/-- TABLE_BUILD_COMPLETE: the image written, with present and the bits of the counted symbols; a page that cannot be read or written, or a
code word that is lost, ends the build with its DVA and no image (R246, R290, R291, log entry 76). -/
def Chip.buildDone (ch : Chip) (k : Clock) (w : Work) (width : Nat) (all : Bool) (n src dst : Nat) : Chip :=
  if n = 0 then ch.complete k w 0xE001 .ok (zeros 12)
  else if ch.rangeShut k w.part src n || ch.rangeShut k w.part dst 144 || ch.workEarlier w then ch
  else
    let ch := ch.touchDva k w.part src n
    match ch.firstLost w.part src n false, ch.readServed w.part src n with
    | some o, _ => ch.complete k w 0xE001 .dataLost (toBe (src + o) 8)
    | none, .error a => ch.complete k w 0xE001 .notPermitted (toBe a 8)
    | none, .ok bytes =>
      if (ch.pt w.part).rangeBad dst 144 true then ch.complete k w 0xE001 .notPermitted (toBe dst 8)
      else
        let counts := symCounts width all bytes
        let lens := buildLens width counts
        let lost := ch.firstLost w.part dst 144 true
        (ch.writeDva k w.part dst (buildImage width lens)).complete k w 0xE001 (if lost.isSome then .dataLost else .ok)
          (match lost with
           | some o => toBe (dst + o) 8
           | none => toBe (lens.filter (· ≠ 0)).length 2 ++ zeros 2 ++ toBe (codeCost counts lens) 8)

def execTableBuildComplete (id : Nat) (s : State) : Res :=
  onChip s fun k ch =>
    match ch.work? id with
    | none => ch
    | some w =>
      match w.kind with
      | .tableBuild width all n src dst => ch.buildDone k w width all n src dst
      | _ => ch

end Sys2Proof.Machine
end

