-- ==== Sys2Proof/Machine/KvOps.lean ====
section
/-! DEFINITION. Sequences, their lists and tables, and eviction (spec/11_attention_kv.md R320 to R324, R328, R337, R342, R343). -/

namespace Sys2Proof.Machine

/-! ### Layout (R320 to R322) -/

/-- Head dimension D. -/
def KvSeq.hd (x : KvSeq) : Nat := 64 * 2 ^ x.dim

/-- Bytes of a KV element. -/
def KvSeq.eb (x : KvSeq) : Nat := if x.fmt = 2 then 2 else 1

/-- Slots of a list, Ns. -/
def KvSeq.ns (x : KvSeq) : Nat := x.budget0 / 16 + x.recent0

/-- Bytes of a table copy, Tsz. -/
def KvSeq.tsz (x : KvSeq) : Nat := 4096 * ceilDiv (32 + x.budget0) 4096

/-- Bytes of a slot, S. -/
def KvSeq.slotBytes (x : KvSeq) : Nat := 32 * x.hd * x.eb

def KvSeq.count (x : KvSeq) : Nat := x.layers * x.heads

/-- Bytes a sequence's range must hold. -/
def KvSeq.size (x : KvSeq) : Nat := 2 * x.count * x.tsz + x.count * x.ns * x.slotBytes

def KvSeq.tableDva (x : KvSeq) (i c : Nat) : Nat := x.kvBase + (2 * i + c) * x.tsz
def KvSeq.slotDva (x : KvSeq) (i j : Nat) : Nat := x.kvBase + 2 * x.count * x.tsz + (i * x.ns + j) * x.slotBytes

def KvSeq.engineList (x : KvSeq) : List Nat := (List.range 16).filter fun e => x.engines.getLsbD e

/-- The engine a list lives on (R321). -/
def KvSeq.engineOf (x : KvSeq) (i : Nat) : Option Nat := x.engineList[i % x.engineList.length]?

/-- The block budget B in force. -/
def KvSeq.blockMax (x : KvSeq) : Nat := x.budget / 16

def KvSeq.list (x : KvSeq) (i : Nat) : KvList := look {} x.lists i

/-- The descriptor of R320. -/
def kvDescriptor (b : List Byte) : KvSeq :=
  let f := leAt b 19 1
  { valid := true, kvBase := leAt b 0 6, kvLen := leAt b 8 8, layers := leAt b 16 1, heads := leAt b 17 1, g := leAt b 18 1,
    dim := bitsAt f 0 2, fmt := bitsAt f 2 2, pe := bitsAt f 4 2, pair := bitAt f 6, sink := bitAt f 7, budget := leAt b 20 4, budget0 := leAt b 20 4,
    anchors := leAt b 24 1, recent := leAt b 25 1, recent0 := leAt b 25 1, ropeDims := leAt b 26 2, window := leAt b 28 4,
    smScale := BitVec.ofNat 32 (leAt b 32 4), kScale := BitVec.ofNat 32 (leAt b 36 4), vScale := BitVec.ofNat 32 (leAt b 40 4),
    decay := BitVec.ofNat 32 (leAt b 44 4), ropeBase := BitVec.ofNat 32 (leAt b 48 4), engines := BitVec.ofNat 16 (leAt b 52 2) }

/-! ### Tables (R323) -/

def KvBlock.bytes (b : KvBlock) : List Byte :=
  toLe b.pos 4 ++ toLe b.count 1 ++ toLe (optBool (b.span ≠ 0)) 1 ++ toLe b.span 2 ++ toLe b.slot 2 ++ zeros 2 ++ toLe b.score.toNat 4

def kvBlock (b : List Byte) : KvBlock :=
  { pos := leAt b 0 4, count := leAt b 4 1, span := if bitAt (leAt b 5 1) 0 then leAt b 6 2 else 0, slot := leAt b 8 2, score := BitVec.ofNat 32 (leAt b 12 4) }

/-- Header bytes 0 to 7 and 12 to 31 of a list. -/
def KvList.headLo (l : KvList) : List Byte := toLe l.gen 4 ++ toLe l.blocks.length 2 ++ zeros 2
def KvList.headHi (l : KvList) : List Byte := toLe l.last 4 ++ toLe l.run 4 ++ toLe l.task 4 ++ zeros 8
def KvList.entries (l : KvList) : List Byte := l.blocks.flatMap KvBlock.bytes

/-- A list with the CRC of its table. -/
def KvList.seal (l : KvList) : KvList := { l with crc := crc32c (l.headLo ++ l.headHi ++ l.entries) }

/-- The bytes of a sealed list's table copy. -/
def KvList.bytes (l : KvList) : List Byte := l.headLo ++ toLe l.crc.toNat 4 ++ l.headHi ++ l.entries

/-- A list with no block, as KV_CREATE leaves it. -/
def emptyList : KvList := ({} : KvList).seal

/-- A table copy as read: the list it spells, and whether its gen or CRC differs from the record (R342). -/
def kvParse (old : KvList) (head ents : List Byte) : KvList × Bool :=
  let n := leAt head 4 2
  let l : KvList :=
    { old with gen := leAt head 0 4, blocks := (List.range n).map fun i => kvBlock (slice ents (16 * i) 16), last := leAt head 12 4, run := leAt head 16 4,
               task := bitsAt (leAt head 20 4) 0 20 }
  (l, decide (leAt head 0 4 ≠ old.gen) || decide (crc32c (head.take 8 ++ slice head 12 20 ++ ents) ≠ old.crc))

/-- The structure of a copy that was raced (R343). -/
def blocksSound (ns : Nat) : List KvBlock → Bool
  | [] => true
  | b :: t => decide (1 ≤ b.count) && decide (b.count ≤ 16) && decide (b.slot < ns) && !(t.any fun c => decide (c.slot = b.slot)) &&
      (match t with | c :: _ => decide (b.pos + b.count ≤ c.pos) | [] => true) && blocksSound ns t

def KvSeq.sound (x : KvSeq) (l : KvList) : Bool :=
  decide (l.blocks.length ≤ x.blockMax) && blocksSound x.ns l.blocks &&
    (match l.blocks.getLast? with | some b => decide (b.pos + b.count - 1 ≤ l.last) | none => true)

/-- The sequences a KV command names. -/
def WorkKind.kvSeqs : WorkKind → List Nat
  | .kvCreate s => [s]
  | .kvDestroy s => [s]
  | .kvTruncate s _ => [s]
  | .kvCopy s d => [s, d]
  | .kvSet s _ _ _ _ _ => [s]
  | _ => []

/-! ### Reads and writes of a list -/

/-- A DVA range as the engine reads it, or the cause of R329. -/
def Chip.attnDva (ch : Chip) (p dva n : Nat) : Except Nat (List Byte) :=
  match ch.readServed p dva n with
  | .error _ => .error 1
  | .ok bs => if (ch.firstLost p dva n false).isSome then .error 2 else .ok bs

/-- The active table copy of a list. -/
def Chip.readTable (ch : Chip) (x : KvSeq) (i : Nat) : Except Nat (KvList × Bool) :=
  let old := x.list i
  let a := x.tableDva i (optBool old.active)
  match ch.attnDva x.part a 32 with
  | .error c => .error c
  | .ok head =>
    match ch.attnDva x.part (a + 32) (min (16 * leAt head 4 2) (x.tsz - 32)) with
    | .error c => .error c
    | .ok ents => .ok (kvParse old head ents)

/-- A commit: the inactive copy is written whole with gen raised by 1, and the record flips to it (R324). -/
def Chip.commitList (ch : Chip) (k : Clock) (seq i : Nat) (l : KvList) : Chip :=
  let x := ch.sq seq
  let old := x.list i
  let new := ({ l with active := !old.active, gen := (old.gen + 1) % 2 ^ 32, broken := false } : KvList).seal
  (ch.writeDva k x.part (x.tableDva i (optBool new.active)) new.bytes).modSq seq fun y => { y with lists := put {} y.lists i new }

/-! ### Eviction and append (R328, R337) -/

/-- A block taken out by its place. -/
def dropAt (l : List KvBlock) (i : Nat) : List KvBlock := l.take i ++ l.drop (i + 1)

/-- The place of the block with the lowest score among those neither in the first `anchors` nor in the last `recent`. -/
def lowestScore (anchors recent : Nat) (l : List KvBlock) : Option Nat :=
  ((List.range (l.length - recent)).filter fun i => decide (anchors ≤ i)).foldl (fun best i =>
    match best, l[i]? with
    | none, _ => some i
    | some j, some b => (match l[j]? with | some c => if f32Key b.score < f32Key c.score then some i else some j | none => some i)
    | some j, none => some j) none

/-- Blocks evicted until at most `room` are left. -/
def KvSeq.evict (x : KvSeq) (room : Nat) : Nat → List KvBlock → List KvBlock
  | 0, l => l
  | k + 1, l => if l.length ≤ room then l else match lowestScore x.anchors x.recent l with
    | some i => x.evict room k (dropAt l i)
    | none => l

/-- The slots of a list that its committed table does not name, lowest first. -/
def KvSeq.freeSlots (x : KvSeq) (l : KvList) : List Nat := (List.range x.ns).filter fun j => !(l.blocks.any fun b => decide (b.slot = j))

/-- An append in progress: the blocks, the slots still free, and for each token its slot and row. -/
structure Append where
  blocks : List KvBlock
  free : List Nat
  rows : List (Nat × Nat)
  opened : Nat
  evicted : Nat
  deriving DecidableEq, Repr

/-- One token placed. -/
def KvSeq.place (x : KvSeq) (span : Nat) (a : Append) (pos : Nat) : Append :=
  match a.blocks.getLast? with
  | some b =>
    if b.count < 16 && decide (pos = b.pos + b.count) && decide (b.span = span) then
      { a with blocks := a.blocks.dropLast ++ [{ b with count := b.count + 1 }], rows := a.rows ++ [(b.slot, b.count)] }
    else fresh a
  | none => fresh a
where
  /-- A new block, an eviction first when the list is full. -/
  fresh (a : Append) : Append :=
    let kept := x.evict (x.blockMax - 1) a.blocks.length a.blocks
    match a.free with
    | [] => a
    | j :: t =>
      { blocks := kept ++ [{ pos := pos, count := 1, span := span, slot := j, score := 0 }], free := t, rows := a.rows ++ [(j, 0)], opened := a.opened + 1,
        evicted := a.evicted + (a.blocks.length - kept.length) }

def KvSeq.append (x : KvSeq) (l : KvList) (p0 n span : Nat) : Append :=
  (List.range n).foldl (fun a t => x.place span a (p0 + t)) { blocks := l.blocks, free := x.freeSlots l, rows := [], opened := 0, evicted := 0 }

end Sys2Proof.Machine
end

