-- ==== Sys2Proof/Machine/AttnMath.lean ====
section
/-! DEFINITION. The arithmetic of an attention pass (spec/11_attention_kv.md R318, R331 to R336; spec/02_numerics.md R75 to R78). -/

namespace Sys2Proof.Machine

/-! ### FP32 steps -/

def fadd (a b : Word) : Word := toF32 ((f32 a).add (f32 b))
def fmul (a b : Word) : Word := toF32 ((f32 a).mul (f32 b))
def fneg (a : Word) : Word := a ^^^ 0x80000000#32
def fmaxA (a b : Word) : Word := if isNaN32 a || isNaN32 b then 0x7FC00000 else if f32Key a ≥ f32Key b then a else b
def natF (n : Nat) : Word := toF32 (.ofInt n)

/-- log2 e in FP32. -/
def log2eW : Word := toF32 (.fin false log2eFix (-160))

/-- a = sm_scale × k_scale × log2 e, rounded once (R335). -/
def KvSeq.logitScale (x : KvSeq) : Word := toF32 (((f32 x.smScale).mul (f32 x.kScale)).mul (.fin false log2eFix (-160)))

/-! ### Rotation (R331) -/

/-- 2π in units of 2^−160. -/
def twoPiFix : Nat := 0x6487ed5110b4611a62633145c06e0e68948127044

/-- Binary digits of log2 of z / 2^160 in [1, 2). -/
def log2Digits (z acc : Nat) : Nat → Nat
  | 0 => acc
  | k + 1 => let s := z * z / 2 ^ 160; if 2 ^ 161 ≤ s then log2Digits (s / 2) (acc + 2 ^ k) k else log2Digits s acc k

/-- log2 of a number m · 2^e above 1, in units of 2^−160. -/
def log2Fix (m : Nat) (e : Int) : Int :=
  let t := log2Of m
  ((t : Int) + e) * 2 ^ 160 + log2Digits (m * 2 ^ 160 / 2 ^ t) 0 160

/-- base^(−2i/R) in units of 2^−160. -/
def ropeRate (base : Word) (i dims : Nat) : Nat :=
  match f32 base with
  | .fin _ m e =>
    let y := log2Fix m e * (2 * i : Nat) / (dims : Int)
    let f := ((-y) % (2 ^ 160 : Int)).toNat
    pow2Frac f / 2 ^ (-((-y) / (2 ^ 160 : Int))).toNat
  | _ => if i = 0 then 2 ^ 160 else 0

/-- Sums of the series of cos and sin from term k on, in units of 2^−160. -/
def trigSeries (z term k : Nat) (c s : Int) : Nat → Int × Int
  | 0 => (c, s)
  | fuel + 1 =>
    let t : Int := if k / 2 % 2 = 0 then term else -(term : Int)
    let next := term * z / 2 ^ 160 / (k + 1)
    if k % 2 = 0 then trigSeries z next (k + 1) (c + t) s fuel else trigSeries z next (k + 1) c (s + t) fuel

def cosSin (angle : Nat) : Int × Int := trigSeries (angle % twoPiFix) (2 ^ 160) 0 0 0 64

/-- One element of a rotated pair (x, y): the exact rotation moved by the device's error inside its bound; free where the spec states no
result. -/
def ropeElem (pos i dims : Nat) (base : Word) (x y : FVal) (first : Bool) : FVal :=
  let c := Config.ropeChoice pos i dims base (toF32 x) (toF32 y) first
  match x, y with
  | .fin nx mx ex, .fin ny my ey =>
    let cs := cosSin (pos * ropeRate base i dims)
    let fx := fixOf nx mx ex
    let fy := fixOf ny my ey
    let exact := (if first then fx * cs.1 - fy * cs.2 else fx * cs.2 + fy * cs.1) / (2 ^ 160 : Int)
    let bound := (fx.natAbs + fy.natAbs) / 2 ^ (if pos < 2 ^ 24 then 18 else 12)
    let r := exact + (c % (2 * bound + 1) : Nat) - bound
    .fin (decide (r < 0)) r.natAbs (-160)
  | .nan, _ => .nan
  | _, .nan => .nan
  | _, _ => f32 (BitVec.ofNat 32 c)

/-- A vector at a position rotated, elements from R on left alone. -/
def KvSeq.rotate (x : KvSeq) (pos : Nat) (v : List FVal) : List FVal :=
  if x.pe ≠ 1 then v
  else (List.range v.length).map fun d =>
    let el : Nat → FVal := fun j => v.getD j .zero
    if x.ropeDims ≤ d then el d
    else
      let half := x.ropeDims / 2
      let i := if x.pair then d / 2 else d % half
      let first := if x.pair then decide (d % 2 = 0) else decide (d < half)
      ropeElem pos i x.ropeDims x.ropeBase (el (if x.pair then 2 * i else i)) (el (if x.pair then 2 * i + 1 else i + half)) first

/-! ### Elements -/

/-- The formats of keys and values, and of queries: the format, its bytes, whether it is BF16. -/
def kvElemFmt (fmt : Nat) : FFmt × Nat × Bool := if fmt = 0 then (fE4M3, 1, false) else if fmt = 1 then (fE5M2, 1, false) else (fBF16, 2, true)
def qElemFmt (fmt : Nat) : FFmt × Nat × Bool := if fmt = 1 then (fE4M3, 1, false) else if fmt = 2 then (fE5M2, 1, false) else (fBF16, 2, true)

def decodeElems (f : FFmt × Nat × Bool) (bs : List Byte) (n : Nat) : List FVal := (List.range n).map fun i => f.1.decode (leAt bs (i * f.2.1) f.2.1)

/-- Rounded to a format under round-to-nearest-even with saturation. -/
def encodeElems (f : FFmt × Nat × Bool) (v : List FVal) : List Byte := v.flatMap fun x => toLe (convF f.1 f.2.2 true .rne x).code f.2.1

/-- A key as it is stored: rotated at its position (R328). -/
def KvSeq.storedKey (x : KvSeq) (pos : Nat) (bs : List Byte) : List Byte :=
  if x.pe ≠ 1 then bs else encodeElems (kvElemFmt x.fmt) (x.rotate pos (decodeElems (kvElemFmt x.fmt) bs x.hd))

/-- A query as a pass uses it: rotated at its position and rounded to qfmt. -/
def KvSeq.query (x : KvSeq) (qfmt pos : Nat) (bs : List Byte) : List FVal :=
  let f := qElemFmt qfmt
  let v := decodeElems f bs x.hd
  if x.pe ≠ 1 then v else decodeElems f (encodeElems f (x.rotate pos v)) x.hd

/-! ### Masks (R333, R334) -/

/-- Whether token t of block number bi is visible to a row at position q of a task with span sq. -/
def KvSeq.sees (x : KvSeq) (sq q bi : Nat) (b : KvBlock) (t : Nat) : Bool :=
  let k := b.pos + t
  decide (t < b.count) &&
    ((decide (sq ≠ 0) && decide (b.span = sq)) ||
     (decide (k ≤ q) && (decide (x.window = 0) || decide (q < k + x.window) || (x.sink && decide (bi < x.anchors)))))

/-- Whether a pass over queries from qlo to qhi skips a block. -/
def KvSeq.skips (x : KvSeq) (sq qlo qhi bi : Nat) (b : KvBlock) : Bool :=
  !(decide (sq ≠ 0) && decide (b.span = sq)) &&
    (decide (qhi < b.pos) || (decide (0 < x.window) && !(x.sink && decide (bi < x.anchors)) && decide (b.pos + b.count - 1 + x.window ≤ qlo)))

/-! ### The online softmax (R335) -/

/-- The state of one query row: m, l, the accumulator, and for each block its kept pair. -/
structure RowState where
  m : Word := 0xFF800000
  l : Word := 0
  acc : List Word
  kept : List (Nat × Word × Word) := []
  deriving DecidableEq, Repr

/-- A query row of a pass: its position, its vector, its head's index in the sequence. -/
structure QRow where
  pos : Nat
  vec : List FVal
  head : Nat
  deriving DecidableEq, Repr

/-- A visited block: its number, its entry, the keys and values of its tokens. -/
structure KvData where
  bi : Nat
  b : KvBlock
  ks : List (List FVal)
  vs : List (List FVal)
  deriving DecidableEq, Repr

def runsOf32 (l : List α) (n : Nat) : List (List α) := (List.range (ceilDiv n 32)).map fun i => (l.drop (32 * i)).take 32

/-- A dot product of the QKᵀ unit (R318). -/
def dotQK (bothFp8 : Bool) (q k : List FVal) : Word :=
  if bothFp8 then (List.zipWith (fun a b => segSum a b) (runsOf32 q q.length) (runsOf32 k q.length)).foldl (fun r s => joinF r s 0) 0
  else (List.zipWith FVal.mul q k).foldl rowAdd 0

/-- The bias of a key position for a row (R332). -/
def KvSeq.bias (x : KvSeq) (head q k : Nat) : Word :=
  if x.pe ≠ 2 then 0
  else
    let slope := toF32 (pow2Fix (-((8 * (head + 1) * 2 ^ 160 / (x.heads * x.g) : Nat) : Int)))
    fneg (fmul (fmul slope (natF ((q - k) + (k - q)))) log2eW)

/-- A probability as the PV unit takes it. -/
def bf16Val (w : Word) : FVal := fBF16.decode (convF fBF16 true true .rne (f32 w)).code

/-- One element of the accumulator after a block (R318). -/
def pvStep (fp8 : Bool) (acc f : Word) (ps vs : List FVal) : Word :=
  if fp8 then joinF (fmul acc f) (segSum ps vs) 0 else (List.zipWith FVal.mul ps vs).foldl rowAdd (fmul acc f)

/-- A row visits a block. -/
def KvSeq.visit (x : KvSeq) (qfmt sq : Nat) (r : QRow) (d : KvData) (st : RowState) : RowState :=
  let fp8 := decide (x.fmt ≠ 2)
  let s := (List.range 16).map fun t =>
    if x.sees sq r.pos d.bi d.b t then fadd (fmul (dotQK (fp8 && decide (qfmt ≠ 0)) r.vec (d.ks.getD t [])) x.logitScale) (x.bias r.head r.pos (d.b.pos + t)) else 0xFF800000
  let mn := s.foldl fmaxA st.m
  if isNaN32 mn || mn = 0xFF800000 then st
  else
    let f := fExp2 5 (fadd st.m (fneg mn))
    let p := s.map fun y => fExp2 5 (fadd y (fneg mn))
    let bs := treeSum fadd 4 p
    let pv := (p.take d.b.count).map bf16Val
    { m := mn, l := fadd (fmul st.l f) bs, kept := st.kept ++ [(d.bi, bs, mn)],
      acc := (List.range x.hd).map fun e => pvStep fp8 (st.acc.getD e 0) f pv (d.vs.map fun v => v.getD e .zero) }

/-- An element of the output in ofmt; an FP32 NaN's payload is free. -/
def outElem (ofmt n lane : Nat) (w : Word) : List Byte :=
  if ofmt = 0 then toLe (convF fBF16 true true .rne (f32 w)).code 2
  else if ofmt = 1 then toLe (convF fFP16 true true .rne (f32 w)).code 2
  else toLe (if isNaN32 w then freeNaN n lane else w).toNat 4

/-- A row's output (R335). -/
def KvSeq.output (x : KvSeq) (ofmt n lane : Nat) (st : RowState) : List Byte :=
  let on := !isNaN32 st.l && decide (0 < f32Key st.l)
  let f := fmul x.vScale (fRcp 6 st.l)
  (List.range x.hd).flatMap fun e => outElem ofmt n (lane + e) (if on then fmul (st.acc.getD e 0) f else 0)

/-- A row's part of a block's mass (R336). -/
def massOf (st : RowState) (bi : Nat) : Word :=
  match st.kept.find? fun e => e.1 = bi with
  | some (_, bs, mn) => fmul (fmul bs (fExp2 5 (fadd mn (fneg st.m)))) (fRcp 6 st.l)
  | none => 0

/-- One pass: the outputs of its rows, and what it adds to the masses of the blocks it visits (R335, R336). -/
def KvSeq.pass (x : KvSeq) (qfmt ofmt sq n : Nat) (rows : List QRow) (ds : List KvData) (masses : List Word) : List Byte × List Word :=
  let init : RowState := { acc := List.replicate x.hd 0 }
  let done := rows.map fun r => ds.foldl (fun st d => x.visit qfmt sq r d st) init
  let tracked := done.take (if ds.isEmpty then rows.length else min rows.length (65536 / ds.length))
  (((List.range done.length).zip done).flatMap (fun e => x.output ofmt n (256 * e.1) e.2),
   (List.range masses.length).map fun bi => (tracked.filter fun st => st.kept.any fun e => e.1 = bi).foldl (fun a st => fadd a (massOf st bi)) (masses.getD bi 0))

end Sys2Proof.Machine
end

