-- ==== Sys2Proof/Machine/Sequencer.lean ====
section
/-! DEFINITION. The control field and the structure of tables (spec/04_cluster.md R119 to R125). -/

namespace Sys2Proof.Machine

/-! ### Entries in schedule-table memory (R119, R122, R127, R142, R146, R152) -/

/-- Bits [lo + width - 1 : lo] of an entry. -/
def entryBits (e : BitVec 128) (lo width : Nat) : Nat := bitsAt e.toNat lo width

def entryCop (e : BitVec 128) : Nat := entryBits e 126 2
def entryLevel (e : BitVec 128) : Nat := entryBits e 124 2
def entryCount (e : BitVec 128) : Nat := entryBits e 104 16
def entryArray (e : BitVec 128) : Nat := entryBits e 72 32
def entryVector (e : BitVec 128) : Nat := entryBits e 40 32
def entrySync (e : BitVec 128) : Nat := entryBits e 20 20
def entryScalar (e : BitVec 128) : Nat := entryBits e 0 20

/-- Reserved bits set in the array field (R142). -/
def arrayReserved (f : Nat) : Bool :=
  match bitsAt f 29 3 with
  | 0 => decide (bitsAt f 0 29 ≠ 0)
  | 2 => decide (bitsAt f 0 10 ≠ 0)
  | 3 => decide (bitsAt f 0 27 ≠ 0)
  | _ => false

/-- Reserved bits set in the vector field (R146). -/
def vectorReserved (f : Nat) : Bool :=
  let op := bitsAt f 26 6
  if op = 0 then decide (bitsAt f 0 26 ≠ 0)
  else if op = 1 then decide (bitsAt f 0 7 ≠ 0)
  else if op = 2 then decide (bitsAt f 0 1 ≠ 0)
  else if op ≤ 0x18 then decide (bitsAt f 0 14 ≠ 0)
  else false

/-- Reserved bits set in the stream/sync field (R127). -/
def syncReserved (f : Nat) : Bool :=
  match bitsAt f 16 4 with
  | 0 => decide (bitsAt f 0 16 ≠ 0)
  | 2 => decide (bitsAt f 6 2 ≠ 0)
  | 3 => decide (bitsAt f 0 11 ≠ 0)
  | 4 => decide (bitsAt f 0 9 ≠ 0)
  | 5 => decide (bitsAt f 0 9 ≠ 0)
  | 6 => decide (bitsAt f 0 9 ≠ 0)
  | 7 => decide (bitsAt f 0 7 ≠ 0)
  | 8 => decide (bitsAt f 0 9 ≠ 0)
  | 9 => decide (bitsAt f 0 12 ≠ 0)
  | 10 => decide (bitsAt f 0 16 ≠ 0)
  | _ => false

/-- Reserved bits set in the scalar field (R152). -/
def scalarReserved (f : Nat) : Bool :=
  let op := bitsAt f 16 4
  if op = 0 then decide (bitsAt f 0 16 ≠ 0)
  else if op = 3 || op = 4 || op = 6 || op = 7 || op = 8 || op = 0xD || op = 0xE then decide (bitsAt f 0 4 ≠ 0)
  else if op = 9 || op = 0xA then decide (bitsAt f 6 2 ≠ 0)
  else false

def entryReserved (e : BitVec 128) : Bool :=
  arrayReserved (entryArray e) || vectorReserved (entryVector e) || syncReserved (entrySync e) || scalarReserved (entryScalar e)

/-- One entry's place in the loops: the depth after it, or none when it breaks R121. -/
def loopStep (depth : Nat) (e : BitVec 128) : Option Nat :=
  if entryReserved e then none
  else match entryCop e with
    | 1 => if entryLevel e = depth ∧ depth < 3 then some (depth + 1) else none
    | 2 => if 0 < depth ∧ entryLevel e + 1 = depth ∧ entryCount e = 0 then some (depth - 1) else none
    | _ => if entryLevel e = 0 ∧ entryCount e = 0 then some depth else none

def loopWalk (depth : Nat) : List (BitVec 128) → Option Nat
  | [] => some depth
  | e :: t => (loopStep depth e).bind fun d => loopWalk d t

/-- Whether a table passes the checks of R121. -/
def tableGood (es : List (BitVec 128)) : Bool :=
  match es.getLast? with
  | none => true
  | some e => decide (entryCop e = 3) && decide (loopWalk 0 es = some 0)

/-- Index of the ENDLOOP that closes a loop opened `depth` levels up, searched from index i (R123). -/
def matchFrom (i depth : Nat) : List (BitVec 128) → Nat
  | [] => i
  | e :: t =>
    if entryCop e = 1 then matchFrom (i + 1) (depth + 1) t
    else if entryCop e = 2 then (if depth = 0 then i else matchFrom (i + 1) (depth - 1) t)
    else matchFrom (i + 1) depth t

/-- The entries of a slot's table from index i. -/
def Cluster.entries (c : Cluster) (base i n : Nat) : List (BitVec 128) := (List.range n).map fun j => look 0 c.table (base + i + j)

/-- match[p] of the slot's loop at its pointer. -/
def Cluster.matchLoop (c : Cluster) (s : Slot) : Nat := matchFrom (s.ptr + 1) 0 (c.entries s.base (s.ptr + 1) (s.len - (s.ptr + 1)))

/-! ### The control field (R122 to R125) -/

/-- NEXT (R123). -/
def Slot.goOn (x : Slot) : Slot := { x with ptr := x.ptr + 1 }

/-- The slot after its LOOP entry: a count of 0 skips the body (R123). -/
def Slot.loop (x : Slot) (level count last : Nat) : Slot :=
  if count = 0 then { x with ptr := last + 1 }
  else { x with ptr := x.ptr + 1, depth := level + 1, cnt := put 0 x.cnt level count, total := put 0 x.total level count, start := put 0 x.start level (x.ptr + 1) }

/-- The slot after an ENDLOOP entry (R123). -/
def Slot.endLoop (x : Slot) (level : Nat) : Slot :=
  let n := look 0 x.cnt level - 1
  let x := { x with cnt := put 0 x.cnt level n }
  if 0 < n then { x with ptr := look 0 x.start level } else { x with ptr := x.ptr + 1, depth := level }

/-- PHASE_HINT: the hint stays with the slot until its next (R125). -/
def fieldPhaseHint (c : Nat) (opp : BitVec 3) : Field := fun _ ch _ =>
  some (ch.modCl c fun x => x.modSlot x.cur fun y => { y with hint := some opp.toNat })

end Sys2Proof.Machine
end

