-- ==== Sys2Proof/Machine/Runs.lean ====
section
/-! DEFINITION. Tables, runs and requests from the host (spec/04_cluster.md R121, R135 to R138, R141; spec/13_host_protocol.md R392 to R394;
spec/16_faults_recovery.md R456, R458, R472; spec/01_architecture.md R38, R42). -/

namespace Sys2Proof.Machine

/-! ### Checkpoint plans (R456) -/

/-- A record of a plan and the bytes it takes. -/
def planRecord (b : List Byte) : PlanRec × Nat :=
  let n := leAt b 2 1
  ({ key := leAt b 0 2, ranges := (List.range n).map fun i => { spd := leAt b (8 + 16 * i) 4 % 4194304, len := leAt b (12 + 16 * i) 4, src := leAt b (16 + 16 * i) 6 } }, 8 + 16 * n)

/-- The records of a plan's body. -/
def planRecords (b : List Byte) : Nat → List PlanRec
  | 0 => []
  | n + 1 => let r := planRecord b; r.1 :: planRecords (b.drop r.2) n

/-- The bytes of a plan with its records; without a record there is no plan. -/
def planBytes (rs : List PlanRec) : Nat := if rs.isEmpty then 0 else 16 + (rs.map fun r => 8 + 16 * r.ranges.length).sum

/-- Reserved bits of a record, and ranges out of form. -/
def recordBad (b : List Byte) : Bool :=
  let n := leAt b 2 1
  decide (16 < n) || decide (slice b 3 5 ≠ zeros 5) ||
  (List.range n).any fun i =>
    let s := leAt b (8 + 16 * i) 4
    let l := leAt b (12 + 16 * i) 4
    decide (4194304 ≤ s) || decide (s % 32 ≠ 0) || decide (l % 32 ≠ 0) || decide (l < 32) || decide (4194304 < s + l) || decide (leAt b (16 + 16 * i) 6 % 32 ≠ 0) ||
      decide (leAt b (22 + 16 * i) 2 ≠ 0)

def recordsBad (b : List Byte) : Nat → Bool
  | 0 => false
  | n + 1 => recordBad b || recordsBad (b.drop (planRecord b).2) n

def planMarker : List Byte := [0x53, 0x4B, 0x43, 0x50]

/-- The plan that follows a table in memory: none when its marker is not there. -/
def Chip.planAt (ch : Chip) (p dva : Nat) : Option (List Byte) :=
  if (ch.pt p).rangeBad dva 16 false || ch.readDva p dva 4 ≠ planMarker then none
  else
    let n := leAt (ch.readDva p dva 16) 8 4
    if (ch.pt p).rangeBad dva n false then some [] else some (ch.readDva p dva n)

/-- Whether a plan is wrong: its crc, length, reserved bits or records. -/
def planBad (b : List Byte) : Bool :=
  let n := leAt b 4 2
  decide (b.length < 16) || decide (n = 0) || decide (64 < n) || decide (leAt b 6 2 ≠ 0) || decide (leAt b 12 4 ≠ (crc32c (b.drop 16)).toNat) || recordsBad (b.drop 16) n ||
  decide (planBytes (planRecords (b.drop 16) n) ≠ b.length)

/-- The bytes a record captures into the mirror. -/
def PlanRec.captured (r : PlanRec) : Nat := ((r.ranges.filter fun x => x.src = 0).map (·.len)).sum

/-! ### SLOT_LOAD -/

/-- A SLOT_LOAD payload (R392). -/
structure SlotReq where
  lcid : Nat
  slot : Nat
  prio : Nat
  base : Nat
  len : Nat
  dva : Nat
  deriving DecidableEq, Repr

def slotReq (b : List Byte) : SlotReq :=
  { lcid := beAt b 0 1, slot := beAt b 1 1, prio := beAt b 2 1, base := beAt b 4 2, len := beAt b 6 2, dva := beAt b 8 8 }

/-- The entries of a table in memory. -/
def Chip.tableAt (ch : Chip) (p dva n : Nat) : List (BitVec 128) :=
  let b := ch.readDva p dva (16 * n)
  (List.range n).map fun i => BitVec.ofNat 128 (leAt b (16 * i) 16)

/-- Indices of a table's CKPT entries. -/
def ckptEntries (es : List (BitVec 128)) : List Nat := (List.range es.length).filter fun i => decide (bitsAt (entrySync (es.getD i 0)) 16 4 = 6)

/-- Whether a context may load and start tables: it is not quarantined (R472). -/
def Partition.quarantine (p : Partition) (c : Nat) : Bool := match look none p.contexts c with | some x => x.quarantined | none => false

def slotChecks (q : Req) (ch : Chip) : List (Bool × Refuse) :=
  let x := slotReq q.payload
  let p := ch.pt q.part
  let cl : Cluster := match ch.pcid x.lcid with | some c => ch.cl c | none => {}
  let es := ch.tableAt q.part x.dva x.len
  let ck := ckptEntries es
  let plan := ch.planAt q.part (x.dva + 16 * x.len)
  let recs := match plan with | some b => planRecords (b.drop 16) (leAt b 4 2) | none => []
  [ (decide (64 ≤ x.lcid) || !p.ownsLcid x.lcid, (.notPermitted, some 0)), (p.quarantine q.ctx, (.notPermitted, none)), (p.rangeBad x.dva (16 * x.len) false, (.notPermitted, some 8)),
    (decide (3 < x.slot), (.badField, some 1)), (decide (3 < x.prio), (.badField, some 2)), reserved q 3 1, (decide (16384 ≤ x.base), (.badField, some 4)),
    (!tableGood es, (.badField, some 8)), (decide (ck ≠ []) && plan.isNone, (.badField, some 8)), (match plan with | some b => decide (x.len ≠ 0) && planBad b | none => false, (.badField, some 8)),
    (ck.any fun i => !(recs.any fun r => decide (r.key = i)), (.badField, some 8)),
    (decide (16384 < x.len), (.lengthRange, some 6)), (decide (16384 < x.base + x.len), (.lengthRange, some 4)), (recs.any fun r => decide (221184 < r.captured), (.lengthRange, some 8)),
    (decide ((ch.pcid x.lcid).isSome) && decide (cl.svc ≠ .owned), (.notReady, some 0)), ((cl.slot x.slot).st.busy, (.notReady, some 1)),
    ((ch.firstLost q.part x.dva (16 * x.len) false).isSome, (.dataLost, some 8)),
    ((ch.pcid x.lcid).isNone, (.noResource, some 0)),
    (decide (0 < x.len) && (List.range 4).any fun m => decide (m ≠ x.slot) && decide (0 < (cl.slot m).len) && overlaps x.base x.len (cl.slot m).base (cl.slot m).len, (.noResource, some 4)),
    (decide (65536 < planBytes recs + ((List.range 4).map fun m => if m ≠ x.slot then planBytes (cl.slot m).plan else 0).sum), (.noResource, some 8)) ]

/-- A table written and bound: its words, its record among the tables loaded, its slot (R141, R514). -/
def Cluster.loadTable (c : Cluster) (x : SlotReq) (part ctx : Nat) (es : List (BitVec 128)) (plan : List PlanRec) : Cluster :=
  let loads := c.loads.filter fun t => !overlaps x.base x.len t.base t.len
  let c := { c with
    table := (List.range es.length).foldl (fun t i => put 0 t (x.base + i) (es.getD i 0)) c.table,
    loads := if x.len = 0 then c.loads else loads ++ [({ base := x.base, len := x.len, part := part, ctx := ctx, dva := x.dva, plan := plan } : LoadedTable)] }
  c.modSlot x.slot fun s =>
    { st := .loaded, prio := x.prio, base := x.base, len := x.len, part := part, ctx := ctx, dva := x.dva, plan := plan, budgets := s.budgets }

def slotLoadCmd (q : Req) (k : Clock) (ch : Chip) : Cmd :=
  let x := slotReq q.payload
  let plan := match ch.planAt q.part (x.dva + 16 * x.len) with | some b => if x.len = 0 then [] else planRecords (b.drop 16) (leAt b 4 2) | none => []
  match firstFail (slotChecks q ch), ch.pcid x.lcid with
  | some r, _ => .error r
  | none, none => .error (.noResource, some 0)
  | none, some c =>
    .ok (((ch.touchDva k q.part x.dva (16 * x.len)).modCl c fun y => y.loadTable x q.part q.ctx (ch.tableAt q.part x.dva x.len) plan).reply q .ok [])

/-- SLOT_LOAD (R121, R392, R456, R514). -/
def execSlotLoad (q : Req) (s : State) : Res := onChip s (runCmd 0x0501 q (slotLoadCmd q))

/-! ### RUN_START (R393) -/

/-- A RUN_START payload (R392). -/
structure RunReq where
  handle : Nat
  epoch : Nat
  reqs : List Nat
  slots : List (Nat × Nat)
  engines : List (Nat × Nat × Nat)
  deriving DecidableEq, Repr

def runReq (b : List Byte) : RunReq :=
  let nslot := beAt b 2 1
  let neng := beAt b 3 1
  let nreq := beAt b 4 2
  let so := 16 + 4 * nreq
  let eo := so + 2 * nslot
  { handle := beAt b 0 1, epoch := beAt b 1 1, reqs := (List.range nreq).map fun i => beAt b (16 + 4 * i) 4,
    slots := (List.range nslot).flatMap fun i => ((List.range 4).filter fun n => bitAt (beAt b (so + 2 * i + 1) 1) n).map fun n => (beAt b (so + 2 * i) 1, n),
    engines := (List.range neng).map fun i => (beAt b (eo + 16 * i) 1, beAt b (eo + 16 * i + 4) 4, beAt b (eo + 16 * i + 8) 8) }

/-- Bytes the counts of a RUN_START call for. -/
def runLen (b : List Byte) : Nat := 16 + 4 * beAt b 4 2 + 2 * beAt b 2 1 + 16 * beAt b 3 1

/-- Reserved bits of the entries. -/
def runReserved (b : List Byte) : Bool :=
  let so := 16 + 4 * beAt b 4 2
  let eo := so + 2 * beAt b 2 1
  ((List.range (beAt b 2 1)).any fun i => decide (16 ≤ beAt b (so + 2 * i + 1) 1)) || ((List.range (beAt b 3 1)).any fun i => decide (beAt b (eo + 16 * i + 1) 3 ≠ 0))

def Partition.request? (p : Partition) (id : Nat) : Option Request := p.requests.find? fun r => r.id = id

/-- Whether a request is admitted in another partition only. -/
def Chip.foreignReq (ch : Chip) (p id : Nat) : Bool :=
  ((ch.pt p).request? id).isNone && ch.parts.any fun e => e.2.valid && (e.2.request? id).isSome

/-- Whether a bank of a cluster is on its way back to on (R173). -/
def Cluster.returning (c : Cluster) : Bool := c.bankReady.any fun e => decide (e.2 ≠ 0)

def runChecks (q : Req) (ch : Chip) : List (Bool × Refuse) :=
  let b := q.payload
  let r := runReq b
  let p := ch.pt q.part
  let regions := r.slots.map fun s => ch.regionOfLcid s.1
  let cl : Nat → Cluster := fun l => match ch.pcid l with | some c => ch.cl c | none => {}
  let named := decide (r.handle ≠ 0xFF)
  [ (decide (b.length ≠ runLen b), (.lengthRange, none)), (p.quarantine q.ctx, (.notPermitted, none)), (named && !p.ownsHandle r.handle, (.notPermitted, some 0)),
    (r.slots.any fun s => decide (64 ≤ s.1) || !p.ownsLcid s.1, (.notPermitted, none)),
    (r.engines.any fun e => decide (16 ≤ e.1) || !p.ownsEng e.1 || decide (e.1 ∉ regions), (.notPermitted, none)),
    (r.reqs.any (ch.foreignReq q.part), (.notPermitted, some 16)), reserved q 6 10, (runReserved b, (.badField, none)),
    (if named then decide (1 < r.epoch) || decide (((ch.mdl r.handle).ep (r.epoch % 2)).st = .empty) else decide (r.epoch ≠ 0), (.badField, some 1)),
    (r.reqs.any fun i => match p.request? i with | some x => decide (x.handle ≠ r.handle) || decide (x.epoch ≠ r.epoch) | none => true, (.badField, some 16)),
    (decide (r.slots.eraseDups.length ≠ r.slots.length) || decide ((r.engines.map (·.1)).eraseDups.length ≠ r.engines.length), (.badField, none)),
    (r.engines.any fun e => decide (1048576 < e.2.1), (.lengthRange, none)),
    (r.slots.any fun s => (ch.pcid s.1).isNone, (.noResource, none)),
    (r.slots.any fun s => decide ((cl s.1).svc ≠ .owned) || decide (((cl s.1).slot s.2).st ≠ .loaded ∧ ((cl s.1).slot s.2).st ≠ .ended) || (cl s.1).opBusy.isSome ||
      (cl s.1).returning, (.notReady, none)),
    (r.engines.any fun e => decide ((ch.rg e.1).eng.st ≠ .idle), (.notReady, none)), ch.worksFull q ]

/-- A slot starts at its table's first entry; an empty table ends at once (R124, R135). -/
def Slot.begin (s : Slot) (run : Nat) : Slot :=
  { s with st := if s.len = 0 then .ended else .running, ptr := 0, depth := 0, cnt := [], start := [], total := [], wait := none, cancelling := false, run := run }

/-- Slots of one cluster start together: each captures as at a checkpoint (R458), and an idle sequencer takes the first (R137). -/
def Chip.startSlots (ch : Chip) (run c : Nat) (ns : List Nat) : Chip :=
  let was := (ch.cl c).curSlot.st
  let ch := ch.modCl c fun x => ns.foldl (fun y n => y.modSlot n fun s => s.begin run) x
  let live := ns.filter fun n => decide (((ch.cl c).slot n).st = .running)
  let ch := ch.modCl c fun x => if live.isEmpty then x else if was = .running then x else if was = .waiting then x else x.switch
  let ch := if was = .waiting then ch.wake c else ch
  if live.isEmpty then ch else ch.modCl c fun x => x.startCapture (live.map fun n => (n, 0xFFFF))

/-- An accepted run: its slots and engines start in the same instant. -/
def Chip.startRun (ch : Chip) (k : Clock) (q : Req) (r : RunReq) : Chip :=
  let id := ch.nextRun
  let engs := r.engines.filter fun e => decide (0 < e.2.1)
  let run : Run :=
    { id := id, part := q.part, ctx := q.ctx, session := q.session, seqNo := q.seq, handle := if r.handle = 0xFF then none else some r.handle, epoch := r.epoch, slots := r.slots,
      engines := engs.map (·.1), requests := r.reqs, ended := [], recovering := false, fidelity := 0 }
  let ch := { ch with runs := ch.runs ++ [run], nextRun := id + 1 }
  let ch := (ch.modPt q.part fun p => { p with requests := p.requests.map fun (x : Request) => if x.id ∈ r.reqs then { x with runs := x.runs + 1 } else x }).progress k q.part q.ctx
  let cs := (r.slots.filterMap fun s => ch.pcid s.1).eraseDups
  let ch := cs.foldl (fun c x => c.startSlots id x ((r.slots.filter fun s => ch.pcid s.1 = some x).map (·.2))) ch
  let ch := engs.foldl (fun c e => c.modEng e.1 fun y =>
    { y with st := .running, run := id, ctx := q.ctx, dva := e.2.2, count := e.2.1, index := 0, waitDone := false, work := none }) ch
  let ended := r.slots.filter fun s => match ch.pcid s.1 with | some c => decide (((ch.cl c).slot s.2).st = .ended) | none => false
  (ended.foldl (fun c s => c.runSlotEnded k id s.1 s.2 SlotState.ended.code 0) ch).runCheck k id

/-- RUN_START (R393). -/
def execRunStart (q : Req) (s : State) : Res :=
  onChip s (runCmd 0x0502 q fun k ch =>
    checked (runChecks q ch) ((ch.acceptReply k q 0x0502 (.run ch.nextRun) (toBe ch.nextRun 4)).startRun k q (runReq q.payload)))

/-! ### RUN_CANCEL (R138, R394) -/

/-- The wait of a slot whose satisfaction came in this same aclk, no other field of its entry having acted. -/
def Cluster.justTaken (x : Cluster) (n : Nat) : Option WaitRec :=
  (x.slot n).wait.filter fun w => (match w.taken with | some t => decide (t.at_ = x.aclk) | none => false) &&
    (decide ((x.slot n).st = .yielded) || decide (x.cur = n) && decide (x.acted = 4))

/-- A slot of a cancelled run: at once when it waits, else at its next wait; a cancel and a satisfaction in one aclk give the cancel (R138). -/
def Chip.cancelOne (ch : Chip) (k : Clock) (l n : Nat) : Chip :=
  match ch.pcid l with
  | none => ch
  | some c =>
    match (ch.cl c).justTaken n with
    | some w => (ch.untakeWait k c w).cancelSlot k c n
    | none =>
      match ((ch.cl c).slot n).st with
      | .waiting => ch.cancelSlot k c n
      | .yielded => ch.cancelSlot k c n
      | .running => ch.modSlot c n fun s => { s with cancelling := true }
      | _ => ch

/-- An engine of a cancelled run: a task past its wait completes, no other begins. -/
def Chip.cancelEngine (ch : Chip) (k : Clock) (id e : Nat) : Chip :=
  let x := (ch.rg e).eng
  if x.run ≠ id then ch
  else if x.work.isSome then ch.modEng e fun y => { y with count := y.index + 1 }
  else (ch.modEng e fun y => { y with st := .idle, waitDone := false }).runEngineEnded k id e

/-- Requests that no run names any more, cancelled before they ended, retire. -/
def Chip.retireCancelled (ch : Chip) (p id : Nat) (ids : List Nat) : Chip :=
  let named := (ch.runs.filter fun r => decide (r.id ≠ id) && decide (r.part = p)).flatMap (·.requests)
  ch.modPt p fun x => { x with requests := x.requests.filter fun (r : Request) => !(decide (r.id ∈ ids) && !r.ending && decide (r.id ∉ named)) }

def Chip.cancelRun (ch : Chip) (k : Clock) (r : Run) : Chip :=
  let ch := ch.retireCancelled r.part r.id r.requests
  r.engines.foldl (fun c e => c.cancelEngine k r.id e) (r.slots.foldl (fun c s => c.cancelOne k s.1 s.2) ch)

/-- RUN_CANCEL (R138). -/
def execRunCancel (q : Req) (s : State) : Res :=
  onChip s (runCmd 0x0503 q fun k ch =>
    match ch.run? (beAt q.payload 0 4) with
    | none => .error (.badField, some 0)
    | some r => checked [(decide (r.part ≠ q.part) || decide (r.ctx ≠ q.ctx), (.notPermitted, some 0))] ((ch.reply q .ok []).cancelRun k r))

/-! ### Requests (R312, R394) -/

def reqIds (b : List Byte) (off n : Nat) : List Nat := (List.range n).map fun i => beAt b (off + 4 * i) 4

/-- REQ_ADMIT: binds each request to the epoch then CURRENT. -/
def execReqAdmit (q : Req) (s : State) : Res :=
  onChip s (runCmd 0x0506 q fun _ ch =>
    let b := q.payload
    let h := beAt b 0 1
    let n := beAt b 4 2
    let ids := reqIds b 8 n
    let p := ch.pt q.part
    let m := ch.mdl h
    let ep := m.ep m.cur
    let new : List Request := ids.map fun i =>
      { id := i, handle := h, epoch := m.cur, rev := ep.revision, ctx := q.ctx, session := q.session, seqNo := q.seq, ending := false, fidelity := 0, runs := 0, served := 0 }
    checked
      [ (decide (16 ≤ h) || !p.ownsHandle h, (.notPermitted, some 0)), reserved q 1 3, reserved q 6 2, (decide (n = 0), (.badField, some 4)), (!m.valid, (.badField, some 0)),
        (decide (ids.eraseDups.length ≠ ids.length) || ids.any fun i => (p.request? i).isSome, (.badField, some 8)),
        (decide (1024 < n) || decide (b.length ≠ 8 + 4 * n), (.lengthRange, some 4)), (decide (ep.st ≠ .current) || ep.releasing, (.notReady, some 0)),
        (decide (16384 < p.requests.length + n), (.noResource, some 4)) ]
      ((ch.modPt q.part fun x => { x with requests := x.requests ++ new }).reply q .ok (toBe ep.revision 4)))

/-- REQ_END: the requests retire with a req_done each once no run of theirs is left (R394, R397). -/
def execReqEnd (q : Req) (s : State) : Res :=
  onChip s (runCmd 0x0507 q fun k ch =>
    let b := q.payload
    let n := beAt b 0 2
    let ids := reqIds b 4 n
    let p := ch.pt q.part
    checked
      [ reserved q 2 2, (decide (n = 0), (.badField, some 0)),
        (decide (ids.eraseDups.length ≠ ids.length) || ids.any fun i => match p.request? i with | some r => r.ending | none => true, (.badField, some 4)),
        (decide (1024 < n) || decide (b.length ≠ 4 + 4 * n), (.lengthRange, some 0)), ch.worksFull q ]
      (((ch.modPt q.part fun x => { x with requests := x.requests.map fun (r : Request) =>
          if r.id ∈ ids then { r with ending := true, session := q.session, seqNo := q.seq, ctx := q.ctx } else r }).acceptReply k q 0x0507 (.reqEnd ids) []).reqCheck k q.part))

end Sys2Proof.Machine
end

