-- ==== Sys2Proof/Machine/Attention.lean ====
section
/-! DEFINITION. Attention tasks: readiness, append, passes, commit and faults (spec/11_attention_kv.md R325 to R330, R336, R341 to R343). -/

namespace Sys2Proof.Machine

/-! ### Task descriptors (R325) -/

def attnTask (b : List Byte) : AttnTask :=
  let f := leAt b 5 1
  let addr : Nat → Nat := fun i => leAt b (16 + 8 * i) 8
  let t := leAt b 6 2
  { seq := leAt b 0 2, layer := leAt b 2 1, h0 := leAt b 3 1, hcount := leAt b 4 1, append := bitAt f 0, attend := bitAt f 1, srcDva := bitAt f 2, dstDva := bitAt f 3,
    qfmt := bitsAt f 4 2, ofmt := bitsAt f 6 2, tokens := t, p0 := bitsAt (leAt b 8 4) 0 31, span := leAt b 12 2, lcid := bitsAt (leAt b 14 1) 0 6,
    q := addr 0, k := addr 1, v := addr 2, o := addr 3, wsem := leAt b 49 1, wn := bitsAt (leAt b 48 1) 0 6, ssem := leAt b 51 1, sn := bitsAt (leAt b 50 1) 0 6,
    due := leAt b 52 4,
    bad := bitAt (leAt b 8 4) 31 || decide (64 ≤ leAt b 14 1) || decide (leAt b 15 1 ≠ 0) || decide (64 ≤ leAt b 48 1) || decide (64 ≤ leAt b 50 1) || decide (leAt b 56 8 ≠ 0) ||
      decide (bitsAt f 4 2 = 3) || decide (bitsAt f 6 2 = 3) || ((List.range 4).any fun i => decide (2 ^ 48 ≤ addr i) || decide (addr i % 32 ≠ 0)) ||
      decide (t = 0) || decide (4096 < t) || decide (leAt b 4 1 = 0) || decide (64 < leAt b 4 1) || decide (2 ^ 31 < bitsAt (leAt b 8 4) 0 31 + t) }

/-- The lists a task names. -/
def AttnTask.lists (t : AttnTask) (x : KvSeq) : List Nat := (List.range t.hcount).map fun h => t.layer * x.heads + t.h0 + h

/-- Whether a task reads or writes its cluster's scratchpad. -/
def AttnTask.usesSpd (t : AttnTask) : Bool := (!t.srcDva && (t.append || t.attend)) || (!t.dstDva && t.attend)

/-- What faults a task before it waits (R329): causes 3, 5, 6 and 7. -/
def Chip.taskCheck (ch : Chip) (e p : Nat) (t : AttnTask) : Option Nat :=
  let x := ch.sq t.seq
  if !x.valid || x.part ≠ p || x.layers ≤ t.layer then some 3
  else if t.bad || x.heads < t.h0 + t.hcount || 65536 < t.tokens * x.g then some 5
  else if (decide (0 < t.wn) && !(ch.pt p).ownsSem e t.wsem) || (decide (0 < t.sn) && !(ch.pt p).ownsSem e t.ssem) then some 5
  else if (t.lists x).any fun i => decide (x.engineOf i ≠ some e) then some 3
  else if (t.lists x).any fun i => (x.list i).broken then some 6
  else if t.usesSpd && (!(ch.pt p).ownsLcid t.lcid || (match ch.pcid t.lcid with | some c => decide (regionOf c ≠ e) || decide ((ch.cl c).svc ≠ .owned) | none => true)) then some 7
  else none

/-! ### Faults (R329) -/

/-- A task faults: its changes are discarded and its context is named. -/
def Chip.attnFault (ch : Chip) (k : Clock) (e cause seq : Nat) : Chip :=
  let g := (ch.rg e).eng
  let p := g.part.getD 0
  let ch := ch.modEng e fun y =>
    { y with st := .faulted, work := none,
             faultValid := true, faultCause := if y.faultValid then y.faultCause else cause, faultCtx := if y.faultValid then y.faultCtx else y.ctx,
             faultSeq := if y.faultValid then y.faultSeq else seq }
  (ch.raise k p 0xE014 .ok g.ctx (toBe e 1 ++ toBe cause 1 ++ toBe seq 2 ++ toBe g.index 4)).fault k 4 (.ctx p g.ctx) g.index

/-! ### Sources (R327) -/

/-- Bytes of a task's source, or the cause of R329. -/
def Chip.attnSource (ch : Chip) (p : Nat) (t : AttnTask) (a n : Nat) : Except Nat (List Byte) :=
  if t.srcDva then ch.attnDva p a n
  else match ch.pcid t.lcid with
    | none => .error 7
    | some c => if (ch.cl c).rangeOn (a % spdSize) n then .ok (slice ((spdWords a n).flatMap ((ch.cl c).read c)) (a % 32) n) else .error 7

/-- What reading a scratchpad source does beside delivering it: corrected errors are counted, a word that is lost names its cluster. -/
def Chip.attnTouch (ch : Chip) (k : Clock) (ctx : Nat) (t : AttnTask) (a n : Nat) : Chip :=
  if t.srcDva then ch
  else match ch.pcid t.lcid with
    | none => ch
    | some c => (ch.eccReads k c ctx (spdWords a n)).modCl c fun x => x.count 3 (ceilDiv n 32)

/-- Whether a task's destination takes its outputs, or the cause of R329. -/
def Chip.attnDest (ch : Chip) (p : Nat) (t : AttnTask) (n : Nat) : Option Nat :=
  if !t.attend then none
  else if t.dstDva then (if (ch.rangeFault p t.o n true).isSome then some 1 else if (ch.firstLost p t.o n true).isSome then some 2 else none)
  else match ch.pcid t.lcid with
    | none => some 7
    | some c => if (ch.cl c).rangeOn (t.o % spdSize) n then none else some 7

/-! ### Lists of a task -/

/-- A list of a task: its place among the task's head groups, its number, its table as read, whether it was raced, and whether the task was
applied to it already (R330). -/
structure TaskList where
  h : Nat
  i : Nat
  l : KvList
  raced : Bool
  applied : Bool
  deriving DecidableEq, Repr

def Chip.taskLists (ch : Chip) (x : KvSeq) (t : AttnTask) (run index : Nat) : Except Nat (List TaskList) :=
  (List.range t.hcount).mapM fun h =>
    let i := t.layer * x.heads + t.h0 + h
    (ch.readTable x i).map fun r => { h := h, i := i, l := r.1, raced := r.2, applied := decide (r.1.run = run) && decide (index ≤ r.1.task) }

/-- A race is reported to the owner, and a copy that is not sound breaks its list (R342, R343). -/
def Chip.raceSeen (ch : Chip) (k : Clock) (e ctx : Nat) (t : AttnTask) (l : TaskList) : Chip :=
  if !l.raced then ch
  else
    let x := ch.sq t.seq
    let ch := (ch.raise k x.part 0xE015 .ok ctx (toBe t.seq 2 ++ toBe t.layer 1 ++ toBe (t.h0 + l.h) 1)).modEng e fun y => { y with races := satTo 0xFFFFFFFF (y.races + 1) }
    if x.sound l.l then ch else ch.modSq t.seq fun y => { y with lists := upd {} y.lists l.i fun z => { z with broken := true } }

/-- What an append makes of each of the task's lists, or the cause that faults it (R328, R329). -/
def KvSeq.taskAppend (x : KvSeq) (t : AttnTask) (l : TaskList) : Except Nat Append :=
  let same : Append := { blocks := l.l.blocks, free := [], rows := [], opened := 0, evicted := 0 }
  if !t.append || l.applied then .ok same
  else if l.l.last ≠ 0xFFFFFFFF && t.p0 ≤ l.l.last then .error 4
  else
    let a := x.append l.l t.p0 t.tokens t.span
    if x.recent < a.opened || a.rows.length ≠ t.tokens then .error 5 else .ok a

/-- The new keys and values of a list go to their rows, the keys rotated (R327, R328); the committed table names none of them. -/
def Chip.storeRows (ch : Chip) (k : Clock) (x : KvSeq) (t : AttnTask) (l : TaskList) (a : Append) (ks vs : List Byte) : Chip :=
  let n := x.hd * x.eb
  (List.range a.rows.length).foldl (fun c tok =>
    match a.rows[tok]? with
    | none => c
    | some (j, row) =>
      let src := (l.h * t.tokens + tok) * n
      let c := c.writeDva k x.part (x.slotDva l.i j + row * n) (x.storedKey (t.p0 + tok) (slice ks src n))
      c.writeDva k x.part (x.slotDva l.i j + (16 + row) * n) (slice vs src n)) ch

/-- The keys and values of a block, or the cause of R329. -/
def Chip.blockData (ch : Chip) (x : KvSeq) (i bi : Nat) (b : KvBlock) : Except Nat KvData :=
  let n := x.hd * x.eb
  let rows : List Byte → List (List FVal) := fun bs => (List.range b.count).map fun r => decodeElems (kvElemFmt x.fmt) (slice bs (r * n) n) x.hd
  match ch.attnDva x.part (x.slotDva i b.slot) (b.count * n), ch.attnDva x.part (x.slotDva i b.slot + 16 * n) (b.count * n) with
  | .ok kb, .ok vb => .ok { bi := bi, b := b, ks := rows kb, vs := rows vb }
  | .error c, _ => .error c
  | _, .error c => .error c

/-- What attending over one list gives: the outputs, the masses of its blocks, and the blocks visited. -/
structure Attended where
  outs : List Byte
  masses : List Word
  visits : Nat
  deriving DecidableEq, Repr

/-- The rows of a head group, from number `from` on, at most 64 (R327). -/
def KvSeq.rowsAt (x : KvSeq) (t : AttnTask) (h first : Nat) (qs : List Byte) : List QRow :=
  let n := x.hd * (qElemFmt t.qfmt).2.1
  (List.range (min 64 (t.tokens * x.g - first))).map fun r =>
    let i := first + r
    { pos := t.p0 + i / x.g, vec := x.query t.qfmt (t.p0 + i / x.g) (slice qs ((h * t.tokens * x.g + i) * n) n), head := (t.h0 + h) * x.g + i % x.g }

/-- The rows of a pass over a list, and the blocks it does not skip, with their places (R334). -/
def KvSeq.passRows (x : KvSeq) (t : AttnTask) (h pass : Nat) (qs : List Byte) : List QRow := x.rowsAt t h (64 * pass) qs

def KvSeq.passBlocks (x : KvSeq) (t : AttnTask) (pass : Nat) (blocks : List KvBlock) : List (Nat × KvBlock) :=
  let n := min 64 (t.tokens * x.g - 64 * pass)
  ((List.range blocks.length).zip blocks).filter fun e => !x.skips t.span (t.p0 + 64 * pass / x.g) (t.p0 + (64 * pass + n - 1) / x.g) e.1 e.2

/-- Passes over a list. -/
def KvSeq.passes (x : KvSeq) (t : AttnTask) : Nat := ceilDiv (t.tokens * x.g) 64

/-- The passes over one list (R327, R334 to R336). -/
def Chip.attendList (ch : Chip) (x : KvSeq) (t : AttnTask) (l : TaskList) (blocks : List KvBlock) (qs : List Byte) : Except Nat Attended :=
  (List.range (x.passes t)).foldlM (fun (a : Attended) pass =>
    let rows := x.passRows t l.h pass qs
    match (x.passBlocks t pass blocks).mapM fun e => ch.blockData x l.i e.1 e.2 with
    | .error c => .error c
    | .ok ds =>
      let r := x.pass t.qfmt t.ofmt t.span (ch.free + (l.h * 1024 + pass)) rows ds a.masses
      .ok { outs := a.outs ++ r.1, masses := r.2, visits := a.visits + ds.length }) { outs := [], masses := List.replicate blocks.length 0, visits := 0 }

/-- A score after a task: score × δ + a (R336); a NaN's payload is free. -/
def KvSeq.newScore (x : KvSeq) (n lane : Nat) (score a : Word) : Word :=
  let s := fadd (fmul score x.decay) a
  if isNaN32 s then freeNaN n lane else s

/-- Scores of a list updated with its masses; after a race they are free (R342). -/
def KvSeq.rescore (x : KvSeq) (n : Nat) (raced : Bool) (blocks : List KvBlock) (masses : List Word) : List KvBlock :=
  (List.range blocks.length).filterMap fun i => (blocks[i]?).map fun b =>
    { b with score := if raced then (Config.freeValue (n + i)).setWidth 32 else x.newScore n i b.score (masses.getD i 0) }

/-! ### Requests of a task (R319) -/

/-- The DVA ranges a task reads: its descriptor, its lists' tables, its sources, the blocks its passes visit. -/
def Chip.taskReads (ch : Chip) (e : Nat) (x : KvSeq) (t : AttnTask) (ls : List (TaskList × List KvBlock)) : List (Nat × Nat) :=
  let g := (ch.rg e).eng
  let n := x.hd * x.eb
  let src : Bool → Nat → Nat → List (Nat × Nat) := fun b a l => if b && t.srcDva then [(a, l)] else []
  (g.dva + 64 * g.index, 64) ::
  ls.map (fun l => (x.tableDva l.1.i (optBool (x.list l.1.i).active), min (32 + 16 * (x.list l.1.i).blocks.length) x.tsz)) ++
  src t.append t.k (n * t.hcount * t.tokens) ++ src t.append t.v (n * t.hcount * t.tokens) ++
  src t.attend t.q (x.hd * (qElemFmt t.qfmt).2.1 * t.hcount * t.tokens * x.g) ++
  (if t.attend then ls.flatMap fun l => (List.range (x.passes t)).flatMap fun pass =>
      (x.passBlocks t pass l.2).flatMap fun b => [(x.slotDva l.1.i b.2.slot, b.2.count * n), (x.slotDva l.1.i b.2.slot + 16 * n, b.2.count * n)]
   else [])

/-- The DVA ranges a task writes: new rows, the tables it commits, outputs. -/
def KvSeq.taskWrites (x : KvSeq) (t : AttnTask) (rows : List (Nat × Nat × Nat)) (w : List (Nat × KvList)) (no : Nat) : List (Nat × Nat) :=
  let n := x.hd * x.eb
  rows.flatMap (fun r => [(x.slotDva r.1 r.2.1 + r.2.2 * n, n), (x.slotDva r.1 r.2.1 + (16 + r.2.2) * n, n)]) ++
  w.map (fun l => (x.tableDva l.1 (optBool !(x.list l.1).active), 32 + 16 * l.2.blocks.length)) ++
  (if t.attend && t.dstDva then [(t.o, no)] else [])

/-- A DVA range cut into requests of at most 4 KiB, with the positions each needs (R199, R201, R319). -/
def Chip.engReqs (ch : Chip) (e p : Nat) (write : Bool) (dva n : Nat) : List EngReq :=
  if n = 0 then []
  else (List.range ((dva + n - 1) / 4096 - dva / 4096 + 1)).map fun i =>
    let lo := max dva ((dva / 4096 + i) * 4096)
    let len := min (dva + n) ((dva / 4096 + i + 1) * 4096) - lo
    let g := (ch.pt p).pte (lo / 65536)
    if g.fl then { write := write, phys := none, len := len, remoteLeft := len, left := 0 }
    else { write := write, phys := some (g.phys lo), len := len, remoteLeft := if stackOf (g.phys lo) = dieOfRegion e then 0 else len, left := len }

/-! ### A task is ready (R326) -/

/-- Append, eviction and passes of a ready task, left uncommitted, or the cause that faults it. -/
def Chip.taskWork (ch : Chip) (k : Clock) (e p run index : Nat) (t : AttnTask) (ls : List TaskList) : Except Nat (AttnWork × Chip × Nat) := do
  let x := ch.sq t.seq
  let nk := x.hd * x.eb * t.hcount * t.tokens
  let nq := x.hd * (qElemFmt t.qfmt).2.1 * t.hcount * t.tokens * x.g
  let no := x.hd * (if t.ofmt = 2 then 4 else 2) * t.hcount * t.tokens * x.g
  let kb ← if t.append then ch.attnSource p t t.k nk else .ok []
  let vb ← if t.append then ch.attnSource p t t.v nk else .ok []
  let qb ← if t.attend then ch.attnSource p t t.q nq else .ok []
  match ch.attnDest p t no with
  | some c => .error c
  | none => pure ()
  let as ← ls.mapM (x.taskAppend t)
  let all := ls.zip as
  match all.findSome? fun e => e.2.rows.findSome? fun r => ch.rangeFault p (x.slotDva e.1.i r.1) x.slotBytes true with
  | some _ => .error 1
  | none => pure ()
  let ch := all.foldl (fun c e => c.storeRows k x t e.1 e.2 kb vb) ch
  let done ← if t.attend then all.mapM fun e => ch.attendList x t e.1 e.2.blocks qb else .ok (all.map fun e => { outs := [], masses := List.replicate e.2.blocks.length 0, visits := 0 })
  let raced := ls.any (·.raced)
  let lists := (all.zip done).filterMap fun e =>
    if e.1.1.applied || !(t.append || t.attend) then none
    else some (e.1.1.i,
      { e.1.1.l with blocks := if t.attend then x.rescore (ch.free + 65536 * (e.1.1.h + 1)) raced e.1.2.blocks e.2.masses else e.1.2.blocks,
                     last := if t.append then t.p0 + t.tokens - 1 else e.1.1.l.last, run := run, task := index })
  let outs := done.flatMap (·.outs)
  let outs := if raced then (List.range outs.length).map fun i => (Config.freeValue (ch.free + 2 ^ 24 + i)).setWidth 8 else outs
  let rows := all.flatMap fun e => e.2.rows.map fun r => (e.1.i, r.1, r.2)
  let reqs := ((ch.taskReads e x t (all.map fun e => (e.1, e.2.blocks))).flatMap fun r => ch.engReqs e p false r.1 r.2) ++
    (x.taskWrites t rows lists no).flatMap fun r => ch.engReqs e p true r.1 r.2
  pure ({ task := t, lists := lists, evicted := (as.map (·.evicted)).sum, outs := if t.attend then [(t.o, outs)] else [], ready := k.timebase, reqs := reqs },
    { ch with free := ch.free + 2 ^ 32 }, (done.map (·.visits)).sum)

/-- What a task's reads do beside delivering: errors are counted, frames marked, clusters named (R157, R246, R247). -/
def Chip.taskTouch (ch : Chip) (k : Clock) (e p : Nat) (t : AttnTask) (ls : List (TaskList × List KvBlock)) : Chip :=
  let x := ch.sq t.seq
  let ctx := (ch.rg e).eng.ctx
  let nk := x.hd * x.eb * t.hcount * t.tokens
  let nq := x.hd * (qElemFmt t.qfmt).2.1 * t.hcount * t.tokens * x.g
  let ch := (ch.taskReads e x t ls).foldl (fun c r => c.touchDva k p r.1 r.2) ch
  let ch := if t.append then (ch.attnTouch k ctx t t.k nk).attnTouch k ctx t t.v nk else ch
  if t.attend then ch.attnTouch k ctx t t.q nq else ch

/-- Whether a KV command that names a sequence is accepted and not completed (R341). -/
def Chip.kvPending (ch : Chip) (seq : Nat) : Bool := ch.works.any fun (w : Work) => w.kind.kvSeqs.contains seq

/-- A task past its wait goes through its lists (R326, R342). -/
def Chip.taskBegin (ch : Chip) (k : Clock) (e p : Nat) (t : AttnTask) : Chip :=
  let g := (ch.rg e).eng
  let x := ch.sq t.seq
  match ch.taskLists x t g.run g.index with
  | .error c => ((t.lists x).foldl (fun h i => h.touchDva k p (x.tableDva i (optBool (x.list i).active)) x.tsz) ch).attnFault k e c t.seq
  | .ok ls =>
    let ls := if t.append || t.attend then ls else []
    let ch := ls.foldl (fun c l => c.raceSeen k e g.ctx t l) ch
    if ls.any fun l => l.raced && !(ch.sq t.seq).sound l.l then ch.attnFault k e 6 t.seq
    else
      match ch.taskWork k e p g.run g.index t ls with
      | .error c => (ch.taskTouch k e p t (ls.map fun l => (l, l.l.blocks))).attnFault k e c t.seq
      | .ok (w, ch', visits) =>
        (ch'.taskTouch k e p t (ls.map fun l => (l, ((w.lists.find? fun y => decide (y.1 = l.i)).map (·.2.blocks)).getD l.l.blocks))).modEng e fun y => { y with work := some w, activity := y.activity + visits }

/-- ATTENTION_TASK_READY: the task at the head of the engine's queue holds, faults, or passes its wait and begins. -/
def Chip.taskReady (ch : Chip) (k : Clock) (e : Nat) : Chip :=
  let g := (ch.rg e).eng
  match g.part with
  | none => ch
  | some p =>
    if (g.st ≠ .running && g.st ≠ .holding) || g.parked || g.work.isSome || g.count ≤ g.index || !ch.rangeServes p (g.dva + 64 * g.index) 64 then ch
    else match ch.attnDva p (g.dva + 64 * g.index) 64 with
      | .error c => (ch.touchDva k p (g.dva + 64 * g.index) 64).attnFault k e c 0
      | .ok b =>
        let t := attnTask b
        if !ch.rangeServes p (ch.sq t.seq).kvBase (ch.sq t.seq).size then ch
        else if ch.kvPending t.seq then ch.modEng e fun y => { y with st := .holding }
        else match ch.taskCheck e p t with
          | some c => ch.attnFault k e c t.seq
          | none =>
            let ch := ch.modEng e fun y => { y with st := .running }
            if g.waitDone || t.wn = 0 then (ch.modEng e fun y => { y with waitDone := true }).taskBegin k e p t
            else if t.wn ≤ look 0 (ch.rg e).sems t.wsem then
              ((ch.modRg e fun r => { r with sems := upd 0 r.sems t.wsem (· - t.wn) }).modEng e fun y => { y with waitDone := true }).taskBegin k e p t
            else ch

def execAttentionTaskReady (e : Nat) (s : State) : Res := onChip s fun k ch => ch.taskReady k e

/-! ### A task completes (R326) -/

/-- A task's outputs written to their destination. -/
def Chip.writeOuts (ch : Chip) (k : Clock) (p : Nat) (t : AttnTask) (bytes : List Byte) : Chip :=
  if t.dstDva then ch.writeDva k p t.o bytes
  else match ch.pcid t.lcid with
    | none => ch
    | some c => ch.modCl c fun x => (x.writePhys 0 (t.o % spdSize) bytes (bytes.length + 1)).count 3 (ceilDiv bytes.length 32)

/-- The engine goes on to its next task, or ends its part of the run. -/
def Chip.engineNext (ch : Chip) (k : Clock) (e : Nat) : Chip :=
  let g := (ch.rg e).eng
  let ch := ch.progress k (g.part.getD 0) g.ctx
  if g.index + 1 < g.count then ch.modEng e fun y => { y with index := y.index + 1, waitDone := false, work := none }
  else (ch.modEng e fun y => { y with st := .idle, waitDone := false, work := none }).runEngineEnded k g.run e

/-- ATTENTION_TASK_COMPLETE: outputs visible, every changed list committed, the signal semaphore raised. -/
def Chip.taskComplete (ch : Chip) (k : Clock) (e : Nat) : Chip :=
  let g := (ch.rg e).eng
  match g.work, g.part with
  | some w, some p =>
    if g.st ≠ .running || g.parked || !w.reqs.isEmpty then ch
    else
      let t := w.task
      let x := ch.sq t.seq
      match ch.attnDest p t ((w.outs.map fun o => o.2.length).sum) with
      | some c => ch.attnFault k e c t.seq
      | none =>
        if w.lists.any fun l => (ch.rangeFault p (x.tableDva l.1 (optBool !(x.list l.1).active)) x.tsz true).isSome then ch.attnFault k e 1 t.seq
        else if w.lists.any fun l => (ch.firstLost p (x.tableDva l.1 (optBool !(x.list l.1).active)) (32 + 16 * l.2.blocks.length) true).isSome then
          (w.lists.foldl (fun c l => c.touchDva k p (x.tableDva l.1 (optBool !(x.list l.1).active)) x.tsz) ch).attnFault k e 2 t.seq
        else
          let ch := w.outs.foldl (fun c o => c.writeOuts k p t o.2) ch
          let ch := w.lists.foldl (fun c l => c.commitList k t.seq l.1 l.2) ch
          let ch := ch.modEng e fun y => { y with evict := satTo 0xFFFFFFFF (y.evict + w.evicted) }
          let ch := if t.sn = 0 then ch else
            ch.modRg e fun r => { r with sigFlight := r.sigFlight ++ [(t.ssem, t.sn, k.localNs + ceilDiv (3 * ch.period (dieOfRegion e)) 42)] }
          ch.engineNext k e
  | _, _ => ch

def execAttentionTaskComplete (e : Nat) (s : State) : Res := onChip s fun k ch => ch.taskComplete k e

end Sys2Proof.Machine
end

