-- ==== Sys2Proof/Machine/Power.lean ====
section
/-! DEFINITION. Operating points, the cap loop, parking and the power commands (spec/15_power_clocks_thermal.md R426 to R446). -/

namespace Sys2Proof.Machine

/-! ### The ladder (R427, R430) -/

/-- Core voltage of an operating point in mV. -/
def oppMv (o : Nat) : Nat := [550, 560, 580, 620, 660, 700, 750, 800].getD o 800

/-- Relative dynamic power r(o) in thousandths. -/
def oppPower (o : Nat) : Nat := [118, 153, 197, 300, 425, 574, 769, 1000].getD o 1000

/-- Relative power of a ladder step in sixteenths of a thousandth. -/
def stepPower (s : Nat) : Nat := if s ≤ 15 then 118 * (s + 1) else oppPower (s - 15) * 16

/-! ### A die's operating point (R428, R431 to R433) -/

/-- The request of a die: the highest hint among the running, waiting and yielded slots of its unparked clusters. -/
def Chip.dieRequest (ch : Chip) (d : Nat) : Nat :=
  ((List.range 20).flatMap fun i =>
    let c := ch.cl (d * 20 + i)
    if c.svc ≠ .owned || c.parked then []
    else (List.range 4).filterMap fun n => let s := c.slot n; if s.st.busy then some (s.hint.getD 7) else none).foldl max 0

/-- The partitions with lcids on a die. -/
def Chip.dieOwners (ch : Chip) (d : Nat) : List Nat := (List.range 8).filter fun p => (ch.pt p).valid && ch.onDie p d

/-- The operating point a die is to run at. -/
def Chip.dieOpp (ch : Chip) (d : Nat) : Nat :=
  let x := ch.die d
  if ch.dieShared d then (if 16 ≤ x.limit then min x.lock (x.limit - 15) else 0)
  else
    let s := match ch.dieOwners d with | p :: _ => (ch.pt p).step | [] => 22
    let e := min s x.limit
    if 16 ≤ e then min x.request (e - 15) else 0

/-- A new target: a transition begins, or waits for the one in progress (R428). -/
def Die.aim (x : Die) (ns o : Nat) : Die :=
  if x.target.isSome then { x with pendTarget := some o }
  else if o = x.opp then x
  else
    let ramp := 200 * (oppMv o - oppMv x.opp)
    { x with target := some o, switchDone := false, switchAt := if x.opp < o then ns + ramp else ns }

/-- The target that came during a transition is applied when it ends. -/
def Die.ended (x : Die) (ns : Nat) : Die :=
  let y := { x with target := none, switchDone := true, pendTarget := none }
  match x.pendTarget with | some o => y.aim ns o | none => y

/-! ### Energy (R436) -/

/-- Energy that counted activity comes to at an operating point, in 10 fJ. -/
def activityEnergy (a : Store Nat) (opp : Nat) : Nat :=
  (a.map fun e => e.2 * (if e.1 = 8 then Config.leakCoeff opp else Config.energyCoeff e.1 opp)).sum

/-- The activity counted so far on a die goes to its partitions' energy at the present operating point. -/
def Chip.settle (ch : Chip) (d : Nat) : Chip :=
  let o := (ch.die d).opp
  let ch := (List.range 20).foldl (fun c i =>
    let n := d * 20 + i
    let a := (c.cl n).activity
    let c := match c.ownerOfCl n with | some p => c.modPt p fun x => { x with energy := x.energy + activityEnergy a o } | none => c
    c.modCl n fun x => { x with activity := [] }) ch
  (List.range 4).foldl (fun c i =>
    let e := d * 4 + i
    let g := (c.rg e).eng
    let c := match g.part with | some p => c.modPt p fun x => { x with energy := x.energy + g.activity * Config.energyCoeff 6 o } | none => c
    c.modEng e fun y => { y with activity := 0 }) ch

def Chip.settleAll (ch : Chip) : Chip := (List.range 4).foldl (fun c d => c.settle d) ch

/-- Dry instants of a die's streams recomputed at a switch (R198, R428). -/
def Chip.redryDie (ch : Chip) (k : Clock) (d : Nat) : Chip :=
  (List.range 4).foldl (fun c i => (List.range 64).foldl (fun h st => if (h.str (d * 4 + i) st).active.isSome then h.redry k (d * 4 + i) st else h) c) ch

/-- OPP_SWITCH: the edge in progress is the last of the old period, the next follows it by 40 ns (R428). -/
def Chip.oppSwitch (ch : Chip) (k : Clock) (d : Nat) : Chip :=
  let x := ch.die d
  match x.target with
  | none => ch
  | some o =>
    if x.switchDone || k.localNs < x.switchAt then ch
    else
      let ch := (ch.settle d).modDie d fun y =>
        let z := { y with opp := o, gap := true, switchDone := true, endAt := k.localNs + 200 * (oppMv y.opp - oppMv o) }
        if y.opp < o then z.ended k.localNs else z
      ch.redryDie k d

def execOppSwitch (d : Nat) (s : State) : Res := onChip s fun k ch => ch.oppSwitch k d

/-- OPP_TRANSITION_END: the voltage has ramped down (R428). -/
def execOppTransitionEnd (d : Nat) (s : State) : Res :=
  onChip s fun k ch =>
    let x := ch.die d
    if x.target.isSome && x.switchDone && decide (x.endAt ≤ k.localNs) then ch.modDie d fun y => y.ended k.localNs else ch

/-! ### Allowances (R434) -/

/-- Reserve of the package's configuration without the losses, in mW. -/
def Chip.fixedReserve (ch : Chip) : Nat :=
  ((List.range 4).map fun s => if (ch.sk s).failed then 500 else [27500, 22000, 16000, 6000].getD (ch.sk s).point 6000).sum +
  4375 * ((List.range 8).filter fun p => ch.fabric.enabled.getLsbD p).length + 10000 + (if ch.power.flashHold then 4000 else 20000)

/-- The regulated allowance under a cap in W and a reserve in mW, in 0.01 W. -/
def pregOf (cap fixed : Nat) : Nat := (cap * 480000 - fixed * 480 - cap * 35000) / 4800

/-- A partition's allowance in 0.01 W. -/
def allowOf (share preg : Nat) : Nat := share * preg / 64

/-! ### Samples (R426, R431, R439, R444) -/

/-- The readings of a die and its stack among the 40 sensors: 8 a die, 1 a stack, 4 of the H-die. -/
def dieTemps (temps : List Int) (d : Nat) : List Int := (temps.drop (8 * d)).take 8 ++ ((temps.drop (32 + d)).take 1)

def maxTemp (l : List Int) : Int := match l with | [] => 0 | t :: ts => ts.foldl max t

def Die.sample (x : Die) (temps : List Int) (d : Nat) : Die :=
  let l := dieTemps temps d
  { x with junction := maxTemp ((temps.drop (8 * d)).take 8), stackTemp := maxTemp ((temps.drop (32 + d)).take 1),
           hot := x.hot || l.any (fun t => decide (95 ≤ t)), allCool := x.allCool && l.all (fun t => decide (t ≤ 90)) }

/-- A single-owner die follows its request and its owner's step at every sample; a shared one changes at boundaries. -/
def Chip.aimDie (ch : Chip) (k : Clock) (d : Nat) : Chip := ch.modDie d fun x => x.aim k.localNs (ch.dieOpp d)

/-- The energy hold of a partition whose counted energy has reached its allowance (R439). -/
def Partition.holdCheck (x : Partition) (preg : Nat) : Partition :=
  if x.valid && decide (0 < x.energy) && decide (allowOf x.power preg * 1000000000 ≤ x.energy) then { x with hold := true } else x

/-- POWER_SAMPLE. -/
def Chip.powerSample (ch : Chip) (k : Clock) (temps : List Int) : Chip :=
  let ch := { ch with power := { ch.power with temps := temps } }
  let ch := (List.range 4).foldl (fun c d => (c.modDie d fun x => x.sample temps d).modDie d fun x => { x with request := c.dieRequest d }) ch.settleAll
  let ch := (List.range 8).foldl (fun c p => c.modPt p fun x => x.holdCheck ch.power.preg) ch
  (List.range 4).foldl (fun c d => if c.dieShared d then c else c.aimDie k d) ch

/-- What the power controller keeps of a sample: the rails, and VIN's for the sideband (R511). -/
def ModulePins.sample (m : ModulePins) (rails : List RailReading) : ModulePins :=
  match rails.find? fun r => r.rail = 0 with
  | some r => { m with railReadings := rails, vinVolts := r.mv / 10, vinPower := r.mv * r.ma / 100000 }
  | none => { m with railReadings := rails }

def execPowerSample (rails : List RailReading) (temps : List Int) (s : State) : Res :=
  onModule s fun k m ch => if m.st = .on then (m.sample rails, ch.powerSample k temps) else (m, ch)

/-! ### The loop (R434, R437, R438, R440, R444) -/

/-- The step of a partition from the estimate e and allowance a, in one unit, and the step s0 of the ended period; none is −1. -/
def nextStep (e a s0 : Nat) : Option Nat :=
  if a < e then ((List.range 23).filter fun k => decide (e * stepPower k ≤ a * stepPower s0)).getLast?
  else some (raise s0 (22 - s0))
where
  /-- Raises while the next step is predicted at most 0.9 of the allowance. -/
  raise (s : Nat) : Nat → Nat
    | 0 => s
    | k + 1 => if 10 * (e * stepPower (s + 1)) ≤ 9 * (a * stepPower s0) then raise (s + 1) k else s

/-- The thermal limit after a period. -/
def Die.thermal (x : Die) : Die :=
  { x with limit := if x.hot then x.limit - 1 else if x.allCool then min 22 (x.limit + 1) else x.limit, hot := false, allCool := true }

/-- A partition at a boundary: its allowance, its estimate over a period of len ns, its step. -/
def Partition.boundary (x : Partition) (preg len : Nat) : Partition :=
  let a := allowOf x.power preg
  let e := if x.parked then 0 else x.energy
  let s := nextStep e (a * 1000 * len) x.step
  let below := s.isNone || (decide (x.power = 0) && decide (x.lcids ≠ 0))
  let y := { x with allow := a, est := e / (1000 * len), energy := 0, heldLast := x.hold, hold := false }
  if x.parked then { y with floor := x.floor } else { y with floor := below, step := if below then 0 else s.getD 0 }

/-- The partition to park: below its floor, of lowest priority, ties to the higher id. -/
def Chip.parkChoice (ch : Chip) : Option Nat :=
  ((List.range 8).filter fun p => let x := ch.pt p; x.valid && x.floor && !x.parked).foldl (fun b p =>
    match b with | none => some p | some q => if (ch.pt p).prio ≤ (ch.pt q).prio then some p else some q) none

/-- The partition to unpark: of highest priority among those whose allowance has reached 1.25 times their estimate; ties to the lower id. -/
def Chip.unparkChoice (ch : Chip) : Option Nat :=
  ((List.range 8).filter fun p => let x := ch.pt p; x.valid && x.parked && decide (5 * x.parkEst ≤ 4 * x.allow)).foldl (fun b p =>
    match b with | none => some p | some q => if (ch.pt q).prio < (ch.pt p).prio then some p else some q) none

def Context.pause (x : Context) (ns : Nat) : Context := { x with pausedAt := some (x.pausedAt.getD ns) }

/-- A pause ends: the watchdog has not run meanwhile (R441, R471). -/
def Context.resume (x : Context) (ns : Nat) : Context :=
  match x.pausedAt with | some t => { x with restart := x.restart + (ns - t), pausedAt := none } | none => x

/-- Every cluster and engine of a partition. -/
def Chip.eachUnit (ch : Chip) (p : Nat) (f : Cluster → Cluster) (g : Engine → Engine) : Chip :=
  ((List.range 16).filter (ch.pt p).ownsEng).foldl (fun c e => c.modEng e g) ((ch.clustersOf p).foldl (fun c n => c.modCl n f) ch)

/-- Parking (R441). -/
def Chip.park (ch : Chip) (k : Clock) (p : Nat) : Chip :=
  (ch.modPt p fun x => { x with parked := true, parkEst := x.est, contexts := x.contexts.map fun c => (c.1, c.2.map fun y => y.pause k.localNs) }).eachUnit p
    (fun c => { c with parked := true, unparkAt := none }) fun e => { e with parked := true }

/-- Unparking at step 0: edges of its clusters and engines resume when the banks are on again, 2 µs later (R440, R441). -/
def Chip.unpark (ch : Chip) (k : Clock) (p : Nat) : Chip :=
  (ch.modPt p fun x => { x with parked := false, floor := false, step := 0, contexts := x.contexts.map fun c => (c.1, c.2.map fun y => y.resume k.localNs) }).eachUnit p
    (fun c => { c with unparkAt := some (k.localNs + 2000), lastBeat := k.localNs + 2000 }) id

def Chip.parking (ch : Chip) (k : Clock) : Chip :=
  match ch.parkChoice with
  | some p => ch.park k p
  | none => match ch.unparkChoice with | some p => ch.unpark k p | none => ch

/-- LOOP_BOUNDARY: at each multiple of 1 ms of the timebase. -/
def Chip.loopBoundary (ch : Chip) (k : Clock) (meanVin : Nat) : Chip :=
  if k.timebase / 1000000 ≤ ch.power.lastBoundary then ch
  else
    let len := max 1 (k.localNs - ch.power.lastBoundaryLocal)
    let passed := decide (ch.power.cap * 10 < meanVin)
    let ch := ch.settleAll
    let preg := pregOf ch.power.capNext ch.fixedReserve
    let ch := { ch with power := { ch.power with
      cap := ch.power.capNext, preg := preg, meanVin := satTo 0xFFFF meanVin, overCap := ch.power.overCap || passed,
      overCount := if passed then satTo 0xFFFF (ch.power.overCount + 1) else ch.power.overCount, lastBoundary := k.timebase / 1000000, lastBoundaryLocal := k.localNs } }
    let ch := (List.range 4).foldl (fun c d => c.modDie d Die.thermal) ch
    let ch := (List.range 8).foldl (fun c p => if (c.pt p).valid then c.modPt p fun x => x.boundary preg len else c) ch
    (List.range 4).foldl (fun c d => c.aimDie k d) (ch.parking k)

def execLoopBoundary (meanVin : Nat) (s : State) : Res := onChip s fun k ch => if ch.ready then ch.loopBoundary k meanVin else ch

/-! ### Commands (R442, R446) -/

/-- PWR_CAP. -/
def execPwrCap (q : Req) (s : State) : Res :=
  onChip s (runCmd 0x0701 q fun _ ch =>
    let w := beAt q.payload 0 2
    checked [ (decide (480 < w), (.badField, some 0)), reserved q 2 2 ]
      ({ ch with power := { ch.power with capNext := max 45 w } }.reply q (if w < 45 then .capClamped else .ok) []))

/-- The fields of PWR_QUERY for a partition. -/
def Chip.powerFields (ch : Chip) (p : Nat) : List Byte :=
  let x := ch.pt p
  toBe ch.power.cap 2 ++ toBe (satTo 0xFFFF (ch.power.preg / 10)) 2 ++ toBe (satTo 0xFFFF (allowOf x.power ch.power.preg)) 2 ++ toBe (satTo 0xFFFF x.est) 2 ++
  ((List.range 4).flatMap fun d => toBe (if p = 0 || ch.onDie p d then (ch.die d).opp else 0xFF) 1) ++ toBe x.step 1 ++
  toBe (optBool x.parked + 2 * optBool ((List.range 4).any fun d => ch.onDie p d && decide ((ch.die d).limit < 22)) + 4 * optBool x.heldLast) 1 ++ zeros 2

/-- PWR_QUERY. -/
def execPwrQuery (q : Req) (s : State) : Res := onChip s (runCmd 0x0702 q fun _ ch => checked [] (ch.reply q .ok (ch.powerFields q.part)))

end Sys2Proof.Machine
end

