-- ==== Sys2Proof/Machine/Records.lean ====
section
/-! DEFINITION. Firmware images and configuration records in flash: their layout, when a copy is good and which copy is used
(spec/17_boot_configuration.md R484 to R486, R490, R491; spec/12_partitions_security.md R356 to R360). -/

namespace Sys2Proof.Machine

/-! ### Layout (R484, R485) -/

/-- A type's signer (0 ROM, 1 owner, 2 identity), whether it is bound, and its largest body. -/
structure RecInfo where
  signer : Nat
  bound : Bool
  most : Nat
  deriving DecidableEq, Repr

def recInfo : Nat → Option RecInfo
  | 0 => some { signer := 0, bound := false, most := 67108864 }
  | 1 => some { signer := 0, bound := true, most := 4096 }
  | 2 => some { signer := 0, bound := false, most := 65536 }
  | 3 => some { signer := 0, bound := true, most := 4096 }
  | 4 => some { signer := 0, bound := true, most := 1048576 }
  | 5 => some { signer := 0, bound := true, most := 4096 }
  | 6 => some { signer := 0, bound := true, most := 65536 }
  | 7 => some { signer := 0, bound := true, most := 16384 }
  | 8 => some { signer := 1, bound := true, most := 4096 }
  | 9 => some { signer := 1, bound := true, most := 4096 }
  | 10 => some { signer := 1, bound := true, most := 16 }
  | 11 => some { signer := 2, bound := true, most := 262144 }
  | 12 => some { signer := 2, bound := true, most := 1048576 }
  | _ => none

def recMagic : List Byte := [0x53, 0x4B, 0x43, 0x52]

def recBody (bs : List Byte) : List Byte := slice bs 64 (bs.length - 128)
def recSeqOf (bs : List Byte) : Nat := leAt bs 8 4

/-- The binding of an identity: the first 32 bytes of the SHA-512 of its public key. -/
def bindingOf (idPub : List Byte) : List Byte := (Config.sha512 idPub).take 32

/-- A record laid out and signed. -/
def makeRecord (type signer seq : Nat) (binding secret body : List Byte) : List Byte :=
  let m := recMagic ++ toLe type 2 ++ toLe signer 1 ++ zeros 1 ++ toLe seq 4 ++ toLe body.length 4 ++ binding ++ zeros 16 ++ body
  m ++ Config.ed25519Sign secret (Config.sha512 m)

/-! ### Bodies: the layouts are the model's but for types 0 and 10 -/

/-- The frames of an HBM retirement body from stack s on: a count of four bytes, then the frames of the stack in four bytes each. -/
def retiredFrames (bs : List Byte) (s : Nat) : Nat → Option (List Nat)
  | 0 => if bs.isEmpty then some [] else none
  | n + 1 =>
    let c := leAt bs 0 4
    if bs.length < 4 + 4 * c then none
    else (retiredFrames (bs.drop (4 + 4 * c)) (s + 1) n).map fun t => ((List.range c).map fun i => frameNo s (leAt bs (4 + 4 * i) 4)) ++ t

/-- Bytes of a delay body: a mask of data-rate points for each stack, then 1,024 delays for each stack, point and kind. -/
def delaySize : Nat := 4 + 4 * 4 * 3 * 1024

/-- Whether a body meets its type's layout. -/
def bodyOk (type : Nat) (b : List Byte) : Bool :=
  match type with
  | 0 => decide (4 ≤ b.length)
  | 1 => decide (12 ≤ b.length)
  | 2 => true
  | 3 => decide (b.length = 32)
  | 4 => decide (b.length = delaySize) && (b.take 4).all (fun x => decide (x.toNat < 16)) && b.all (fun x => decide (x.toNat < 128))
  | 5 => decide (b.length = 8) && (List.range 4).all fun s => decide (0 < leAt b (2 * s) 2) && decide (leAt b (2 * s) 2 ≤ 3900)
  | 6 => decide (2 ≤ b.length) && decide (45 ≤ leAt b 0 2) && decide (leAt b 0 2 ≤ 480)
  | 7 => decide (b.length = 8) && decide (leAt b 2 2 = 0)
  | 8 => decide (b.length = 35) && decide (leAt b 34 1 < 4)
  | 9 => decide (b.length = 9) && (List.range 3).all (fun i => decide (0 < leAt b i 1) && decide (leAt b i 1 ≤ 8) && decide (leAt b (3 + i) 1 < leAt b i 1)) &&
         (List.range 2).all fun i => decide (leAt b (6 + i) 1 ≤ 5) || decide (leAt b (6 + i) 1 = 0xFF)
  | 10 => decide (b.length = 16) && (List.range 16).all fun r => decide ((BitVec.ofNat 8 r) ∈ b)
  | 11 => decide (80 ≤ b.length) && decide (b.length % 4 = 0) && ((b.take 80).all fun x => decide (bitsAt x.toNat 2 4 = 0)) &&
          (List.range ((b.length - 80) / 4)).all fun i => decide (leAt b (80 + 4 * i) 1 < 80) && decide (leAt b (81 + 4 * i) 1 < 128) && decide (leAt b (82 + 4 * i) 2 < 512)
  | 12 => (retiredFrames b 0 4).isSome
  | _ => false

/-! ### Good copies (R486) -/

/-- Everything R486 asks of a copy but its signature. -/
def recForm (type : Nat) (binding bs : List Byte) : Bool :=
  match recInfo type with
  | none => false
  | some i =>
    decide (128 ≤ bs.length) && decide (bs.take 4 = recMagic) && decide (leAt bs 4 2 = type) && decide (leAt bs 6 1 = i.signer) && zeroAt bs 7 1 &&
    decide (leAt bs 12 4 + 128 = bs.length) && decide (leAt bs 12 4 ≤ i.most) &&
    (decide (slice bs 16 32 = binding) || (!i.bound && zeroAt bs 16 32)) && zeroAt bs 48 16 && bodyOk type (recBody bs)

/-- Whether a copy's signature over its header and body verifies under a key. -/
def recSigned (key bs : List Byte) : Bool :=
  Config.ed25519Verify key (Config.sha512 (bs.take (bs.length - 64))) (bs.drop (bs.length - 64))

/-- The key a type's signer has: none while it is not known. -/
def recKey (type : Nat) (owner idPub : Option (List Byte)) : Option (List Byte) :=
  match (recInfo type).map (·.signer) with
  | some 0 => some Config.romKey
  | some 1 => owner
  | some 2 => idPub
  | _ => none

def recGood (type : Nat) (owner idPub : Option (List Byte)) (bs : List Byte) : Bool :=
  recForm type (match idPub with | some i => bindingOf i | none => zeros 32) bs && (match recKey type owner idPub with | some k => recSigned k bs | none => false)

/-- A copy as it reads: one with an uncorrectable sector has no bytes (R263). -/
def Flash.copy (f : Flash) (type : Nat) (b : Bool) : List Byte :=
  if f.unread.contains (type * 2 + optBool b) then [] else look [] f.records (type * 2 + optBool b)

def Flash.setCopy (f : Flash) (type : Nat) (b : Bool) (bs : List Byte) : Flash :=
  { f with records := put [] f.records (type * 2 + optBool b) bs, unread := f.unread.filter (· ≠ type * 2 + optBool b) }

/-- The copy in use of a type (true: B): of two good ones the higher seq, A when equal; of the firmware A when it is good. -/
def Flash.pick (f : Flash) (type : Nat) (good : List Byte → Bool) : Option Bool :=
  let a := good (f.copy type false)
  let b := good (f.copy type true)
  if a && b then some (decide (type ≠ 0) && decide (recSeqOf (f.copy type false) < recSeqOf (f.copy type true)))
  else if a then some false else if b then some true else none

/-- Whether a copy of a type is not good. -/
def Flash.copyBad (f : Flash) (type : Nat) (good : List Byte → Bool) : Bool := !(good (f.copy type false) && good (f.copy type true))

/-! ### Identity and measurements (R356, R357, R360) -/

/-- The labels "SKOIK-ID" and "SKOIK-KA". -/
def labelId : List Byte := [0x53, 0x4B, 0x4F, 0x49, 0x4B, 0x2D, 0x49, 0x44]
def labelKa : List Byte := [0x53, 0x4B, 0x4F, 0x49, 0x4B, 0x2D, 0x4B, 0x41]

/-- The security processor's keys from the root secret. -/
def Security.ofRoot (x : Security) (root : List Byte) : Security :=
  let id := Config.hkdf root [] labelId 32
  let ka := Config.hkdf root [] labelKa 32
  { x with idOk := true, root := root, idSecret := id, idPub := Config.ed25519Public id, kaSecret := ka, kaPub := Config.x25519 ka (9 :: zeros 31) }

/-- The configuration measurement of the copies in use, by type (R360). -/
def cfgMeasure (recs : List (List Byte)) : List Byte := Config.sha512 (recs.flatMap Config.sha512)

/-- The records in use, ascending by type. -/
def Chip.recsInUse (ch : Chip) : List (List Byte) := ((List.range 13).drop 1).map fun t => ch.flash.copy t (ch.boot.inB.getLsbD t)

/-! ### Records the device writes (R179, R247, R489, R490) -/

/-- The repair body: for each cluster its failure count, whether it is failed and retired; then the row each spare in use replaces: the
cluster, bank × 8 + spare, the row. -/
def Chip.repairBody (ch : Chip) : List Byte :=
  ((List.range 80).flatMap fun c => let x := ch.cl c; toLe (x.failCount % 4 + optBool x.failed * 64 + optBool x.retired * 128) 1) ++
  (List.range 80).flatMap fun c => (ch.cl c).ecc.spareRows.flatMap fun e => toLe c 1 ++ toLe e.1 1 ++ toLe (e.2 - 1) 2

/-- The rows a repair body maps to spares of a cluster's banks (R179). -/
def repairRows (b : List Byte) (c : Nat) : Store Nat :=
  (List.range ((b.length - 80) / 4)).foldl (fun m i => let o := 80 + 4 * i; if leAt b o 1 = c then put 0 m (leAt b (o + 1) 1) (leAt b (o + 2) 2 + 1) else m) []

/-- Every interface delay of a stack written from a delay body, with the points whose set it holds (R253). -/
def Stack.loadDelays (x : Stack) (body : List Byte) (s : Nat) : Stack :=
  { x with sets := BitVec.ofNat 4 (leAt body s 1),
           delays := (List.range 12288).filterMap fun i =>
             let v := leAt body (4 + s * 12288 + i) 1
             if v = 0 then none else some (i / 3072 * 4096 + i % 3072, v) }

/-- The delays of the record in use written again (R253). -/
def Chip.reloadDelays (ch : Chip) (s : Nat) : Chip :=
  ch.modSk s fun x => x.loadDelays (recBody (ch.flash.copy 4 (ch.boot.inB.getLsbD 4))) s

/-- A new delay record takes effect (R254, R486). -/
def Chip.pickDelays (ch : Chip) : Chip :=
  match ch.flash.pick 4 (recGood 4 ch.boot.owner (if ch.sec.idOk then some ch.sec.idPub else none)) with
  | some b => { ch with boot := { ch.boot with inB := (ch.boot.inB &&& ~~~BitVec.twoPow 16 4) ||| (if b then BitVec.twoPow 16 4 else 0) } }
  | none => ch

/-- The retirement body. -/
def Chip.retireBody (ch : Chip) : List Byte :=
  (List.range 4).flatMap fun s =>
    let fs := (ch.frames.filter fun f => decide (stackOfFrame f.1 = s) && decide (f.2.use = .retired)).map fun f => f.1 % 524288
    toLe fs.length 4 ++ fs.flatMap fun f => toLe f 4

/-- Writes one of them to the copy not in use, which then is the copy in use. -/
def Chip.writeOwn (ch : Chip) (type : Nat) (body : List Byte) : Chip :=
  let b := ch.boot.inB.getLsbD type
  let bs := makeRecord type 2 (recSeqOf (ch.flash.copy type b) + 1) (bindingOf ch.sec.idPub) ch.sec.idSecret body
  let ch := { ch with flash := ch.flash.setCopy type (!b) bs,
                      boot := { ch.boot with inB := ch.boot.inB ^^^ BitVec.twoPow 16 type, bad := ch.boot.bad &&& ~~~BitVec.twoPow 16 type } }
  { ch with sec := { ch.sec with mCfg := cfgMeasure ch.recsInUse } }

/-- The changes gathered are written. -/
def Chip.writeOwnRecords (ch : Chip) : Chip :=
  let ch := if ch.boot.repairDirty then ch.writeOwn 11 ch.repairBody else ch
  let ch := if ch.boot.retireDirty then ch.writeOwn 12 ch.retireBody else ch
  { ch with boot := { ch.boot with repairDirty := false, retireDirty := false } }

/-- REPAIR_RECORD_WRITE. -/
def execRepairRecordWrite (s : State) : Res := onChip s fun _ ch => if ch.ready then ch.writeOwnRecords else ch

/-! ### FLASH_UPDATE (R491) -/

def updateChecks (q : Req) (ch : Chip) : List (Bool × Refuse) :=
  let b := q.payload
  let type := beAt b 0 2
  let off := beAt b 4 4
  let total := beAt b 8 4
  let f := ch.flash
  let have_ := if off = 0 then 0 else f.updBuf.length
  let limit := match recInfo type with | some i => i.most + 128 | none => 0
  [ (decide (type = 11) || decide (type = 12), (.notPermitted, some 0)), (decide (12 < type), (.badField, some 0)), reserved q 2 2,
    (decide (off ≠ have_), (.badField, some 4)), (decide (off ≠ 0) && decide (total ≠ f.updTotal), (.badField, some 8)), reserved q 12 4,
    (decide (limit < total), (.lengthRange, some 8)), (decide (total < off + (b.drop 16).length), (.lengthRange, some 4)),
    (f.writing.isSome || ch.power.flashHold, (.notReady, none)) ]

/-- FLASH_UPDATE: a chunk is staged; the one that completes the image starts its check and its writing. -/
def execFlashUpdate (q : Req) (s : State) : Res :=
  onChip s (runCmd 0x0905 q fun k ch =>
    let b := q.payload
    let type := beAt b 0 2
    let total := beAt b 8 4
    let buf := (if beAt b 4 4 = 0 then [] else ch.flash.updBuf) ++ b.drop 16
    let last := decide (buf.length = total)
    let ch' := { ch with flash := { ch.flash with updBuf := buf, updTotal := total, writing := if last then some ch.nextWork else none } }
    checked (updateChecks q ch ++ [(last && (ch.worksFull q).1, (ch.worksFull q).2)])
      (if last then ch'.acceptReply k q 0x0905 (.flashImage type) [] else ch'.reply q .ok []))

/-! ### Flash writes that end (R264, R308, R491) -/

/-- The image staged, checked as if it were in flash: a record goes to the copy not in use, firmware to B and then A. -/
def Chip.imageDone (ch : Chip) (k : Clock) (w : Work) (type : Nat) : Chip :=
  let bs := ch.flash.updBuf
  let owner := ch.boot.owner
  let id := if ch.sec.idOk then some ch.sec.idPub else none
  let ch := { ch with flash := { ch.flash with writing := none, updBuf := [], updTotal := 0 } }
  let signed := match recKey type owner id with | some key => recSigned key bs | none => false
  if !signed then ch.complete k w 0xE001 .authFailed []
  else if !recGood type owner id bs then ch.complete k w 0xE001 .badField []
  else
    let f := if type = 0 then (ch.flash.setCopy 0 true bs).setCopy 0 false bs else ch.flash.setCopy type (!ch.boot.inB.getLsbD type) bs
    ({ ch with flash := f } : Chip).complete k w 0xE001 .ok []

/-- The package a load keeps: its manifest and its shards as they are sealed. -/
def Chip.packageOf (ch : Chip) (h e : Nat) : KeptPackage :=
  let m := ch.mdl h
  let ep := m.ep e
  { part := m.part, model := m.modelId, rev := ep.revision, manifest := ep.manifest,
    shards := (List.range ep.nshards).foldl (fun t i =>
      let x := ep.shard i
      if x.st = .resident then
        put [] t i (Config.gcmSeal ep.modelKey x.nonce (shardAad ep.manifest i) (ch.shardBytes m.part ep x))
      else t) [] }

def Chip.keepDone (ch : Chip) (k : Clock) (w : Work) (h e : Nat) : Chip :=
  let p := ch.packageOf h e
  let kept := (ch.flash.kept.filter fun x => !(decide (x.part = p.part) && decide (x.model = p.model) && decide (x.rev = p.rev))) ++ [p]
  let ch := { ch with works := ch.works.filter fun x => x.id ≠ w.id }
  if ((ch.mdl h).ep e).st = .empty || ((ch.mdl h).ep e).st = .loading || 100 ≤ ch.flash.wear then ch
  else ({ ch with flash := { ch.flash with kept := kept } } : Chip).flashWrote k (ceilDiv ((p.shards.map (·.2.length)).sum + p.manifest.length) 4096)

/-- FLASH_WRITE_COMPLETE. -/
def execFlashWriteComplete (id : Nat) (s : State) : Res :=
  onChip s fun k ch =>
    match ch.work? id with
    | none => ch
    | some w =>
      match w.kind with
      | .flashImage type => ch.imageDone k w type
      | .flashKeep h e => ch.keepDone k w h e
      | _ => ch

end Sys2Proof.Machine
end

