-- ==== Sys2Proof/Machine/Boot.lean ====
section
/-! DEFINITION. Power states, boot and recovery mode (spec/17_boot_configuration.md R487 to R489, R492 to R494;
spec/18_module.md R503 to R508). -/

namespace Sys2Proof.Machine

/-! ### The block without power, and after a package reset (R357, R404, R452, R506) -/

/-- Flash as a loss of power or a package reset leaves it: its contents, with what counts from boot at 0. -/
def Flash.afterReset (f : Flash) : Flash :=
  { f with usedSlots := [], soft := 0, ue := 0, rewritten := 0, rewrites := [], updBuf := [], updTotal := 0, writing := none }

/-- Cables stay in their sockets. -/
def cablesOf (ports : Store Port) : Store Port := (ports.filter fun (e : Nat × Port) => e.2.cable).map fun (e : Nat × Port) => (e.1, { cable := true })

/-- What no reset of the block clears: flash, its cables, the packets that left it, and the sequences of draws. -/
def Chip.cleared (ch : Chip) : Chip :=
  { flash := ch.flash.afterReset, fabric := { ports := cablesOf ch.fabric.ports }, wire := ch.wire, free := ch.free, sec := { randoms := ch.sec.randoms } }

/-- After a package reset: boot goes on at step 2, the reset's own step runs, and the fabric epoch has counted it. -/
def Chip.packageCleared (ch : Chip) (k : Clock) (cause detail : Nat) : Chip :=
  let c := ch.cleared
  { c with fabric := { c.fabric with epoch := ch.fabric.epoch + 1 },
           boot := { phase := 1, startNs := k.localNs, fullNext := ch.boot.fullNext },
           rcv := { steps := [{ id := ch.rcv.nextStep, unit := .package, parts := [], cause := cause, detail := detail, startNs := k.localNs, pkg := true, works := [], next := [.package] }],
                    nextStep := ch.rcv.nextStep + 1, resetAt := some k.localNs } }

/-- A package reset: rows that wait for it are mapped and the repair record is written, every partition hears of it, then all but flash is
cleared (R180, R371, R452). -/
def Chip.packageReset (ch : Chip) (k : Clock) (cause detail : Nat) : Chip :=
  let ch := if ch.ready then
      let pend := ch.clusters.any fun e => e.2.rowsPending
      let ch := { ch with clusters := ch.clusters.map fun (e : Nat × Cluster) => (e.1, e.2.mapRows), boot := { ch.boot with repairDirty := ch.boot.repairDirty || pend } }
      ch.writeOwnRecords
    else ch
  (ch.raiseAll k 0xE031 .ok (toBe 0xFF 1 ++ toBe 5 1)).packageCleared k cause detail

/-- The timebase's synchronisation is lost with the ports. -/
def Clock.afterReset (k : Clock) : Clock := { k with synced := false, holdover := false, slew := 0 }

/-! ### Power states (R504 to R508, R511) -/

/-- 36 V to 60 V, in 10 mV. -/
def vinInRange (v : Nat) : Bool := decide (3600 ≤ v) && decide (v ≤ 6000)

/-- The rails are down in a state. -/
def ModulePins.downTo (m : ModulePins) (st : PowerState) : ModulePins := { m with st := st, rails := false, armed := false, railReadings := [] }

/-- Boot starts at step 1 once PWR_EN has risen, no hold runs and VIN is in range (R505, R506). -/
def ModulePins.starts (m : ModulePins) : Bool := m.vaux && m.pwrEn && m.armed && decide (m.st = .off) && m.offHoldEnd.isNone && vinInRange m.vinVolts

def tryStart (k : Clock) (m : ModulePins) (ch : Chip) : ModulePins × Chip :=
  if m.starts then ({ m with st := .sequencing, armed := false }, { ch.cleared with boot := { phase := 0, cold := true, startNs := k.localNs } }) else (m, ch)

/-! ### What boot finds (R486 to R489) -/

/-- Which copies are used, and the identity. -/
structure BootFind where
  sec : Security
  picks : List (Option Bool)
  bad : BitVec 16
  owner : Option (List Byte)
  deriving DecidableEq, Repr

def bootFind (f : Flash) (sec : Security) (pufOk : Bool) : BootFind :=
  let idOf (bs : List Byte) : List Byte := (sec.ofRoot (Config.pufSecret (recBody bs))).idPub
  let goodHelper : List Byte → Bool := fun bs => recGood 2 none (some (idOf bs)) bs
  let helper := f.pick 2 goodHelper
  let sec := match helper with | some b => if pufOk then sec.ofRoot (Config.pufSecret (recBody (f.copy 2 b))) else sec | none => sec
  let id := if sec.idOk then some sec.idPub else none
  let goodOwner : List Byte → Bool := recGood 3 none id
  let owner := (f.pick 3 goodOwner).map fun b => recBody (f.copy 3 b)
  let good (t : Nat) : List Byte → Bool := if t = 2 then goodHelper else if t = 3 then goodOwner else recGood t owner id
  { sec := sec, owner := owner, picks := (List.range 13).map fun t => f.pick t (good t),
    bad := (List.range 13).foldl (fun m t => if f.copyBad t (good t) then m ||| BitVec.twoPow 16 t else m) 0 }

def BootFind.pick (b : BootFind) (t : Nat) : Option Bool := b.picks.getD t none

/-- The record of a type in use; none reads as no bytes. -/
def BootFind.record (b : BootFind) (f : Flash) (t : Nat) : List Byte := match b.pick t with | some c => f.copy t c | none => []

/-- Why the device enters recovery mode: 3 no identity, 1 no firmware, 2 a type with no good copy, 0 not at all. -/
def BootFind.cause (b : BootFind) : Nat :=
  if !b.sec.idOk then 3 else if (b.pick 0).isNone then 1 else if b.picks.any Option.isNone then 2 else 0

/-- Partition 0 as it exists from boot (R346): its tenant is the owner, or in recovery mode without an owner record the ROM key. -/
def managementPartition (tenant : List Byte) : Partition :=
  { valid := true, tenant := tenant, measure := zeros 64, barriers := newBarriers 0, root := 16128 }

/-- The address of a host port that no certificate gives (R375). -/
def localMac (idPub : List Byte) (port : Nat) : List Byte := 2 :: (Config.sha512 (idPub ++ toLe port 1)).take 5

/-- What every boot that has an identity sets: keys and measurements, partition 0, the host ports. -/
def Chip.bootCommon (ch : Chip) (b : BootFind) : Chip :=
  let fw := b.record ch.flash 0
  let cert := recBody (b.record ch.flash 1)
  let hp := recBody (b.record ch.flash 8)
  let mac (n : Nat) : List Byte := if (b.pick 1).isSome then slice cert (cert.length - 12 + 6 * n) 6 else localMac b.sec.idPub n
  let hasHp := (b.pick 8).isSome
  let sec := { b.sec with fwVersion := leAt (recBody fw) 0 4, mFw := if (b.pick 0).isSome then Config.sha512 fw else zeros 64,
                          mCfg := cfgMeasure ((((List.range 13).drop 1).filter fun t => (b.pick t).isSome).map (b.record ch.flash)) }
  let host := { ch.host with mac0 := mac 0, mac1 := mac 1, addr0 := if hasHp then slice hp 0 16 else [], addr1 := if hasHp then slice hp 16 16 else [],
                             udpPort := if hasHp then leAt hp 32 2 else 47210, jumbo0 := hasHp && bitAt (leAt hp 34 1) 0, jumbo1 := hasHp && bitAt (leAt hp 34 1) 1 }
  { ch with sec := sec, host := host, parts := put {} ch.parts 0 (managementPartition (b.owner.getD Config.romKey)) }

/-- The boot registers of the copies found. -/
def Boot.found (x : Boot) (k : Clock) (b : BootFind) : Boot :=
  { x with fwCopy := decide (b.pick 0 = some true), fwABad := decide (b.pick 0 ≠ some false), recCause := b.cause, bad := b.bad,
           inB := (List.range 13).foldl (fun m t => if b.pick t = some true then m ||| BitVec.twoPow 16 t else m) 0, owner := b.owner,
           ms := (k.localNs - x.startNs) / 1000000, mgmtStarted := true }

/-- Whether a row, by bank × 512 + row, is mapped to a spare. -/
def EccRec.maps (e : EccRec) (key : Nat) : Bool := (List.range 8).any fun i => decide (look 0 e.spareRows (key / 512 * 8 + i) = key % 512 + 1)

/-- A cluster after boot's BIST, and whether the repair record changes: the record maps rows to spares, and so are the rows that BIST finds
defective (R179, R489). -/
def bootCluster (full : Bool) (r : BootResults) (rep : List Byte) (c : Nat) : Cluster × Bool :=
  let s := leAt rep c 1
  let tested := !bitAt s 7 && (full || !bitAt s 6)
  let old : EccRec := { spareRows := repairRows rep c }
  let rows := (if tested then (r.badRows.filter fun x => decide (x.1 = c)).map fun x => x.2.1 * 512 + x.2.2 else []).filter fun key => !old.maps key
  let ecc := rows.foldl (fun e key => e.mapRow key) old
  let bad := tested && (r.bistFail.contains c || rows.any fun key => !ecc.maps key)
  let count := if bad then bitsAt s 0 2 + 1 else bitsAt s 0 2
  let failed := if tested then bad else bitAt s 6
  let out := r.ucieFail.contains (dieOf c) || r.regionFail.contains (regionOf c)
  ({ svc := if tested && !bad && !out then .clean else .outOfService, bistPass := tested && !bad, failed := failed, retired := bitAt s 7 || (bad && decide (3 ≤ count)),
     failCount := count, ecc := ecc }, bad || !rows.isEmpty || decide (failed ≠ bitAt s 6))

/-- A stack after boot: its intervals and delays from their records, out of service when its pattern check or its die failed (R250, R253,
R254). -/
def bootStack (k : Clock) (r : BootResults) (delay refresh : List Byte) (s : Nat) : Stack :=
  ({ failed := patternBad r.patterns s || r.ucieFail.contains s, interval := leAt refresh (2 * s) 2, patrolFrom := k.localNs, calAt := k.localNs } : Stack).loadDelays delay s

/-- The fabric as its record lays it out (R402). -/
def bootFabric (f : Fabric) (b : List Byte) : Fabric :=
  let bond (i : Nat) : Option Nat := if leAt b (6 + i) 1 = 0xFF then none else some (leAt b (6 + i) 1)
  let en := BitVec.ofNat 8 (leAt b 8 1)
  { f with xs := leAt b 0 1, ys := leAt b 1 1, zs := leAt b 2 1, selfId := leAt b 3 1 + 8 * leAt b 4 1 + 64 * leAt b 5 1, bond6 := bond 0, bond7 := bond 1, enabled := en,
           ports := f.ports.foldl (fun m e => put {} m e.1 (if en.getLsbD e.1 && usesPort (fun d => leAt b d 1) bond e.1 && e.2.cable then { e.2 with st := .training } else e.2)) [] }

/-- Steps 4 to 9 of a boot that found everything. -/
def Chip.bootFull (ch : Chip) (k : Clock) (r : BootResults) (b : BootFind) (full : Bool) : Chip :=
  let body (t : Nat) : List Byte := recBody (b.record ch.flash t)
  let cs := (List.range 80).map fun c => bootCluster full r (body 11) c
  let layout := (List.range 16).map fun i => leAt (body 10) i 1
  let cap := leAt (body 6) 0 2
  { ch with
    clusters := (cs.zipIdx).foldl (fun m x => put {} m x.2 x.1.1) []
    regions := (List.range 16).foldl (fun m g => put {} m g { block := ((List.range 16).find? fun i => layout.getD i 16 = g).getD 0 }) []
    dies := (List.range 4).foldl (fun m d => put {} m d { out := r.ucieFail.contains d }) []
    hbms := (List.range 4).foldl (fun m s => put {} m s (bootStack k r (body 4) (body 5) s)) []
    frames := ((retiredFrames (body 12) 0 4).getD []).foldl (fun m f => put {} m f { use := .retired }) []
    flash := { ch.flash with threshold := leAt (body 7) 0 2, failedCh := ~~~BitVec.ofNat 32 (leAt (body 7) 4 4) }
    fabric := bootFabric ch.fabric (body 9)
    power := { ch.power with cap := cap, capNext := cap, capDefault := cap }
    boot := { ch.boot with phase := 5, fullNext := ch.boot.fullNext && !full, layout := layout, repairDirty := cs.any (·.2), bistDone := true, hbmDone := true } }

/-! ### BOOT_SEQUENCE (R487, R492, R493) -/

/-- The trip that the power controller still keeps is reported (R445), with its sensor and reading. -/
def Chip.reportTrip (ch : Chip) (k : Clock) (m : ModulePins) : Chip :=
  if m.trip && !m.tripReported && ch.sec.idOk then ch.notice k 6 (int8 m.tripTemp * 256 + m.tripSensor) else ch

/-- Steps 2 to 9. -/
def Chip.bootRest (ch : Chip) (k : Clock) (m : ModulePins) (r : BootResults) : Chip :=
  let b := bootFind ch.flash ch.sec r.pufOk
  let full := ch.boot.cold || ch.boot.fullNext
  let ch := { ch with boot := ch.boot.found k b, rcv := { ch.rcv with resetAt := none } }
  let ch := if b.sec.idOk then ch.bootCommon b else { ch with sec := b.sec }
  let ch := if b.cause = 0 then ch.bootFull k r b full else { ch with boot := { ch.boot with phase := 7 } }
  (ch.send (.uart (ch.boot.phase * 16 + b.cause))).reportTrip k m

/-- BOOT_SEQUENCE: from step 1 after a rise of PWR_EN, from step 2 after a package reset; RESET_N low holds it at step 2. -/
def bootSequence (r : BootResults) (k : Clock) (m : ModulePins) (ch : Chip) : ModulePins × Chip :=
  if m.st = .sequencing && !r.railsOk then ({ m.downTo .faultOff with railFail := true }, ch.cleared)
  else if m.st = .sequencing || (m.st = .on && ch.boot.phase = 1) then
    let m := { m with st := .on, rails := true }
    if !m.resetN then (m, { ch with boot := { ch.boot with phase := 1 } })
    else
      let c := ch.bootRest k m r
      ({ m with tripReported := m.tripReported || c.sec.idOk }, c)
  else (m, ch)

def execBootSequence (r : BootResults) (s : State) : Res := onModule s (bootSequence r)

/-! ### BOOT_READY (R488) -/

/-- The slots of a region in service, ascending. -/
def Chip.inService (ch : Chip) (r : Nat) : List Nat := ((List.range 5).map (r * 5 + ·)).filter fun c => decide ((ch.cl c).svc = .clean)

/-- The repair map of a region: its block's lcids to the four lowest slots in service, a fifth is its reserve. -/
def Chip.mapRegion (ch : Chip) (r : Nat) : Chip :=
  let cs := ch.inService r
  let b := (ch.rg r).block
  let ch := ((cs.take 4).zipIdx).foldl (fun c x => { c.modCl x.1 (fun y => { y with lcid := some (4 * b + x.2) }) with lcidMap := put none c.lcidMap (4 * b + x.2) (some x.1) }) ch
  ch.modRg r fun g => { g with reserve := cs[4]? }

/-- READY, once BIST and the stacks are done and a host port is up. -/
def Chip.becomeReady (ch : Chip) (k : Clock) : Chip :=
  let ch := (List.range 16).foldl (fun c r => c.mapRegion r) ch
  { ch with boot := { ch.boot with phase := 6, ms := (k.localNs - ch.boot.startNs) / 1000000 },
            power := { ch.power with lastBoundary := k.timebase / 1000000, lastBoundaryLocal := k.localNs } }

def execBootReady (s : State) : Res :=
  onModule s fun k m ch =>
    if m.st = .on && ch.boot.phase = 5 && ch.boot.bistDone && ch.boot.hbmDone && (ch.host.link0 || ch.host.link1) then (m, ch.becomeReady k) else (m, ch)

end Sys2Proof.Machine
end

