-- ==== Sys2Proof/Machine/Ckpt.lean ====
section
/-! DEFINITION. Checkpoints in flash (spec/16_faults_recovery.md R480; spec/08_dram_flash.md R263 to R265; spec/15_power_clocks_thermal.md
R435). -/

namespace Sys2Proof.Machine

/-- The payload both commands share. -/
structure CkptReq where
  id : Nat
  dva : Nat
  len : Nat
  deriving DecidableEq, Repr

def ckptReq (b : List Byte) : CkptReq := { id := beAt b 0 4, dva := beAt b 8 8, len := beAt b 16 8 }

/-- Whether a page of a checkpoint's range lacks the right asked for, or the range leaves the address space. -/
def CkptReq.denied (c : CkptReq) (x : Partition) (write : Bool) : Bool :=
  let inRange : Nat → Bool := fun g => decide (c.dva / 65536 ≤ g) && decide (g < c.dva / 65536 + c.len / 65536)
  decide (c.len ≤ 2 ^ 40) &&
  decide ((keysWhere (fun g e => inRange g && e.v && (if write then e.wr && !e.wt else e.rd)) x.pages).length ≠ c.len / 65536)

/-- Field checks of both. -/
def CkptReq.form (c : CkptReq) (q : Req) : List (Bool × Refuse) :=
  [ reserved q 4 4, (decide (c.dva % 65536 ≠ 0), (.badField, some 8)), (decide (c.len % 65536 ≠ 0), (.badField, some 16)), (decide (2 ^ 40 < c.len), (.lengthRange, some 16)) ]

def Flash.ckpt? (f : Flash) (p id : Nat) : Option FlashCkpt := f.ckpts.find? fun x => decide (x.part = p) && decide (x.id = id)

/-- CKPT_WRITE. -/
def execCkptWrite (q : Req) (s : State) : Res :=
  onChip s (runCmd 0x0902 q fun k ch =>
    let c := ckptReq q.payload
    checked ((c.denied (ch.pt q.part) false, (.notPermitted, some 8)) :: c.form q ++
      [ ((ch.pt q.part).ckptKey.isNone || ch.power.flashHold, (.notReady, none)), (decide (100 ≤ ch.flash.wear), (.noResource, none)), ch.worksFull q ])
      (ch.acceptReply k q 0x0902 (.ckptWrite c.id c.dva c.len) []))

/-- CKPT_READ. -/
def execCkptRead (q : Req) (s : State) : Res :=
  onChip s (runCmd 0x0903 q fun k ch =>
    let c := ckptReq q.payload
    checked ((c.denied (ch.pt q.part) true, (.notPermitted, some 8)) :: ((ch.flash.ckpt? q.part c.id).isNone, (.badField, some 0)) :: c.form q ++
      [ ((ch.pt q.part).ckptKey.isNone, (.notReady, none)), ch.worksFull q ])
      (ch.acceptReply k q 0x0903 (.ckptRead c.id c.dva c.len) []))

/-- The nonce and the additional data under which a checkpoint is sealed: the model's. -/
def ckptAad (p id : Nat) : List Byte := toLe p 1 ++ toLe id 4

/-- A range written to flash under the checkpoint key, with a nonce drawn at random beside it; worn flash takes none (R265). -/
def Chip.ckptWritten (ch : Chip) (k : Clock) (w : Work) (id dva len : Nat) : Chip :=
  match (ch.pt w.part).ckptKey with
  | none => ch.complete k w 0xE001 .authFailed []
  | some key =>
    if 100 ≤ ch.flash.wear then ch.complete k w 0xE001 .noResource [] else
    let lost := (ch.firstLost w.part dva len false).isSome
    match ch.readServed w.part dva len, lost with
    | .ok plain, false =>
      let nonce := Config.random ch.sec.randoms 12
      let x : FlashCkpt := { part := w.part, id := id, len := len, sealed := nonce ++ Config.gcmSeal key nonce (ckptAad w.part id) plain, good := true }
      let others := ch.flash.ckpts.filter fun (y : FlashCkpt) => !(decide (y.part = w.part) && decide (y.id = id))
      let ch := (ch.touchDva k w.part dva len).flashWrote k (ceilDiv len 4096)
      let ch := { ch with sec := { ch.sec with randoms := ch.sec.randoms + 1 }, flash := { ch.flash with ckpts := others ++ [x] } }
      ch.complete k w 0xE001 .ok []
    | _, _ => (ch.touchDva k w.part dva len).complete k w 0xE001 .dataLost []

/-- n free bytes: what a range holds when the spec leaves it unspecified. -/
def Chip.freeBytes (ch : Chip) : Nat → List Byte × Chip
  | 0 => ([], ch)
  | n + 1 => let f := ch.fresh; let r := f.2.freeBytes n; (f.1.setWidth 8 :: r.1, r.2)

/-- A checkpoint written back to memory; with a failed tag or an uncorrectable sector the range is left unspecified. -/
def Chip.ckptReadBack (ch : Chip) (k : Clock) (w : Work) (id dva len : Nat) : Chip :=
  let plain : Option (List Byte) :=
    match ch.flash.ckpt? w.part id, (ch.pt w.part).ckptKey with
    | some x, some key => if x.good && decide (x.len = len) then Config.gcmOpen key (x.sealed.take 12) (ckptAad w.part id) (x.sealed.drop 12) else none
    | _, _ => none
  match plain with
  | some bytes => (ch.writeDva k w.part dva (bytes.take len)).complete k w 0xE001 .ok []
  | none => let r := ch.freeBytes len; (r.2.writeDva k w.part dva r.1).complete k w 0xE001 .authFailed []

/-- CKPT_TRANSFER_COMPLETE. -/
def execCkptTransferComplete (id : Nat) (s : State) : Res :=
  onChip s fun k ch =>
    match ch.work? id with
    | none => ch
    | some w =>
      let at_ := (w.kind.readRanges ++ w.kind.writeRanges).headD (0, 0)
      if ch.workEarlier w || !ch.rangeServes w.part at_.1 at_.2 then ch
      else match w.kind with
      | .ckptWrite i dva len => ch.ckptWritten k w i dva len
      | .ckptRead i dva len => ch.ckptReadBack k w i dva len
      | _ => ch

end Sys2Proof.Machine
end

