-- ==== Sys2Proof/Machine/ModulePins.lean ====
section
/-! DEFINITION. The module's pins, its 48 V input, thermal trip, the sideband and the debug connector (spec/18_module.md R499 to R511;
spec/15_power_clocks_thermal.md R445; spec/12_partitions_security.md R368). -/

namespace Sys2Proof.Machine

/-- The outcome of a row that may touch the clocks, the pins and the block. -/
def onAll (s : State) (f : Clock → ModulePins → Chip → Clock × ModulePins × Chip) : Res :=
  let r := f s.clk s.mod s.chip
  .next { s with clk := r.1, mod := r.2.1, chip := r.2.2 }

/-- Whether the rails are up or coming up. -/
def ModulePins.powered (m : ModulePins) : Bool := decide (m.st = .on) || decide (m.st = .sequencing)

/-! ### PWR_EN (R505, R506, R508) -/

/-- PWR_EN_RISE: a rise during trip-hold, or without VAUX, starts nothing; a line that is high cannot rise. -/
def execPwrEnRise (s : State) : Res :=
  onModule s fun k m ch => if m.pwrEn then (m, ch) else tryStart k { m with pwrEn := true, armed := m.vaux && decide (m.st ≠ .tripHold) && !m.powered } ch

/-- PWR_EN_FALL: the rails drop, THERMTRIP_N rises and the hold of 500 ms begins; a line that is low cannot fall. -/
def execPwrEnFall (s : State) : Res :=
  onModule s fun k m ch =>
    if !m.pwrEn then (m, ch)
    else
    let m' := { m.downTo (if m.st = .tripHold then .tripHold else .off) with pwrEn := false, thermtripN := true, offHoldEnd := some (k.localNs + 500000000) }
    (m', if m.powered then ch.cleared else ch)

/-- POWER_OFF_HOLD_END: a PWR_EN that is high starts boot. -/
def execPowerOffHoldEnd (s : State) : Res :=
  onModule s fun k m ch =>
    match m.offHoldEnd with
    | some t => if t ≤ k.localNs then tryStart k { m with offHoldEnd := none } ch else (m, ch)
    | none => (m, ch)

/-! ### VIN and VAUX (R503 to R505) -/

/-- VIN_ENTERS_RANGE. -/
def execVinEntersRange (volts : Nat) (s : State) : Res :=
  onModule s fun k m ch => if vinInRange volts then tryStart k { m with vinVolts := volts } ch else (m, ch)

/-- VIN_LOCKOUT: below 33.0 V for more than 100 µs, or above 62.0 V for more than 1 ms, in 10 mV; a shorter excursion has no effect. -/
def execVinLockout (volts lastedNs : Nat) (s : State) : Res :=
  onModule s fun _ m ch =>
    let under := decide (volts < 3300) && decide (100000 < lastedNs)
    let above := decide (6200 < volts) && decide (1000000 < lastedNs)
    if m.powered && (under || above) then
      ({ m.downTo .faultOff with uvlo := m.uvlo || under, ovlo := m.ovlo || above, vinVolts := volts }, ch.cleared)
    else ({ m with vinVolts := volts }, ch)

/-- VAUX_CHANGE: without VAUX the power controller holds nothing, neither the trip record nor the count of trips; the rails stay as they
are. -/
def ModulePins.noAux (m : ModulePins) : ModulePins :=
  { vaux := false, pwrEn := m.pwrEn, resetN := m.resetN, sbAddr := m.sbAddr, st := if m.powered then m.st else .off, rails := m.rails, railReadings := m.railReadings }

def execVauxChange (applied : Bool) (s : State) : Res :=
  onModule s fun _ m ch => (if applied then { m with vaux := true } else m.noAux, ch)

/-! ### Thermal trip (R445, R508) -/

/-- The die a sensor is on; 0xFF for the H-die. -/
def sensorDie (n : Nat) : Nat := if n < 32 then n / 8 else if n < 36 then n - 32 else 0xFF

/-- The event of a trip: sent once, with no retry. -/
def Chip.announceTrip (ch : Chip) (k : Clock) (sensor : Nat) : Chip :=
  (List.range 8).foldl (fun c p => (c.openSessions p).foldl (fun c i => c.sendEvent i
    { code := 0xE031, status := Status.ok.code, part := p, ctx := 0, origSeq := 0, origOp := 0, payload := toBe (sensorDie sensor) 1 ++ toBe 6 1, stamp := k.timebase }) c) ch

/-- THERMAL_TRIP: at 115 °C or more, whatever firmware does. -/
def execThermalTrip (sensor : Nat) (temp : Int) (s : State) : Res :=
  onModule s fun k m ch =>
    if m.powered && decide (sensor < 40) && decide (115 ≤ temp) then
      ({ m.downTo .tripHold with thermtripN := false, trip := true, tripHoldEnd := some (k.localNs + 10000000000), tripTemp := temp, tripSensor := sensor,
                                 tripCount := satTo 0xFFFF (m.tripCount + 1), tripReported := false },
       (ch.announceTrip k sensor).cleared)
    else (m, ch)

/-- TRIP_HOLD_END: off; a PWR_EN that is high starts nothing. -/
def execTripHoldEnd (s : State) : Res :=
  onModule s fun k m ch =>
    match m.tripHoldEnd with
    | some t => if t ≤ k.localNs then ({ m with st := if m.st = .tripHold then .off else m.st, tripHoldEnd := none }, ch) else (m, ch)
    | none => (m, ch)

/-! ### RESET_N (R507) -/

/-- RESET_N_ASSERT: low for at least 10 µs with the rails up it resets the package. -/
def execResetNAssert (lowNs : Nat) (s : State) : Res :=
  onAll s fun k m ch =>
    if lowNs < 10000 then (k, m, ch)
    else if m.pwrEn && decide (m.st = .on) then (k.afterReset, { m with resetN := false }, ch.packageReset k 0 0)
    else (k, { m with resetN := false }, ch)

/-- RESET_N_RELEASE: a boot held at step 2 may go on. -/
def execResetNRelease (s : State) : Res := onModule s fun _ m ch => ({ m with resetN := true }, ch)

/-! ### The sideband (R510, R511) -/

/-- ALERT_N is low. -/
def ModulePins.alert (m : ModulePins) : Bool := m.pcReq || m.trip || m.uvlo || m.ovlo || m.railFail

/-- SMBUS_WRITE: with a right PEC, a 1 clears its bit of PWR_SB_STATUS; the other registers are read-only. -/
def execSmbusWrite (code : Byte) (value : Word) (pecOk : Bool) (s : State) : Res :=
  onModule s fun _ m ch =>
    if m.vaux && pecOk && decide (code = 0) then
      ({ m with pcReq := m.pcReq && !value.getLsbD 28, trip := m.trip && !value.getLsbD 27, uvlo := m.uvlo && !value.getLsbD 26, ovlo := m.ovlo && !value.getLsbD 25,
                railFail := m.railFail && !value.getLsbD 24 }, ch)
    else (m, ch)

/-- SMBUS_ALERT_RESPONSE: while ALERT_N is low the module answers with its own address. -/
def execSmbusAlertResponse (s : State) : Res :=
  onModule s fun _ m ch => (m, if m.vaux && m.alert then ch.send (.alertAddress (0x28 + m.sbAddr.toNat)) else ch)

/-! ### The debug connector (R368, R502) -/

/-- Bits the scan path gives that the spec states no value of. -/
def Chip.scanBits (ch : Chip) : Nat → List Bool × Chip
  | 0 => ([], ch)
  | n + 1 => let f := ch.fresh; let r := f.2.scanBits n; (f.1.getLsbD 0 :: r.1, r.2)

/-- DEBUG_SCAN_ACCESS: while the port is closed only boundary scan is served. -/
def execDebugScanAccess (boundary : Bool) (tdi : List Bool) (s : State) : Res :=
  onModule s fun _ m ch =>
    if m.powered && (boundary || ch.sec.dbgOpen) then let r := ch.scanBits tdi.length; (m, r.2.send (.scanOut r.1)) else (m, ch)

end Sys2Proof.Machine
end

