-- ==== Sys2Proof/Machine/KvCmds.lean ====
section
/-! DEFINITION. The KV commands (spec/11_attention_kv.md R338 to R341; spec/13_host_protocol.md R388, R397). -/

namespace Sys2Proof.Machine

/-! ### Checks (R338, R340) -/

/-- Whether a decay lies from 0 to 1. -/
def decayBad (w : Word) : Bool := isNaN32 w || decide (f32Key w < -1) || decide (0x3F800000 < f32Key w)

/-- Whether a rotary base is not above 1. -/
def baseBad (w : Word) : Bool := isNaN32 w || decide (f32Key w ≤ 0x3F800000)

/-- A field of a descriptor out of its range. -/
def KvSeq.fieldsBad (x : KvSeq) : Bool :=
  decide (x.dim = 3) || decide (x.fmt = 3) || decide (x.pe = 3) || decide (x.kvBase % 65536 ≠ 0) ||
  (if x.pe = 1 then decide (x.ropeDims % 2 ≠ 0) || decide (x.ropeDims < 2) || decide (x.hd < x.ropeDims) || baseBad x.ropeBase
   else decide (x.ropeDims ≠ 0) || decide (x.ropeBase ≠ 0)) ||
  decayBad x.decay || decide (x.engines = 0) || decide (x.blockMax ≤ x.anchors + x.recent) || decide (x.budget % 16 ≠ 0) || decide (x.budget < 16) ||
  decide (x.recent = 0) || decide (x.layers = 0) || decide (x.heads = 0) || decide (x.g = 0)

/-- The sequences a partition holds. -/
def Chip.seqsOf (ch : Chip) (p : Nat) : List (Nat × KvSeq) := ch.seqs.filter fun e => e.2.valid && decide (e.2.part = p)

/-- The lowest free id among a partition's. -/
def Chip.freeSeq (ch : Chip) (p : Nat) : Option Nat :=
  ((List.range (ch.pt p).seqCount).map ((ch.pt p).seqBase + ·)).find? fun i => !(ch.sq i).valid

/-- What refuses a new sequence, in the order of R340. -/
def newSeqChecks (q : Req) (ch : Chip) (x : KvSeq) (rsv : Bool) (base : Nat) : List (Bool × Refuse) :=
  let p := ch.pt q.part
  [ (x.engineList.any fun e => !p.ownsEng e, (.notPermitted, some 52)),
    (p.rangeBad x.kvBase x.kvLen false || p.rangeBad x.kvBase x.kvLen true, (.notPermitted, some base)),
    (rsv || x.fieldsBad, (.badField, none)),
    ((ch.seqsOf q.part).any fun e => overlaps x.kvBase x.kvLen e.2.kvBase e.2.kvLen, (.badField, some base)),
    (decide (128 < x.layers), (.lengthRange, some 16)), (decide (64 < x.heads), (.lengthRange, some 17)), (decide (16 < x.g), (.lengthRange, some 18)),
    (decide (262144 < x.budget), (.lengthRange, some 20)), (decide (262144 < x.window), (.lengthRange, some 28)), (decide (x.kvLen < x.size), (.lengthRange, some (base + 8))),
    ((ch.freeSeq q.part).isNone, (.noResource, none)), ch.worksFull q ]

/-- A new sequence under its id, its lists empty. -/
def Chip.newSeq (ch : Chip) (q : Req) (i : Nat) (x : KvSeq) : Chip :=
  ch.modSq i fun _ => { x with valid := true, part := q.part, ctx := q.ctx, lists := tabOf {} (List.range x.count) fun _ => emptyList }

/-- KV_CREATE (R340): the sequence has its id from acceptance on. -/
def execKvCreate (q : Req) (s : State) : Res :=
  onChip s (runCmd 0x0601 q fun k ch =>
    let b := q.payload
    let x := kvDescriptor b
    match firstFail (newSeqChecks q ch x (decide (leAt b 6 2 ≠ 0) || decide (slice b 54 10 ≠ zeros 10)) 0), ch.freeSeq q.part with
    | some r, _ => .error r
    | none, none => .error (.noResource, none)
    | none, some i => .ok ((ch.newSeq q i x).acceptReply k q 0x0601 (.kvCreate i) []))

/-- The sequence a command names, held by its partition. -/
def seqOf (q : Req) (ch : Chip) (i : Nat) : Bool × Refuse := (!(ch.sq i).valid || decide ((ch.sq i).part ≠ q.part), (.notPermitted, some 0))

/-- KV_COPY: the source's descriptor at a new range. -/
def execKvCopy (q : Req) (s : State) : Res :=
  onChip s (runCmd 0x0604 q fun k ch =>
    let b := q.payload
    let src := beAt b 0 2
    let x := { ch.sq src with kvBase := beAt b 8 8, kvLen := beAt b 16 8 }
    match firstFail (seqOf q ch src :: newSeqChecks q ch x (decide (slice b 2 6 ≠ zeros 6)) 8), ch.freeSeq q.part with
    | some r, _ => .error r
    | none, none => .error (.noResource, none)
    | none, some i => .ok ((ch.newSeq q i x).acceptReply k q 0x0604 (.kvCopy src i) []))

/-- KV_DESTROY. -/
def execKvDestroy (q : Req) (s : State) : Res :=
  onChip s (runCmd 0x0602 q fun k ch =>
    let i := beAt q.payload 0 2
    checked [ seqOf q ch i, reserved q 2 2, ch.worksFull q ] (ch.acceptReply k q 0x0602 (.kvDestroy i) []))

/-- KV_TRUNCATE. -/
def execKvTruncate (q : Req) (s : State) : Res :=
  onChip s (runCmd 0x0603 q fun k ch =>
    let i := beAt q.payload 0 2
    checked [ seqOf q ch i, reserved q 2 2, ch.worksFull q ] (ch.acceptReply k q 0x0603 (.kvTruncate i (beAt q.payload 4 4)) []))

/-- KV_SET (R338, R340). -/
def execKvSet (q : Req) (s : State) : Res :=
  onChip s (runCmd 0x0605 q fun k ch =>
    let b := q.payload
    let i := beAt b 0 2
    let x := ch.sq i
    let n := beAt b 2 1
    let w := beAt b 3 1
    let budget := beAt b 4 4
    let window := beAt b 8 4
    let decay := BitVec.ofNat 32 (beAt b 12 4)
    checked
      [ seqOf q ch i, (decide (budget % 16 ≠ 0) || decide (budget < 16) || decide (x.budget0 < budget) || decide (x.ns < budget / 16 + w), (.badField, some 4)),
        (decide (w = 0) || decide (budget / 16 ≤ n + w), (.badField, some 2)), (decayBad decay, (.badField, some 12)), (decide (262144 < window), (.lengthRange, some 8)), ch.worksFull q ]
      (ch.acceptReply k q 0x0605 (.kvSet i n w budget window decay) []))

/-- KV_QUERY: the committed record, at once (R339, R341). -/
def execKvQuery (q : Req) (s : State) : Res :=
  onChip s (runCmd 0x0606 q fun _ ch =>
    let i := beAt q.payload 0 2
    let x := ch.sq i
    let l := x.list (beAt q.payload 2 1 * x.heads + beAt q.payload 3 1)
    checked [ seqOf q ch i, (decide (x.layers ≤ beAt q.payload 2 1), (.badField, some 2)), (decide (x.heads ≤ beAt q.payload 3 1), (.badField, some 3)) ]
      (ch.reply q .ok (toBe l.blocks.length 2 ++ zeros 2 ++ toBe l.last 4 ++ toBe l.gen 4 ++ toBe l.run 4 ++ toBe l.task 4)))

/-! ### Carrying out (R341) -/

/-- Whether a task that names a sequence has passed its wait without completing. -/
def Chip.taskInFlight (ch : Chip) (seq : Nat) : Bool :=
  ch.regions.any fun r =>
    let g := r.2.eng
    g.waitDone && decide (g.st = .running) &&
      (match g.work, g.part with
       | some w, _ => decide (w.task.seq = seq)
       | none, some p => decide ((attnTask (ch.readDva p (g.dva + 64 * g.index) 64)).seq = seq)
       | none, none => false)

/-- Whether an earlier KV command is of the same context, or names a sequence that this one names (R37, R341). -/
def Chip.kvEarlier (ch : Chip) (w : Work) : Bool :=
  ch.works.any fun (v : Work) => decide (v.id < w.id) &&
    ((!v.kind.kvSeqs.isEmpty && decide (v.part = w.part) && decide (v.ctx = w.ctx)) || v.kind.kvSeqs.any fun s => w.kind.kvSeqs.contains s)

/-- Whether the memory of the sequences a command names is served (R255, R257). -/
def Chip.kvServes (ch : Chip) (w : Work) : Bool := w.kind.kvSeqs.all fun s => ch.rangeServes w.part (ch.sq s).kvBase (ch.sq s).size

/-- What the reads of KV_COPY do beside delivering: errors are counted, frames marked (R246, R247). -/
def Chip.copyTouch (ch : Chip) (k : Clock) (src : Nat) : Chip :=
  let x := ch.sq src
  (List.range x.count).foldl (fun c i =>
    let l := x.list i
    l.blocks.foldl (fun c b => c.touchDva k x.part (x.slotDva i b.slot) x.slotBytes) (c.touchDva k x.part (x.tableDva i (optBool l.active)) l.bytes.length)) ch

/-- A list cut at a position (R339). -/
def KvList.truncate (l : KvList) (pos : Nat) : KvList :=
  let bs := (l.blocks.filter fun b => decide (b.pos < pos)).map fun b => { b with count := min b.count (pos - b.pos) }
  { l with blocks := bs, last := match bs.getLast? with | some b => b.pos + b.count - 1 | none => 0xFFFFFFFF }

/-- KV_TRUNCATE carried out on every list; at position 0 a broken list is whole again (R343). -/
def Chip.truncateSeq (ch : Chip) (k : Clock) (seq pos : Nat) : Chip :=
  (List.range (ch.sq seq).count).foldl (fun c i =>
    let l := (c.sq seq).list i
    let t := l.truncate pos
    if (l.broken && decide (pos ≠ 0)) || (t = l && !l.broken) then c else c.commitList k seq i t) ch

/-- KV_SET carried out: a lower budget evicts at once, counted to each list's engine (R339, R345). -/
def Chip.setSeq (ch : Chip) (k : Clock) (seq n w budget window : Nat) (decay : Word) : Chip :=
  let ch := ch.modSq seq fun x => { x with anchors := n, recent := w, budget := budget, window := window, decay := decay }
  (List.range (ch.sq seq).count).foldl (fun c i =>
    let x := c.sq seq
    let l := x.list i
    let bs := x.evict x.blockMax l.blocks.length l.blocks
    if l.broken || decide (bs.length = l.blocks.length) then c
    else
      let c := c.commitList k seq i { l with blocks := bs }
      match x.engineOf i with
      | some e => c.modEng e fun y => { y with evict := satTo 0xFFFFFFFF (y.evict + (l.blocks.length - bs.length)) }
      | none => c) ch

/-- One list copied: its active table and its live slots under the same numbers; none when a read does not reach its data (R339). -/
def Chip.copyList (ch : Chip) (k : Clock) (src dst i : Nat) : Except Nat Chip :=
  let x := ch.sq src
  let y := ch.sq dst
  let l := x.list i
  let c := optBool l.active
  match ch.attnDva x.part (x.tableDva i c) l.bytes.length, l.blocks.mapM fun b => (ch.attnDva x.part (x.slotDva i b.slot) x.slotBytes).map fun d => (b.slot, d) with
  | .error e, _ => .error e
  | _, .error e => .error e
  | .ok t, .ok ds =>
    if (ch.rangeFault y.part (y.tableDva i c) t.length true).isSome || ds.any fun d => (ch.rangeFault y.part (y.slotDva i d.1) y.slotBytes true).isSome then .error 1
    else
      let ch := ds.foldl (fun h d => h.writeDva k y.part (y.slotDva i d.1) d.2) (ch.writeDva k y.part (y.tableDva i c) t)
      .ok (ch.modSq dst fun z => { z with lists := put {} z.lists i l })

/-- A KV command carried out: its completion status (R341). -/
def Chip.kvDo (ch : Chip) (k : Clock) : WorkKind → Chip × Status
  | .kvCreate i =>
    let x := ch.sq i
    ((List.range x.count).foldl (fun c j => c.writeDva k x.part (x.tableDva j 0) (x.list j).bytes) ch, .ok)
  | .kvDestroy i => ({ ch with seqs := put {} ch.seqs i {} }, .ok)
  | .kvTruncate i pos => (ch.truncateSeq k i pos, .ok)
  | .kvCopy src dst =>
    match (List.range (ch.sq src).count).foldlM (fun c i => c.copyList k src dst i) ch with
    | .ok c => (c.copyTouch k src, .ok)
    | .error e => ({ ch.copyTouch k src with seqs := put {} (ch.copyTouch k src).seqs dst {} }, if e = 2 then .dataLost else .notPermitted)
  | .kvSet i n w budget window decay => (ch.setSeq k i n w budget window decay, .ok)
  | _ => (ch, .ok)

/-- The sequence a kv_done names: the new one of KV_CREATE and KV_COPY (R397). -/
def WorkKind.kvId : WorkKind → Nat
  | .kvCopy _ d => d
  | w => w.kvSeqs.headD 0

/-- KV_COMMAND_CARRY_OUT. -/
def Chip.kvCarry (ch : Chip) (k : Clock) (id : Nat) : Chip :=
  match ch.work? id with
  | none => ch
  | some w =>
    if w.kind.kvSeqs.isEmpty || ch.kvEarlier w || !ch.kvServes w || w.kind.kvSeqs.any ch.taskInFlight then ch
    else
      let gone := w.kind.kvSeqs.any fun i => !(ch.sq i).valid
      let r := if gone then ((match w.kind with | .kvCopy _ d => { ch with seqs := put {} ch.seqs d {} } | _ => ch), Status.notPermitted) else ch.kvDo k w.kind
      r.1.complete k w 0xE004 r.2 (toBe w.kind.kvId 2)

def execKvCarryOut (id : Nat) (s : State) : Res := onChip s fun k ch => ch.kvCarry k id

end Sys2Proof.Machine
end

