-- ==== Sys2Proof/Machine/Waits.lean ====
section
/-! DEFINITION. The wait table: who waits on what, who produces it, and who is live (spec/16_faults_recovery.md R468, R469). -/

namespace Sys2Proof.Machine

/-! ### Who waits (R468) -/

/-- Whether an engine has a run in progress. -/
def Engine.busy (g : Engine) : Bool := decide (g.st = .running) || decide (g.st = .holding)

/-- The task an engine stands at, as its queue holds it. -/
def Chip.headTask (ch : Chip) (e : Nat) : AttnTask :=
  let g := (ch.rg e).eng
  attnTask (ch.readDva (g.part.getD 0) (g.dva + 64 * g.index) 64)

/-- What a waiting slot waits on; none when its wait is satisfied. -/
def Chip.slotWait (ch : Chip) (c n : Nat) : Option WaitObj :=
  let s := (ch.cl c).slot n
  match s.standing with
  | none => none
  | some w =>
    if ch.waitMet c s w.on then none
    else match w.on with
      | .sem j _ => some (.sem (regionOf c) j)
      | .bar b g => some (.bar s.part b g)
      | .half st _ => some (.half (regionOf c) st)

/-- What an engine's task waits on. -/
def Chip.taskWait (ch : Chip) (e : Nat) : Option WaitObj :=
  let g := (ch.rg e).eng
  if g.st ≠ .running || g.work.isSome || g.waitDone || g.count ≤ g.index then none
  else
    let t := ch.headTask e
    if look 0 (ch.rg e).sems t.wsem < t.wn then some (.sem e t.wsem) else none

/-- A stream that holds no half with bytes to move waits on its cluster's RELHALF. -/
def Chip.streamWait (ch : Chip) (r st : Nat) : Option WaitObj :=
  let x := ch.str r st
  match x.active with
  | none => none
  | some d =>
    if x.st ≠ .active || d.dir = 2 || (x.h0.eng && x.h0.desc.isSome) || (x.h1.eng && x.h1.desc.isSome) then none else some (.rel r st)

/-- Every waiting party with its object. -/
def Chip.waits (ch : Chip) : List (Party × WaitObj) :=
  (ch.clusters.flatMap fun e => (List.range 4).filterMap fun n => (ch.slotWait e.1 n).map fun o => (.slot e.1 n, o)) ++
  ((List.range 16).filterMap fun e => (ch.taskWait e).map fun o => (.task e, o)) ++
  (ch.regions.flatMap fun g => g.2.streams.filterMap fun e => (ch.streamWait g.1 e.1).map fun o => (.stream g.1 e.1, o)) ++
  (ch.works.filterMap fun (w : Work) => (w.kind.kvSeqs.find? ch.taskInFlight).map fun i => (.kv w.id, .seq i))

/-! ### Who produces it (R468) -/

/-- A slot whose table is loaded and which has not ended. -/
def Slot.unended (s : Slot) : Bool := decide (s.st = .loaded) || s.st.busy

/-- Whether a slot's table holds an operation of the stream/sync field on a number. -/
def Chip.tableHolds (ch : Chip) (c n : Nat) (f : Nat → Bool) : Bool :=
  let s := (ch.cl c).slot n
  s.unended && ((ch.cl c).entries s.base 0 s.len).any fun e => f (entrySync e)

/-- A SIGSEM of a semaphore (R127). -/
def isSigsem (j f : Nat) : Bool := decide (bitsAt f 16 4 = 2) && decide (bitsAt f 8 8 = j)

/-- A RELHALF of a stream (R127). -/
def isRelhalf (st f : Nat) : Bool := decide (bitsAt f 16 4 = 8) && decide (bitsAt f 10 6 = st)

/-- The producers of an object; none of them: it is external. -/
def Chip.producers (ch : Chip) : WaitObj → List Party
  | .sem r j =>
    ((List.range 5).flatMap fun i => (List.range 4).filterMap fun n => if ch.tableHolds (r * 5 + i) n (isSigsem j) then some (.slot (r * 5 + i) n) else none) ++
    (if (ch.rg r).eng.busy then [.task r] else [])
  | .bar p b gen =>
    let x := (ch.pt p).bar b
    if x.job.isSome || x.arrGen.toNat ≠ gen then []
    else (x.members.filter fun l => !x.arrived.getLsbD l).flatMap fun l =>
      match ch.pcid l with
      | none => []
      | some c => (List.range 4).filterMap fun n => if ((ch.cl c).slot n).unended then some (.slot c n) else none
  | .half r st => if (ch.str r st).active.isSome && decide ((ch.str r st).st = .active) then [.stream r st] else []
  | .rel r st =>
    match (ch.str r st).active.bind (·.pcid ch) with
    | none => []
    | some c => (List.range 4).filterMap fun n => if ch.tableHolds c n (isRelhalf st) then some (.slot c n) else none
  | .seq i =>
    (List.range 16).filterMap fun e =>
      let g := (ch.rg e).eng
      if g.busy && (List.range (g.count - g.index)).any fun j => decide ((attnTask (ch.readDva (g.part.getD 0) (g.dva + 64 * (g.index + j)) 64)).seq = i)
      then some (.task e) else none

/-- Whether a party is parked (R441). -/
def Chip.partyParked (ch : Chip) : Party → Bool
  | .slot c _ => (ch.cl c).parked
  | .task e => (ch.rg e).eng.parked
  | .stream r st => match (ch.str r st).active.bind (·.pcid ch) with | some c => (ch.cl c).parked | none => false
  | .kv w => match ch.work? w with | some x => (ch.pt x.part).parked | none => false

/-! ### Who is live (R469) -/

/-- The parties no producer of which is live yet: one pass. -/
def deadPass (rows : List (Party × List Party)) : List (Party × List Party) :=
  rows.filter fun r => !r.2.isEmpty && r.2.all fun q => rows.any fun x => decide (x.1 = q)

/-- The pass repeated until no mark changes. -/
def deadRows (rows : List (Party × List Party)) : Nat → List (Party × List Party)
  | 0 => rows
  | n + 1 => deadRows (deadPass rows) n

/-- The wait table as a scan leaves it. -/
def Chip.scanTable (ch : Chip) : List WaitRow :=
  let ws := ch.waits
  let dead := deadRows ((ws.filter fun w => !ch.partyParked w.1).map fun w => (w.1, ch.producers w.2)) ws.length
  ws.map fun w =>
    let was := match ch.rcv.table.find? fun r => decide (r.party = w.1) && decide (r.obj = w.2) with | some r => r.scans | none => 0
    { party := w.1, obj := w.2, scans := was + 1, live := !(dead.any fun r => decide (r.1 = w.1)) }

/-- The context that owns a party, with its partition. -/
def Chip.partyCtx (ch : Chip) : Party → Option (Nat × Nat)
  | .slot c n => let s := (ch.cl c).slot n; some (s.part, s.ctx)
  | .task e => let g := (ch.rg e).eng; g.part.map fun p => (p, g.ctx)
  | .stream r st => (ch.str r st).active.map fun d => (ch.strOwner r st, d.ctx)
  | .kv w => (ch.work? w).map fun x => (x.part, x.ctx)

end Sys2Proof.Machine
end

