-- ==== Sys2Proof/Machine/Dump.lean ====
section
/-! DEFINITION. Dump records: their capture, layout and places (spec/16_faults_recovery.md R473 to R476, R480; R369). -/

namespace Sys2Proof.Machine

/-! ### What a record is of -/

/-- The clusters a step's record covers, for one partition. -/
def Chip.dumpClusters (ch : Chip) (p : Option Nat) : RecUnit → List Nat
  | .ctx q c => (ch.clustersOf q).filter fun x => (List.range 4).any fun n => decide (((ch.cl x).slot n).part = q) && decide (((ch.cl x).slot n).ctx = c) && decide (((ch.cl x).slot n).st ≠ .empty)
  | .cluster c => [c]
  | .part q => ch.clustersOf q
  | .die d => match p with | some q => (ch.clustersOf q).filter fun c => decide (dieOf c = d) | none => []
  | _ => []

/-- The regions it covers. -/
def Chip.dumpRegions (ch : Chip) (p : Option Nat) (u : RecUnit) : List Nat :=
  match u with
  | .engine e => [e]
  | .streamEng r => [r]
  | _ => ((ch.dumpClusters p u).map regionOf).eraseDups

/-! ### Sections (R474, R475) -/

/-- A section: its header of eight bytes and its body. -/
def dumpSection (t : Nat) (body : List Byte) : Nat × List Byte := (t, toLe t 2 ++ zeros 2 ++ toLe body.length 4 ++ body)

/-- Types 1 to 4 of a cluster; the loop counters are 16 bits each, with 2 reserved bytes after the three. -/
def clusterSections (c : Cluster) : List (Nat × List Byte) :=
  [ dumpSection 1 ((List.range 4).flatMap fun n =>
      toLe (c.readSeq n 5) 4 ++ toLe (c.readSeq n 6) 4 ++ ((List.range 3).flatMap fun l => toLe (look 0 (c.slot n).cnt l) 2) ++ zeros 2),
    dumpSection 2 ((List.range 16).flatMap fun i => toLe (look 0 c.sreg i).toNat 8),
    dumpSection 3 ((List.range 2048).flatMap fun i => toLe (look 0 c.vreg i).toNat 4),
    dumpSection 4 (([0x21, 0x24, 0x0D, 0x1D].flatMap fun i => toLe (c.readLocal i) 4) ++ toLe (c.readSpd 0 1) 4) ]

/-- Types 5 and 6 of a partition in a region. -/
def Chip.regionSections (ch : Chip) (p r : Nat) : List (Nat × List Byte) :=
  let x := ch.pt p
  [ dumpSection 5 (((List.range 64).filter (x.ownsStream r)).flatMap fun n => [0, 1, 2, 3].flatMap fun i => toLe (ch.readStr p r n i) 4),
    dumpSection 6 (((List.range 256).filter (x.ownsSem r)).flatMap fun j => toLe (look 0 (ch.rg r).sems j) 4) ]

/-- A party and an object of the wait table, in 4 bytes each: a kind in the top byte, then a unit and a number. -/
def Party.code : Party → Nat
  | .slot c n => 0x01000000 + c * 256 + n
  | .task e => 0x02000000 + e * 256
  | .stream r st => 0x03000000 + r * 256 + st
  | .kv w => 0x04000000 + w % 0x1000000

def WaitObj.code : WaitObj → Nat
  | .sem r j => 0x01000000 + r * 256 + j
  | .bar p b _ => 0x02000000 + p * 256 + b
  | .half r st => 0x03000000 + r * 256 + st
  | .rel r st => 0x04000000 + r * 256 + st
  | .seq i => 0x05000000 + i

def WaitObj.gen : WaitObj → Nat
  | .bar _ _ g => g
  | _ => 0

/-- Types 7, 8 and 10 of a partition. -/
def Chip.partSections (ch : Chip) (p : Nat) (lcids : List Nat) : List (Nat × List Byte) :=
  [ dumpSection 7 ((List.range 32).flatMap fun b => toLe (ch.readStr p 0 b 8) 4),
    dumpSection 8 ((ch.rcv.table.filter fun r => decide ((ch.partyCtx r.party).map (·.1) = some p)).flatMap fun r =>
      toLe r.party.code 4 ++ toLe r.obj.code 4 ++ toLe r.obj.gen 4 ++ toLe r.scans 4),
    dumpSection 10 (([2, 3, 4].flatMap fun i => toLe (ch.readMmu p i) 4) ++ lcids.flatMap fun l =>
      ((ch.rg (ch.regionOfLcid l)).mir l).log.flatMap fun (o : SemOp) => toLe o.sem 1 ++ toLe (optBool o.wait) 1 ++ toLe o.n 2) ]

/-- Type 9 of an engine. -/
def Chip.engineSection (ch : Chip) (e : Nat) : Nat × List Byte :=
  let g := (ch.rg e).eng
  dumpSection 9 (toLe (ch.readAtt e 0) 4 ++ toLe (ch.readAtt e 1) 4 ++ (match g.part with | some p => ch.readDvaZero p (g.dva + 64 * g.index) 64 | none => zeros 64))

/-- The sections of a record for a partition. -/
def Chip.dumpSections (ch : Chip) (p : Nat) (u : RecUnit) : List (Nat × List Byte) :=
  let cs := ch.dumpClusters (some p) u
  let rs := ch.dumpRegions (some p) u
  (cs.flatMap fun c => clusterSections (ch.cl c)) ++ (rs.flatMap fun r => ch.regionSections p r) ++
  ch.partSections p (cs.filterMap fun c => (ch.cl c).lcid) ++ ((rs.filter (ch.pt p).ownsEng).map ch.engineSection)

/-! ### Headers (R474) -/

/-- What names the place of a record: the first cluster it covers, else the region or die of its unit. -/
def Chip.dumpPlace (ch : Chip) (p : Option Nat) (u : RecUnit) : Nat × Option Nat :=
  match ch.dumpClusters p u, u with
  | c :: _, _ => (regionOf c, some c)
  | [], .engine e => (e, none)
  | [], .streamEng r => (r, none)
  | [], .die d => (d * 4, none)
  | [], _ => (0, none)

/-- The run a record names: that of its context, or of the first slot it covers. -/
def Chip.dumpRun (ch : Chip) (p : Option Nat) (u : RecUnit) : Nat :=
  match ch.runs.find? fun r => decide (p = some r.part) && (match u with | .ctx _ c => decide (r.ctx = c) | _ => r.slots.any fun s => (ch.dumpClusters p u).any fun c => decide (ch.pcid s.1 = some c)) with
  | some r => r.id
  | none => 0

/-- A record's bytes with the record number left 0. -/
def Chip.dumpBytes (ch : Chip) (f : FaultRec) (p : Option Nat) (flags : Nat) (secs : List (Nat × List Byte)) : List Byte :=
  let body := secs.flatMap (·.2)
  let pl := ch.dumpPlace p f.unit
  let c : Option Cluster := pl.2.map ch.cl
  let ctx : Nat := match f.unit with | .ctx _ x => x | _ => f.ctx
  ([0x53, 0x4B, 0x44, 0x50] : List Byte) ++ toLe 1 2 ++ toLe secs.length 2 ++ toLe (64 + body.length) 4 ++ zeros 4 ++ toLe f.seen 8 ++ toLe f.cause 2 ++ toLe f.unit.code 1 ++ toLe flags 1 ++
  toLe (p.getD 0 * 4096 + ctx) 2 ++ toLe pl.1 1 ++ toLe (pl.2.getD 0) 1 ++ toLe ((c.bind (·.lcid)).getD 0) 1 ++ zeros 1 ++
  toLe (match c with | some x => x.epoch.toNat | none => 0) 2 ++ toLe (ch.dumpRun p f.unit) 4 ++ toLe f.detail 8 ++ zeros 16 ++ body

/-! ### Capture and writing (R473, R476) -/

def Recovery.dumpFill (r : Recovery) : Nat := (r.dumps.map fun d => d.full.length + d.mgmt.length).sum

/-- The record of a step for one partition, or of a step no partition is on; header alone when the buffer of 4 MiB is full. -/
def Chip.dumpOne (ch : Chip) (f : FaultRec) (step : Nat) (p : Option Nat) : Chip :=
  let flags := optBool (match f.unit with | .ctx _ _ => true | _ => false) + 2 * optBool f.quar
  let conf := match p with | some q => (ch.pt q).conf | none => false
  let mflags := flags + (if conf then 8 else 0)
  let secs := match p with | some q => ch.dumpSections q f.unit | none => (ch.dumpClusters none f.unit).flatMap fun c => clusterSections (ch.cl c)
  let full := ch.dumpBytes f p flags secs
  let mgmt := ch.dumpBytes f p mflags (if conf then secs.filter fun x => x.1 ≠ 2 && x.1 ≠ 3 else secs)
  let d : DumpRecord :=
    if ch.rcv.dumpFill + full.length + mgmt.length ≤ 4194304 then { part := p, step := step, full := full, mgmt := mgmt }
    else { part := p, step := step, full := ch.dumpBytes f p (flags + 4) [], mgmt := ch.dumpBytes f p (mflags + 4) [] }
  let ch := match p with | some q => ch.modPt q fun x => { x with dumping := true } | none => ch
  { ch with rcv := { ch.rcv with dumps := ch.rcv.dumps ++ [d] } }

def Chip.dumpAll (ch : Chip) (f : FaultRec) (step : Nat) (parts : List Nat) : Chip :=
  if parts.isEmpty then ch.dumpOne f step none else parts.foldl (fun c p => c.dumpOne f step (some p)) ch

/-- A record with its number set (bytes 12 to 15). -/
def numbered (bs : List Byte) (n : Nat) : List Byte := bs.take 12 ++ toLe n 4 ++ bs.drop 16

/-- Where a record of n bytes goes in an area: at the next 4 KiB boundary, from the start when it does not fit. -/
def dumpPlaceAt (pos n size : Nat) : Nat := let a := ceilDiv pos 4096 * 4096; if a + n ≤ size then a else 0

/-- A record cut to its header, with truncated set, when it is larger than the whole area. -/
def fitDump (bs : List Byte) (size : Nat) : List Byte :=
  if bs.length ≤ size then bs
  else slice bs 0 6 ++ zeros 2 ++ toLe 64 4 ++ slice bs 12 15 ++ [bs.getD 27 0 ||| 4] ++ slice bs 28 36

def Partition.dumpDva (x : Partition) : Nat := x.dumpHi * 2 ^ 32 + x.dumpLo * 2 ^ 16

/-- The partition's copy: none with a length of 0, or when a page of the area is no writable data page any more. -/
def Chip.writePartDump (ch : Chip) (k : Clock) (p : Nat) (bs : List Byte) : Chip :=
  let x := ch.pt p
  let size := x.dumpLen * 65536
  let bs := numbered (fitDump bs size) (x.recSeq + 1)
  let at_ := dumpPlaceAt x.dumpPos bs.length size
  let ch := ch.modPt p fun y => { y with dumping := false }
  if size = 0 || !x.valid || x.rangeBad (x.dumpDva + at_) bs.length true then ch
  else (ch.writeDva k p (x.dumpDva + at_) bs).modPt p fun y => { y with recSeq := y.recSeq + 1, dumpPos := at_ + bs.length }

/-- The management dump area: 64 MiB on each stack, taken in turn. -/
def mgmtAreaSize : Nat := 4 * 67108864

def Chip.writeMgmtDump (ch : Chip) (bs : List Byte) : Chip :=
  let r := ch.rcv
  let at_ := dumpPlaceAt r.mgmtPos bs.length mgmtAreaSize
  { ch with rcv := { r with mgmtArea := writeBytes r.mgmtArea at_ (numbered bs (r.mgmtSeq + 1)), mgmtSeq := r.mgmtSeq + 1, mgmtPos := at_ + bs.length } }

/-- Writes the records of steps that are no longer in progress. -/
def Chip.writeDumps (ch : Chip) (k : Clock) : Chip :=
  let open_ : DumpRecord → Bool := fun d => ch.rcv.steps.any fun s => decide (s.id = d.step)
  let ds := ch.rcv.dumps.filter fun d => !open_ d
  let ch := { ch with rcv := { ch.rcv with dumps := ch.rcv.dumps.filter open_ } }
  ds.foldl (fun c d => (match d.part with | some p => c.writePartDump k p d.full | none => c).writeMgmtDump d.mgmt) ch

/-- DUMP_READ (R480). -/
def execDumpRead (q : Req) (s : State) : Res :=
  onChip s (runCmd 0x0904 q fun k ch =>
    let b := q.payload
    let area := beAt b 0 1
    let off := beAt b 4 4
    let n := beAt b 8 4
    let x := ch.pt q.part
    let size := if area = 1 then mgmtAreaSize else x.dumpLen * 65536
    checked
      [ (decide (area = 1) && decide (q.part ≠ 0), (.notPermitted, some 0)), (decide (area = 0) && x.rangeBad (x.dumpDva + off) (min n size) false, (.notPermitted, some 4)),
        (decide (1 < area), (.badField, some 0)), reserved q 1 3, (decide (size < off + n), (.lengthRange, some 4)),
        (decide (ch.maxPayload q.port < n), (.lengthRange, some 8)),
        (decide (area = 0) && (ch.firstLost q.part (x.dumpDva + off) n false).isSome, (.dataLost, some 4)) ]
      (if area = 1 then ch.reply q .ok (readBytes ch.rcv.mgmtArea off n)
       else (ch.touchDva k q.part (x.dumpDva + off) n).reply q .ok (ch.readDva q.part (x.dumpDva + off) n)))

end Sys2Proof.Machine
end

