-- ==== Sys2Proof/Machine/Resets.lean ====
section
/-! DEFINITION. Steps of the recovery ladder: how one begins and ends, and context, attention engine and partition resets
(spec/16_faults_recovery.md R449 to R454, R465 to R467, R480). -/

namespace Sys2Proof.Machine

/-! ### Queues (R466) -/

/-- Whether a partition's own queue may start a step. -/
def Chip.partFree (ch : Chip) (p : Nat) : Bool :=
  !(ch.rcv.steps.any fun s => decide (p ∈ s.parts)) && !(ch.rcv.pkgQueue.any fun f => decide (p ∈ ch.partsOn f.unit))

/-- Whether the package queue may start a step on a unit: the steps in progress on its units have finished. -/
def Chip.pkgFree (ch : Chip) (u : RecUnit) : Bool := !(ch.rcv.steps.any fun s => s.pkg || (ch.partsOn u).any fun p => decide (p ∈ s.parts))

/-- The fault of a unit and cause at the head of a queue whose step may start, taken from it. -/
def Chip.takeFault (ch : Chip) (u : RecUnit) (cause : Nat) : Option (FaultRec × Bool × Chip) :=
  let head (q : List FaultRec) : Bool := match q with | f :: _ => decide (f.unit = u) && decide (f.cause = cause) | [] => false
  match (List.range 8).find? fun p => head (look [] ch.rcv.queues p) && ch.partFree p with
  | some p =>
    match look [] ch.rcv.queues p with
    | f :: t => some (f, false, { ch with rcv := { ch.rcv with queues := put [] ch.rcv.queues p t } })
    | [] => none
  | none =>
    if head ch.rcv.pkgQueue && ch.pkgFree u then
      match ch.rcv.pkgQueue with
      | f :: t => some (f, true, { ch with rcv := { ch.rcv with pkgQueue := t } })
      | [] => none
    else none

/-! ### The life of a step (R451, R453, R471, R473) -/

/-- The contexts of a partition that a unit's step handles. -/
def Chip.ctxsOn (ch : Chip) (p : Nat) (u : RecUnit) (ctx : Nat) : Bool :=
  let onCl (c : Nat) : Bool := (List.range 4).any fun n => let s := (ch.cl c).slot n; s.st.busy && decide (s.part = p) && decide (s.ctx = ctx)
  match u with
  | .ctx _ _ => false
  | .cluster c => onCl c
  | .engine e => (ch.rg e).eng.busy && decide ((ch.rg e).eng.ctx = ctx)
  | .streamEng r => (List.range 5).any fun i => onCl (r * 5 + i)
  | _ => true

def Chip.pauseCtxs (ch : Chip) (k : Clock) (p : Nat) (f : Nat → Bool) : Chip :=
  ch.modPt p fun x => { x with contexts := x.contexts.map fun c => (c.1, if f c.1 then c.2.map fun y => y.pause k.localNs else c.2) }

/-- A step begins: its record is captured and it is counted; steps above engine reset make their partitions recover (R396). -/
def Chip.beginStep (ch : Chip) (k : Clock) (f : FaultRec) (pkg : Bool) : Chip :=
  let id := ch.rcv.nextStep
  let parts := ch.partsOn f.unit
  let step : RecStep := { id := id, unit := f.unit, parts := parts, cause := f.cause, detail := f.detail, startNs := k.localNs, pkg := pkg, works := f.works, next := ch.nextUnits f.unit }
  let ch := if f.unit = .package then ch else ch.dumpAll f id parts
  let ch := { ch with rcv := { ch.rcv with steps := ch.rcv.steps ++ [step], nextStep := id + 1 } }
  parts.foldl (fun c p =>
    (c.pauseCtxs k p (c.ctxsOn p f.unit)).modPt p fun x =>
      { x with faults := upd 0 x.faults f.unit.code (· + 1), recovering := x.recovering || decide (3 ≤ f.unit.code) }) ch

/-- A step that cannot go on, or overran its watchdog: the next step takes its place (R453). -/
def Chip.escalateStep (ch : Chip) (k : Clock) (s : RecStep) (cause : Nat) : Chip :=
  let ch := (ch.abandon k s).writeDumps k
  (s.next.zipIdx).foldl (fun c u =>
    (c.faultEvent k (c.partsOn u.1) cause 0 u.1 s.detail).enqueue { cause := cause, unit := u.1, detail := s.detail, seen := k.timebase, works := if u.2 = 0 then s.works else [] }) ch

/-- A step's row: it begins when its fault is at the head of its queue; a parity error or a die's or the H-die's failure is detected here. -/
def stepRow (u : RecUnit) (cause : Nat) (detects : Bool) (act : Clock → Chip → FaultRec → Chip) (k : Clock) (ch : Chip) : Chip :=
  if !ch.ready then ch
  else
    let go (ch : Chip) : Chip := match ch.takeFault u cause with | some (f, pkg, c) => act k (c.beginStep k f pkg) f | none => ch
    if (ch.takeFault u cause).isSome || !detects then go ch else go (ch.fault k cause u 0)

/-- Watches of a partition's contexts run on, but for those that another reason still pauses. -/
def Chip.resumeCtxs (ch : Chip) (k : Clock) (p : Nat) : Chip :=
  if (ch.pt p).parked then ch
  else ch.modPt p fun x => { x with contexts := x.contexts.map fun c =>
    (c.1, c.2.map fun y => if y.held || ch.rcv.steps.any (fun s => decide (p ∈ s.parts) && ch.ctxsOn p s.unit c.1) then y else y.resume k.localNs) }

/-- What the end of a step changes on its unit. -/
def Chip.unitDone (ch : Chip) (k : Clock) : RecUnit → Chip
  | .cluster c => (ch.modCl c fun x => if x.svc = .fenced then { x with svc := .collapsing k.localNs 0 1 } else x).modRg (regionOf c) fun g => { g with busy := false }
  | .engine e =>
    let g := (ch.rg e).eng
    if g.st ≠ .resetting then ch
    else ch.modEng e fun y => { y with st := if (match ch.run? g.run with | some r => decide (e ∈ r.engines) | none => false) && decide (g.index < g.count) then .running else .idle }
  | .die d => (ch.reloadDelays d).modSk d fun x => { x with selfRefresh := false, setPoint := x.point }
  | _ => ch

/-- RECOVERY_STEP_COMPLETE (R453, R466, R473, R481). -/
def Chip.stepDone (ch : Chip) (k : Clock) (id : Nat) : Chip :=
  match ch.rcv.steps.find? fun s => s.id = id with
  | none => ch
  | some s =>
    if !(ch.ready || ch.inRecoveryMode) then ch
    else
      let ch := ({ ch with rcv := { ch.rcv with steps := ch.rcv.steps.filter fun x => x.id ≠ id } }.unitDone k s.unit).writeDumps k
      let ch := s.parts.foldl (fun c p =>
        (c.modPt p fun x => { x with recovering := c.rcv.steps.any fun y => decide (3 ≤ y.unit.code) && decide (p ∈ y.parts) }).resumeCtxs k p) ch
      let ch := if s.cause = 0 then ch else ch.faultEvent k s.parts s.cause 1 s.unit s.detail
      s.works.foldl (fun c i => match c.work? i with | some w => c.complete k w 0xE001 .ok [] | none => c) ch

def execRecoveryStepComplete (id : Nat) (s : State) : Res := onChip s fun k ch => ch.stepDone k id

/-! ### Context reset (R452) -/

/-- The runs that meet a condition will complete with RECOVERING. -/
def Chip.markRuns (ch : Chip) (f : Run → Bool) : Chip := { ch with runs := ch.runs.map fun r => if f r then { r with recovering := true } else r }

/-- A slot stopped by a reset. -/
def Chip.resetSlots (ch : Chip) (k : Clock) (p : Nat) (f : Slot → Bool) : Chip :=
  (ch.clustersOf p).foldl (fun c x => (List.range 4).foldl (fun c n =>
    let s := (c.cl x).slot n
    if (s.st.busy || decide (s.st = .faulted)) && decide (s.part = p) && f s then (c.cancelSlot k x n).modSlot x n fun y => { y with held := false } else c) c) ch

/-- Engines that run for a context have their tasks discarded. -/
def Chip.resetTasks (ch : Chip) (k : Clock) (p : Nat) (f : Engine → Bool) : Chip :=
  (List.range 16).foldl (fun c e =>
    let g := (c.rg e).eng
    if g.part = some p && g.st ≠ .idle && f g then
      (c.modEng e fun y => { y with st := .idle, work := none, waitDone := false }).runEngineEnded k g.run e
    else c) ch

/-- A descriptor of a context waits in the next slot of a stream of another: it is withdrawn alone. -/
def Chip.dropNext (ch : Chip) (p ctx : Nat) : Chip :=
  (List.range 16).foldl (fun c r => (List.range 64).foldl (fun c n =>
    if (c.pt p).ownsStream r n then (match (c.str r n).next with
      | some d => if d.ctx = ctx then c.modStr r n fun x => { x with next := none } else c
      | none => c) else c) c) ch

/-- A context reset: its slots are cancelled, its tasks discarded, its streams withdrawn; its runs complete with RECOVERING. -/
def Chip.contextReset (ch : Chip) (k : Clock) (p ctx : Nat) (quar : Bool) : Chip :=
  let ch := ch.markRuns fun r => decide (r.part = p) && decide (r.ctx = ctx)
  let ch := (ch.resetSlots k p fun s => s.ctx = ctx).resetTasks k p fun g => g.ctx = ctx
  let ch := (ch.stopStreams k p fun x => match x.active with | some d => d.ctx = ctx | none => false).dropNext p ctx
  ch.modPt p fun x => { x with contexts := upd none x.contexts ctx fun o => o.map fun y => { y with quarantined := y.quarantined || quar, held := false, pausedAt := if y.held then none else y.pausedAt } }

/-- CONTEXT_RESET. -/
def execContextReset (p ctx cause : Nat) (s : State) : Res :=
  onChip s (stepRow (.ctx p ctx) cause false fun k ch f => ch.contextReset k p ctx f.quar)

/-! ### Attention engine reset (R465) -/

/-- The engine's state is cleared; its task restarts from the committed lists once the step completes. -/
def execAttentionEngineReset (e cause : Nat) (s : State) : Res :=
  onChip s (stepRow (.engine e) cause (decide (cause = 8) && decide (e < 16)) fun _ ch _ => ch.modEng e fun y => { y with st := .resetting, work := none })

/-! ### Partition reset (R452) -/

/-- A cluster of a partition under reset: its slots, tables, codec slots and banks are cleared (R172, R289). -/
def Cluster.partReset (c : Cluster) : Cluster :=
  { c with slots := [], cur := 0, issueAt := 0, acted := 0, yielding := false, staged := [], table := [], loads := [], flight := [], vlds := [], entryW := [], uses := [], ports := [], codec := [], lanes := [],
           replay := none, capture := none, filler := {} }.clearBanks

/-- A barrier with its generation at 0 and no arrival. -/
def Barrier.clear (x : Barrier) : Barrier := { mask := x.mask, job := x.job }

def Chip.partitionReset (ch : Chip) (k : Clock) (p : Nat) : Chip :=
  let ch := ch.markRuns fun r => r.part = p
  let ch := (((ch.resetSlots k p fun _ => true).resetTasks k p fun _ => true).stopStreams k p fun _ => true)
  let ch := (ch.runs.filter fun r => r.part = p).foldl (fun c r => c.runFinish k r .recovering) ch
  let fills := ch.works.filter fun w => match w.kind with | .fillCopy c => decide (c ∈ ch.clustersOf p) | _ => false
  let ch := fills.foldl (fun c w => c.complete k w 0xE001 .recovering []) ch
  let ch := if (ch.clustersOf p).any fun c => (ch.cl c).rowsPending then { ch with boot := { ch.boot with repairDirty := true } } else ch
  let ch := (ch.clustersOf p).foldl (fun c x => (c.modCl x Cluster.partReset).modMir (regionOf x) ((ch.cl x).lcid.getD 0) fun _ => {}) ch
  let ch := (List.range 16).foldl (fun c r => c.modRg r fun g =>
    { g with sems := g.sems.filter (fun e => !(c.pt p).ownsSem r e.1), semFlight := g.semFlight.filter (fun e => !(c.pt p).ownsSem r e.1),
             sigFlight := if (c.pt p).ownsEng r then [] else g.sigFlight,
             eng := if g.eng.part = some p then { part := some p, races := g.eng.races, evict := g.eng.evict, parked := g.eng.parked, activity := g.eng.activity } else g.eng }) ch
  let ch := ch.modPt p fun x => { x with barriers := x.barriers.map (fun b => (b.1, b.2.clear)), contexts := x.contexts.map fun c => (c.1, c.2.map fun y => { y with held := false }) }
  { ch with rcv := { ch.rcv with suspects := ch.rcv.suspects.filter fun x => x.1 ≠ p, survivors := ch.rcv.survivors.filter fun x => x.1 ≠ p } }

/-- PARTITION_RESET. -/
def execPartitionReset (p cause : Nat) (s : State) : Res := onChip s (stepRow (.part p) cause false fun k ch _ => ch.partitionReset k p)

/-! ### RESET (R480) -/

/-- The unit a RESET names, or what refuses it. -/
def resetUnit (ch : Chip) (q : Req) : Except Refuse RecUnit :=
  let id := beAt q.payload 2 2
  let p := ch.pt q.part
  let own (b : Bool) (u : RecUnit) : Except Refuse RecUnit := if b then .ok u else .error (.notPermitted, some 2)
  let mgmt (n : Nat) (u : RecUnit) : Except Refuse RecUnit :=
    if q.part ≠ 0 then .error (.notPermitted, some 0) else if id < n then .ok u else .error (.badField, some 2)
  match beAt q.payload 0 1 with
  | 1 => own (p.hasCtx id) (.ctx q.part id)
  | 2 => if decide (id < 64) && p.ownsLcid id then (match ch.pcid id with | some c => .ok (.cluster c) | none => .error (.noResource, some 2)) else .error (.notPermitted, some 2)
  | 3 => own (decide (id < 16) && p.ownsEng id) (.engine id)
  | 4 => mgmt 16 (.streamEng id)
  | 5 => own (decide (id = q.part)) (.part id)
  | 6 => mgmt 4 (.die id)
  | 7 => mgmt 1 .package
  | _ => .error (.badField, some 0)

def execReset (q : Req) (s : State) : Res :=
  onChip s (runCmd 0x0901 q fun k ch =>
    let form := [ reserved q 1 1, reserved q 4 4 ]
    match resetUnit ch q with
    | .error r => .error (if r.1 = .noResource then (firstFail form).getD r else r)
    | .ok u =>
      checked (form ++ [ (ch.inRecoveryMode && decide (u ≠ .package), (.notReady, none)), ch.worksFull q ])
        ((ch.acceptReply k q 0x0901 (.recovery u.code) []).enqueue { cause := 0, unit := u, detail := 0, seen := k.timebase, works := [ch.nextWork] }))

end Sys2Proof.Machine
end

