-- ==== Sys2Proof/Machine/Substitute.lean ====
section
/-! DEFINITION. The single-fault path: rewind, restore and replay, cluster substitution, stream engine reset and reintegration
(spec/16_faults_recovery.md R459, R462 to R465, R477, R478; spec/01_architecture.md R24 to R26; spec/02_numerics.md R71). -/

namespace Sys2Proof.Machine

/-! ### Rewind of a stream (R459) -/

/-- The pieces a range of a descriptor's memory side falls into: DVA and length of each. -/
def Desc.cuts (d : Desc) (i n : Nat) : Nat → List (Nat × Nat)
  | 0 => []
  | fuel + 1 =>
    if n = 0 then []
    else
      let a := d.addr i
      let m := min (cut4k a (d.runLeft i)) n
      if m = 0 then [] else (a, m) :: d.cuts (i + m) (n - m) fuel

/-- Why the refill of a block of a half gives no data: no read of it is issued now, an uncorrectable read, a check failed twice, a row of R277
that stops the stream, a translation fault. -/
inductive Refill where
  | withheld
  | lost
  | failed
  | stop
  | unmapped (cause dva : Nat)
  deriving DecidableEq, Repr

/-- Pieces of memory read as reads of them are served (R227, R229, R246). -/
def Chip.readCuts (ch : Chip) (k : Clock) (p : Nat) (cuts : List (Nat × Nat)) : Except Refill (List Byte) × Chip :=
  if cuts.any fun x => (ch.windowOf p x.1).isSome then (.error .withheld, ch)
  else match cuts.findSome? fun x => ch.rangeFault p x.1 x.2 false with
    | some f => (.error (.unmapped f.1 f.2), ch)
    | none =>
      if cuts.any fun x => ch.suspectAt p x.1 then (.error .withheld, ch)
      else
        let lost := cuts.any fun x => (ch.firstLost p x.1 x.2 false).isSome
        let bytes := cuts.flatMap fun x => match ch.readServed p x.1 x.2 with | .ok b => b | .error _ => []
        let ch := cuts.foldl (fun c x => c.touchDva k p x.1 x.2) ch
        (if lost || bytes.length ≠ (cuts.map (·.2)).sum then .error .lost else .ok bytes, ch)

/-- A stored block read head and body, and checked (R276, R277). -/
def Chip.readBlock (ch : Chip) (k : Clock) (p c : Nat) (d : Desc) (b : Nat) : Except Refill (List Byte × BlockCheck) × Chip :=
  let at_ (n : Nat) : List (Nat × Nat) := d.cuts (b * d.run) n 17
  match ch.readCuts k p (at_ (min 64 d.run)) with
  | (.error e, ch) => (.error e, ch)
  | (.ok head, ch) =>
    let img := let s := look {} (ch.cl c).codec (hdrSlot head); if s.valid then some s.image else none
    match headerCheck head d.run img with
    | some r => (.ok (head, r), ch)
    | none =>
      match ch.readCuts k p (at_ (max 64 (32 + hdrCodedLen head))) with
      | (.error e, ch) => (.error e, ch)
      | (.ok all, ch) => (.ok (all, checkBlock all d.run img), ch)

/-- An expanding stream's block of a refill: one that fails its check is fetched once more, and counted (R282, R283, R292). -/
def Chip.refillCoded (ch : Chip) (k : Clock) (r st p c : Nat) (d : Desc) (b : Nat) (again : Bool) : Except Refill (List Byte) × Chip :=
  match ch.readBlock k p c d b with
  | (.error e, ch) => (.error e, ch)
  | (.ok (all, .pass raw), ch) => (.ok raw, ch.modCl c fun y => { y with rawBlocks := if hdrRaw all then satTo 0xFFFF (y.rawBlocks + 1) else y.rawBlocks })
  | (.ok (_, .stop), ch) => (.error .stop, ch)
  | (.ok (_, .fail), ch) =>
    if again then (.error .failed, ch.failedTwice k r st c d (d.addr (b * d.run)))
    else (.error .failed, ch.modCl c fun y => { y with fail1 := satTo 0xFFFF (y.fail1 + 1) })

/-- One block of a half read again: its raw bytes, or why there are none (R459, R463). -/
def Chip.refillBlock (ch : Chip) (k : Clock) (r st c : Nat) (d : Desc) (i b n : Nat) : Except Refill (List Byte) × Chip :=
  let p := ch.strOwner r st
  if d.codec ≠ 1 then ch.readCuts k p (d.cuts i n (n + 1))
  else match ch.refillCoded k r st p c d b false with
    | (.error .failed, ch) => ch.refillCoded k r st p c d b true
    | x => x

/-- A half whose refill lacks a block goes back to the engine, which asks for what may be asked for again (R239). -/
def Chip.refillLater (ch : Chip) (r st : Nat) (h : Bool) (ranges : List (Nat × Nat)) : Chip :=
  ch.modStr r st fun x =>
    let y := x.half h
    if y.eng then x.modHalf h fun z => { z with again := z.again ++ ranges }
    else { (x.modHalf h fun z => { z with eng := true, ready := false, readyAt := none, again := z.again ++ ranges }) with done := x.done - y.want }

/-- A block of a refill that gives no data: a weight stream's is substituted at once, or its half waits for it; any other stream stops with
the cause, or waits for a page that may be read again (R239, R283, R306, R463). -/
def Chip.refillMissing (ch : Chip) (k : Clock) (r st : Nat) (h : Bool) (d : Desc) (b cause : Nat) (wait : Bool) (ranges : List (Nat × Nat)) : Chip :=
  if d.fallback = 0 then (if wait then ch.refillLater r st h ranges else ch.stopStream k r st cause)
  else
    let x := ch.substAll k r st h b
    if x.2 || (x.1.str r st).st ≠ .active then x.1 else x.1.refillLater r st h ranges

/-- One block of a half that the cluster held is refilled. -/
def Chip.refillOne (ch : Chip) (k : Clock) (r st c : Nat) (h : Bool) (d : Desc) (b : Nat × Nat) : Chip :=
  if (ch.str r st).st ≠ .active then ch
  else
    let y := (ch.str r st).half h
    let i := max y.start (b.1 * 4096)
    let wt := ((ch.pt (ch.strOwner r st)).pte (d.addr (if d.codec = 1 then b.1 * d.run else i) / 65536)).wt
    match ch.refillBlock k r st c d i b.1 b.2 with
    | (.ok bytes, ch) => (ch.modStr r st fun x => x.modHalf h fun y => { y with land := put 0 y.land b.1 b.2 }).spdPut k r st c (y.spd d h i) (bytes.take b.2) 0
    | (.error .withheld, ch) => ch.refillMissing k r st h d b.1 3 true [(i, b.2)]
    | (.error .lost, ch) => ch.refillMissing k r st h d b.1 3 false (if wt then [(i, b.2)] else [])
    | (.error .failed, ch) => ch.refillMissing k r st h d b.1 4 false []
    | (.error .stop, ch) => ch.stopStream k r st 4
    | (.error (.unmapped cause dva), ch) => ch.streamFault k r st cause dva

/-- Refills an inbound half its cluster held, block by block (R459, R463). -/
def Chip.refillHalf (ch : Chip) (k : Clock) (r st c : Nat) (h : Bool) : Chip :=
  let y := (ch.str r st).half h
  match y.desc with
  | none => ch
  | some d =>
    if y.eng || d.dir ≠ 0 then ch
    else y.blocks.foldl (fun m b => m.refillOne k r st c h d b) (ch.modStr r st fun x => x.modHalf h fun y => { y with substd := [], land := [] })

/-- A half as a rewind reinstates it: what the engine held starts again from the recorded index. -/
def Half.rewound (y : Half) : Half :=
  let y := { y with readyAt := none }
  if !y.eng then y
  else match y.desc with
    | some d => if d.dir = 0 then { y with issued := 0, got := 0, land := [], substd := [], again := [] } else { y with issued := y.got }
    | none => y

/-- Raw blocks of a compressing half that the encoder is to read again (R285). -/
def Half.rawLeft (y : Half) (st : Nat) (h : Bool) : List (Nat × Bool × Nat) :=
  match y.desc with
  | some d => if y.eng && decide (d.codec = 2) then (List.range ((y.want - y.got) / 4096)).map fun i => (st, h, y.start + y.got + i * 4096) else []
  | none => []

/-- A stream rewound to a record: its descriptors since the capture, its halves as recorded, or as at activation when it was not yet active. -/
def Chip.rewind (ch : Chip) (k : Clock) (r st c : Nat) (rec : Option StreamRec) : Chip :=
  let x := ch.str r st
  if x.st = .faulted || x.st = .stopping then ch
  else
    let descs := x.retired ++ x.active.toList ++ x.next.toList
    let ch := (((ch.giveUpReqs r st).dropBlocks r st none).dropStaged r st).dropEnc r st
    let ch := ch.modStr r st fun y =>
      { y with st := if descs.isEmpty then .idle else .active, active := descs.head?, next := descs[1]?, last := descs.head?.or y.last, retired := [], descFb := 0 }
    match rec with
    | some s =>
      if s.active = descs.head? then
        let ch := ch.modStr r st fun y => { y with h0 := s.h0.rewound, h1 := s.h1.rewound, nextHalf := s.nextHalf, handed := s.handed, done := s.done, descFb := s.descFb }
        let ch := ch.modRg r fun g => { g with encQueue := g.encQueue ++ s.h0.rewound.rawLeft st false ++ s.h1.rewound.rawLeft st true }
        (((ch.refillHalf k r st c false).refillHalf k r st c true).assign k r st).redry k r st
      else match descs.head? with | some d => ch.activate k r st d | none => ch
    | none => match descs.head? with | some d => ch.activate k r st d | none => ch

/-- The inbound and outbound streams of a region whose lcid field names an lcid. -/
def Chip.streamsOf (ch : Chip) (r l : Nat) : List Nat :=
  (List.range 64).filter fun n => match (ch.str r n).last with | some d => decide (d.lcid = l) && decide (d.dir ≠ 2) | none => false

/-- Rewinds streams of an lcid to its current image. -/
def Chip.rewindAll (ch : Chip) (k : Clock) (r l c : Nat) (f : Stream → Bool) : Chip :=
  let recs := match ((ch.rg r).mir l).current with | some i => i.streams | none => []
  ((ch.streamsOf r l).filter fun n => f (ch.str r n)).foldl (fun m n => m.rewind k r n c (recs.find? fun s => s.stream = n)) ch

/-! ### Restore and replay (R455, R462, R464) -/

/-- A slot as the image has it, but for one loaded since, or cancelled since. -/
def Slot.restored (now img : Slot) (aclk : Nat) : Slot :=
  if now.st = .loaded || now.st = .cancelled || now.st = .empty then now
  else { img with cancelling := now.cancelling, held := now.held, wait := img.wait.map fun w => { w with since := aclk } }

/-- The state part of an image put back into a cluster, whose replay begins. -/
def Cluster.restore (c : Cluster) (old : Cluster) (img : Image) (f : Slot → Bool) (mixed : Option (BitVec 16)) : Cluster :=
  { c with slots := (List.range 4).foldl (fun m n => put {} m n (if f (old.slot n) then Slot.restored (old.slot n) (look {} img.slots n) c.aclk else old.slot n)) [],
           cur := img.cur, issueAt := c.aclk, acted := 0, yielding := false, sreg := img.sreg, oag0 := img.oag0, oag1 := img.oag1, satFp := img.satFp, seed := img.seed, mixed := mixed, dbuf := img.dbuf, role := img.role,
           flight := [], vlds := [], entryW := [], capture := none, replay := some { arrived := img.arrivals } }

/-- Replays a cluster's slots in place from its current image (R465, R470). -/
def Chip.replayInPlace (ch : Chip) (k : Clock) (c : Nat) (f : Slot → Bool) (g : Stream → Bool) : Chip :=
  match (ch.cl c).lcid with
  | none => ch
  | some l =>
    let r := regionOf c
    match ((ch.rg r).mir l).current with
    | none => ch
    | some img => (ch.rewindAll k r l c g).modCl c fun x => x.restore x img f img.mixed

/-! ### Cluster substitution (R462) -/

/-- The fence: the cluster's edges stop, its epoch rises, and what it was doing for a command ends (R462, R477). -/
def Chip.fence (ch : Chip) (k : Clock) (c : Nat) : Chip :=
  let fills := ch.works.filter fun w => decide (w.kind = .fillCopy c)
  fills.foldl (fun h w => h.complete k w 0xE001 .recovering []) (ch.modCl c fun x => { x with svc := .fenced, epoch := x.epoch + 1, capture := none, opBusy := none, staged := [], acted := 0, yielding := false })

/-- A loaded table's words read again from the memory they were loaded from (R514). -/
def Chip.reloadTables (ch : Chip) (ts : List LoadedTable) : Store (BitVec 128) :=
  ts.foldl (fun m t => let es := ch.tableAt t.part t.dva t.len; (List.range es.length).foldl (fun w i => put 0 w (t.base + i) (es.getD i 0)) m) []

/-- The reserve as the failed cluster's state, its tables and its codec tables make it; its generator is reseeded from the committed seed mixed
with its own epoch (R71, R84, R289, R462). -/
def Chip.standIn (ch : Chip) (k : Clock) (old new : Cluster) (mir : Mirror) : Cluster :=
  let base : Cluster :=
    { new with svc := .owned, lcid := old.lcid, parked := old.parked, lastBeat := k.localNs, loads := old.loads, table := ch.reloadTables old.loads, codec := old.codec,
               seedLo := old.seedLo, seedHi := old.seedHi, bankPwr := old.bankPwr, opDst := old.opDst, opSrc := old.opSrc, opLen := old.opLen, opPat := old.opPat, num := {}, draws := 0 }
  match mir.current with
  | none => { base with slots := old.slots, cur := old.cur, dbuf := old.dbuf, role := old.role, satFp := old.satFp, seed := old.seed, mixed := some new.epoch }
  | some img =>
    let x := base.restore old img (fun _ => true) (some new.epoch)
    img.carry.foldl (fun y b => y.writePhys 0 b.1 b.2 (b.2.length + 1)) x

/-- The ranges of the image that memory holds are read into the reserve. -/
def Chip.rereadRanges (ch : Chip) (p c : Nat) (rs : List PlanRange) : Chip :=
  rs.foldl (fun m x => match m.readServed p x.src x.len with
    | .ok bytes => m.modCl c fun y => y.writePhys 0 x.spd bytes (bytes.length + 1)
    | .error _ => m) ch

/-- The ranges of memory a restore reads: partition, DVA and length (R462). -/
def restoreReads (p : Nat) (old : Cluster) (mir : Mirror) : List (Nat × Nat × Nat) :=
  old.loads.map (fun t => (t.part, t.dva, 16 * t.len)) ++ (match mir.current with | some img => img.dvas.map fun x => (p, x.src, x.len) | none => [])

/-- The step just begun gives way to the next. -/
def Chip.escalateLast (ch : Chip) (k : Clock) (f : FaultRec) : Chip :=
  match ch.rcv.steps.getLast? with
  | some s => ch.escalateStep k s f.cause
  | none => ch

/-- The reserve restored in the failed cluster's place; its streams are rewound (R459, R462). -/
def Chip.substituteBy (ch : Chip) (k : Clock) (l c n : Nat) (mir : Mirror) : Chip :=
  let r := regionOf c
  let old := ch.cl c
  let p := (ch.ownerOf l).getD 0
  let ch := (ch.useReserve k l c).modRg r fun g => { g with busy := true }
  let ch := (restoreReads p old mir).foldl (fun h x => h.touchDva k x.1 x.2.1 x.2.2) (ch.modCl n fun x => ch.standIn k old x mir)
  let ch := match mir.current with | some img => ch.rereadRanges p n img.dvas | none => ch
  ch.rewindAll k r l n fun _ => true

/-- The failed cluster is fenced; the region's clean reserve takes its lcid, is restored and replays. Without a reserve the step escalates; with
the log overflowed, or a word of what the restore reads lost, it escalates with the reserve in place (R26, R460, R464, log entry 77). -/
def Chip.replaceCluster (ch : Chip) (k : Clock) (c : Nat) (f : FaultRec) : Chip :=
  let r := regionOf c
  let ch := ch.fence k c
  match (ch.cl c).lcid with
  | none => ch
  | some l =>
    let mir := (ch.rg r).mir l
    match (if (ch.rg r).inUse then none else ch.reserveOf r) with
    | none => ch.escalateLast k f
    | some n =>
      if mir.overflow || (restoreReads ((ch.ownerOf l).getD 0) (ch.cl c) mir).any fun x => (ch.firstLost x.1 x.2.1 x.2.2 false).isSome then
        (ch.useReserve k l c).escalateLast k f
      else ch.substituteBy k l c n mir

/-- CLUSTER_SUBSTITUTION. -/
def execClusterSubstitution (c cause : Nat) (s : State) : Res :=
  onChip s fun k ch =>
    stepRow (.cluster c) cause (decide (cause = 6) && decide (c < 80) && (ch.cl c).beats) (fun k h f => h.replaceCluster k c f) k ch

/-! ### Stream engine reset (R465) -/

/-- A copy stream restarts from byte 0 of its active descriptor. -/
def Chip.restartCopies (ch : Chip) (r : Nat) : Chip :=
  (List.range 64).foldl (fun c n =>
    match (c.str r n).active with
    | some d => if d.dir = 2 then (c.giveUpReqs r n).modStr r n fun x => { x with handed := 0, done := 0 } else c
    | none => c) ch

/-- Every stream of the region is rewound, and every cluster with one replays in place. -/
def Chip.streamEngineReset (ch : Chip) (k : Clock) (r : Nat) (f : FaultRec) : Chip :=
  let cs := ((List.range 5).map (r * 5 + ·)).filter fun c => match (ch.cl c).lcid with | some l => !(ch.streamsOf r l).isEmpty && decide ((ch.cl c).svc = .owned) | none => false
  if cs.any fun c => match (ch.cl c).lcid with | some l => ((ch.rg r).mir l).overflow | none => false then
    ch.escalateLast k f
  else
    let ch := (ch.restartCopies r).modRg r fun g => { g with walks := [] }
    cs.foldl (fun m c => m.replayInPlace k c (fun _ => true) fun _ => true) ch

/-- STREAM_ENGINE_RESET. -/
def execStreamEngineReset (region cause : Nat) (s : State) : Res :=
  onChip s (stepRow (.streamEng region) cause (decide (cause = 9) && decide (region < 16)) fun k ch f => ch.streamEngineReset k region f)

/-! ### Reintegration (R478) -/

/-- CLUSTER_REINTEGRATION: a fenced cluster back from its collapse is tested; it becomes its region's reserve, or serves its lcid again when no
other has taken it, or is recorded as failed (R26, R478). -/
def Chip.reintegrate (ch : Chip) (k : Clock) (c : Nat) (pass : Bool) : Chip :=
  match (ch.cl c).svc with
  | .collapsing _ n 1 =>
    if n < 200 then ch
    else if pass && !(ch.cl c).rowsPending then
      let owned := (ch.ownerOfCl c).isSome
      let ch := ch.modCl c fun x => { x with svc := if owned then .owned else .clean, bistPass := true, lastBeat := k.localNs }
      (ch.modRg (regionOf c) fun g => if g.reserve.isSome || (ch.cl c).lcid.isSome then g else { g with reserve := some c, inUse := false }).notice k 1 c
    else
      let ch := ((ch.modCl c fun x => { x with bistPass := false }).recordFailed c).notice k 2 c
      match (ch.cl c).lcid with | some l => ch.useReserve k l c | none => ch
  | _ => ch

def execClusterReintegration (c : Nat) (bistPass : Bool) (s : State) : Res := onChip s fun k ch => ch.reintegrate k c bistPass

end Sys2Proof.Machine
end

