-- ==== Sys2Proof/Machine/DieReset.lean ====
section
/-! DEFINITION. Die reset, package reset and the watchdogs of the ladder (spec/16_faults_recovery.md R451 to R454; spec/08_dram_flash.md
R252 to R255; spec/01_architecture.md R28; spec/12_partitions_security.md R371). -/

namespace Sys2Proof.Machine

/-! ### Die reset (R452) -/

/-- A stack through its die's reset: it refreshes itself, so its contents stay and what it owed is discharged, until its delays are loaded at the
step's end (R252, R253, R255). -/
def Stack.dieReset (x : Stack) (ok : Bool) : Stack :=
  { x with selfRefresh := true, owed := [], rows := [], changing := none, shadow := none, failed := x.failed || !ok }

/-- A region's own state after its die's reset: its place in the repair map stays. -/
def Region.dieReset (g : Region) : Region :=
  { reserve := g.reserve, inUse := g.inUse, block := g.block, eng := { part := g.eng.part, parked := g.eng.parked } }

/-- Clusters of the die fail their BIST: they are recorded, and their lcids go to clean reserves (R24, R26, R489). -/
def Chip.dieBistFail (ch : Chip) (k : Clock) (cs : List Nat) : Chip :=
  let ch := cs.foldl (fun h c => ((h.recordFailed c).modCl c fun x => { x with bistPass := false }).modRg (regionOf c) fun g =>
    if g.reserve = some c then { g with reserve := none } else g) ch
  cs.foldl (fun h c => match (h.cl c).lcid with | some l => h.useReserve k l c | none => h) ch

/-- The clusters of a die that are tested again: those in service. -/
def Chip.dieTested (ch : Chip) (d : Nat) : List Nat :=
  ((List.range 20).map (d * 20 + ·)).filter fun c => decide ((ch.cl c).svc = .owned) || decide ((ch.cl c).svc = .clean)

/-- A change of a stack's point that its die's reset cuts short. -/
def Chip.dropPoint (ch : Chip) (k : Clock) (d : Nat) : Chip :=
  match (ch.sk d).changing with
  | some p => (match ch.works.find? fun w => decide (w.kind = .hbmPoint d p) with | some w => ch.complete k w 0xE001 .recovering [] | none => ch)
  | none => ch

/-- Everything on the die, with the partitions on it: HBM's contents and the other dies stay. -/
def Chip.dieResets (ch : Chip) (k : Clock) (d : Nat) (f : FaultRec) (selfRefresh : Bool) (patterns : List PatternErrs) (bistFail : List Nat) : Chip :=
  let ch := ch.raiseAll k 0xE031 .ok (toBe d 1 ++ toBe 4 1)
  if !selfRefresh then ch.escalateLast k f
  else
    let ch := (ch.partsOn (.die d)).foldl (fun c p => c.partitionReset k p) (ch.dropPoint k d)
    let pend := (List.range 20).any fun i => (ch.cl (d * 20 + i)).rowsPending
    let ch := (List.range 20).foldl (fun c i => c.modCl (d * 20 + i) fun x => { x.collapsed with parked := x.parked, lastBeat := k.localNs }) ch
    let ch := (List.range 4).foldl (fun c i => c.modRg (d * 4 + i) Region.dieReset) ch
    let ch := { ch with boot := { ch.boot with repairDirty := ch.boot.repairDirty || pend } }
    let ch := ch.dieBistFail k ((ch.dieTested d).filter bistFail.contains)
    ch.pickDelays.modSk d fun x => x.dieReset !(patternBad patterns d)

/-- DIE_RESET: selfRefresh says whether the stack reached self-refresh within 10 µs, patterns what the pattern check of its stack
counted, bistFail which clusters failed BIST. -/
def execDieReset (d cause : Nat) (selfRefresh : Bool) (patterns : List PatternErrs) (bistFail : List Nat) (s : State) : Res :=
  onChip s (stepRow (.die d) cause (decide (cause = 12) && decide (d < 4)) fun k ch f => ch.dieResets k d f selfRefresh patterns bistFail)

/-! ### Package reset (R452) -/

/-- PACKAGE_RESET: of the fault at the head of the package queue, or detected here by the power controller. -/
def execPackageReset (cause : Nat) (s : State) : Res :=
  onAll s fun k m ch =>
    if m.st ≠ .on then (k, m, ch)
    else match ch.takeFault .package cause with
      | some (f, _, c) => (k.afterReset, m, c.packageReset k cause f.detail)
      | none => if cause = 13 then (k.afterReset, m, (ch.faultEvent k (ch.partsOn .package) 13 0 .package 0).packageReset k 13 0) else (k, m, ch)

/-! ### Watchdogs (R451, R453, R454) -/

/-- The watchdog of a step in ns. -/
def stepWatchdog (code : Nat) : Nat := [0, 40000, 200000, 40000000, 3000000000, 8000000000].getD code 0

/-- STEP_WATCHDOG_EXPIRY: the step is abandoned for the next; after a package reset a power cycle is asked for. -/
def execStepWatchdogExpiry (id : Nat) (s : State) : Res :=
  onModule s fun k m ch =>
    match ch.rcv.steps.find? fun x => x.id = id with
    | none => (m, ch)
    | some x =>
      if k.localNs < x.startNs + stepWatchdog x.unit.code then (m, ch)
      else if x.unit = .package then ({ m with pcReq := true }, { ch with rcv := { ch.rcv with steps := ch.rcv.steps.filter fun y => y.id ≠ id } })
      else (m, ch.escalateStep k x 14)

/-- MGMT_START_TIMEOUT: the management controller has not started 8 s after a package reset. -/
def execMgmtStartTimeout (s : State) : Res :=
  onModule s fun k m ch =>
    match ch.rcv.resetAt with
    | some t => if decide (t + 8000000000 ≤ k.localNs) && !ch.boot.mgmtStarted then ({ m with pcReq := true }, { ch with rcv := { ch.rcv with resetAt := none } }) else (m, ch)
    | none => (m, ch)

end Sys2Proof.Machine
end

