-- ==== Sys2Proof/Machine/Dram.lean ====
section
/-! DEFINITION. Refresh, the maintenance window and the data-rate points of the HBM stacks (spec/08_dram_flash.md R244, R249 to R258). -/

namespace Sys2Proof.Machine

/-! ### Places in a stack (R244, R250) -/

/-- The pseudo-channel and refresh group of each bank that an access to a physical range needs (R244, R250). -/
def groupsOf (a n : Nat) : List (Nat × Nat) := ((burstsOf a n).map fun b => (b.1, bankOfBurst b.2 / 4)).eraseDups

/-- Whether a request, queued or in flight, to a refresh group belongs to a stream whose dry instant lies within the risk horizon (R251). -/
def Chip.atRisk (ch : Chip) (k : Clock) (s pch group : Nat) : Bool :=
  ch.regions.any fun g => g.2.streams.any fun e =>
    (match e.2.dry with | some d => decide (d < (k.timebase + (ch.sk s).riskNs) * dryUnit) | none => false) &&
    e.2.reqs.any fun q => match q.phys with
      | some a => decide (stackOf a = s) && decide ((pch, group) ∈ groupsOf a q.len)
      | none => false

/-- Above 85 °C a stack's limits are tighter (R250, R251). -/
def Chip.stackHot (ch : Chip) (s : Nat) : Bool := decide (85 < (ch.die s).stackTemp)

def Chip.owedLimit (ch : Chip) (s : Nat) : Nat := if ch.stackHot s then 4 else 8

/-- Whether a stack is refreshed group by group: not while it refreshes itself, or is out of service. -/
def Chip.refreshes (ch : Chip) (s : Nat) : Bool :=
  ch.ready && decide (s < 4) && !(ch.sk s).failed && !(ch.sk s).selfRefresh && (ch.sk s).changing.isNone

/-! ### Refresh (R250 to R252) -/

/-- The key of a group's owed count. -/
def groupKey (pch group : Nat) : Nat := pch * 12 + group

/-- A stack's refresh interval: halved above 85 °C (R250). -/
def Chip.refInterval (ch : Chip) (s : Nat) : Nat := if ch.stackHot s then max 1 ((ch.sk s).interval / 2) else max 1 (ch.sk s).interval

/-- The last due time of a refresh group: group g falls due at the timebases that are g twelfths of the interval past a multiple of it
(R250, log entry 78). -/
def lastDue (interval group now : Nat) : Option Nat :=
  let off := group * interval / 12
  if now < off then none else some (off + (now - off) / interval * interval)

/-- A refresh closes the open rows of the group's four banks (R248). -/
def Stack.closeGroup (x : Stack) (pch group : Nat) : Stack :=
  { x with rows := (List.range 4).foldl (fun m i => put 0 m (pch * 48 + group * 4 + i) 0) x.rows }

/-- Whether a group's refresh may be postponed at its due time (R251). -/
def Chip.postpones (ch : Chip) (k : Clock) (s pch group : Nat) : Bool :=
  (ch.sk s).postEn && !ch.stackShared s && ch.atRisk k s pch group && decide (look 0 (ch.sk s).owed (groupKey pch group) < ch.owedLimit s)

/-- HBM_REFRESH_DUE: the group's last due time, when it has not been met, is met: the refresh is made, or postponed and owed. -/
def Chip.refreshDue (ch : Chip) (k : Clock) (s pch group : Nat) : Chip :=
  let x := ch.sk s
  let key := groupKey pch group
  match lastDue (ch.refInterval s) group k.timebase with
  | none => ch
  | some t =>
    if !ch.refreshes s || 32 ≤ pch || 12 ≤ group || t < look 0 x.refAt key then ch
    else
      let n := look 0 x.owed key
      let ch := ch.modSk s fun y => { y with refAt := put 0 y.refAt key (t + 1) }
      if ch.postpones k s pch group then ch.modSk s fun y => { y with owed := put 0 y.owed key (n + 1), owedPeak := max y.owedPeak (n + 1) }
      else ch.modSk s fun y => y.closeGroup pch group

def execHbmRefreshDue (stack pch group : Nat) (s : State) : Res := onChip s fun k ch => ch.refreshDue k stack pch group

/-- REFRESH_MAKEUP_BURST: with no request at risk a group makes up all it owes; above 85 °C it makes up at once what it owes over 4. -/
def Chip.makeupBurst (ch : Chip) (k : Clock) (s pch group : Nat) : Chip :=
  let n := look 0 (ch.sk s).owed (groupKey pch group)
  let left_ (m : Nat) : Chip := ch.modSk s fun y => { y.closeGroup pch group with owed := put 0 y.owed (groupKey pch group) m, makeups := satTo 0xFFFF (y.makeups + 1) }
  if n = 0 || !ch.refreshes s then ch
  else if !ch.atRisk k s pch group then left_ 0
  else if ch.stackHot s && decide (4 < n) then left_ 4
  else ch

def execRefreshMakeupBurst (stack pch group : Nat) (s : State) : Res := onChip s fun k ch => ch.makeupBurst k stack pch group

/-! ### The maintenance window (R249, R254, R258) -/

/-- Chunks of a stack, and the ns in which the patrol reads each once. -/
def stackChunks : Nat := 67108864
def patrolDay : Nat := 86400000000000

/-- An uncorrectable chunk of the patrol: the owning partition and the management partition hear of cause 3 at its address. -/
def Chip.patrolFault (ch : Chip) (k : Clock) (a : Nat) : Chip :=
  let owner := match (ch.fr (a / 65536)).use with | .used p => [p] | _ => []
  ((owner ++ [0]).eraseDups).foldl (fun c p =>
    c.raise k p 0xE016 .recovering 0 (toBe 3 2 ++ zeros 2 ++ toBe 0xFFFFFFFF 4 ++ [0xFF, BitVec.ofNat 8 (stackOf a), 0xFF, 0] ++ toBe a 8)) ch

/-- The patrol reads a chunk: a corrected word is written back, an uncorrectable one is handled as any read of it. -/
def Chip.patrolChunk (ch : Chip) (k : Clock) (a : Nat) : Chip :=
  let one := (wordsOf a 512).filter fun w => decide (ch.errsAt (w * 32) = 1)
  let lost := ch.lostPhys a 512
  let c := ch.touchPhys k a 512
  let c := { c with hbmErr := one.foldl (fun m w => put 0 m w 0) c.hbmErr }
  if lost then c.patrolFault k a else c

/-- The local ns at which the next chunk of a pass is due. -/
def Stack.patrolDue (x : Stack) : Nat := x.patrolFrom + x.patrol * patrolDay / stackChunks

/-- The start of the window that a pseudo-channel's grid of 3,900 ns places now, when it has not begun: the first window fixes the grid
(R249, log entry 79). -/
def Stack.newWindow (x : Stack) (k : Clock) (pch : Nat) : Option Nat :=
  let t := look 0 x.windows pch
  if t = 0 then some k.timebase
  else
    let s := t - 1 + (k.timebase - (t - 1)) / 3900 * 3900
    if s = t - 1 || s + 200 ≤ k.timebase then none else some s

/-- MAINTENANCE_WINDOW: the pseudo-channel's window begins, in which the patrol reads its chunk when that is the next and due. -/
def Chip.maintenance (ch : Chip) (k : Clock) (s pch : Nat) : Chip :=
  match (ch.sk s).newWindow k pch with
  | none => ch
  | some t =>
    if !ch.refreshes s || 32 ≤ pch then ch
    else
      let ch := ch.modSk s fun y => { y with windows := put 0 y.windows pch (t + 1) }
      let x := ch.sk s
      if x.patrol % 32 ≠ pch || k.localNs < x.patrolDue then ch
      else
        (ch.patrolChunk k (s * 2 ^ 35 + x.patrol * 512)).modSk s fun y =>
          if y.patrol + 1 < stackChunks then { y with patrol := y.patrol + 1 }
          else { y with patrol := 0, patrolFrom := y.patrolFrom + patrolDay, passes := satTo 0xFFFF (y.passes + 1) }

def execMaintenanceWindow (stack pch : Nat) (s : State) : Res := onChip s fun k ch => ch.maintenance k stack pch

/-- DRIVE_STRENGTH_CALIBRATION: every 100 ms, in a maintenance window; it refreshes impedances alone, so its instant is all that changes
(R249, R254). -/
def execDriveStrengthCalibration (stack : Nat) (s : State) : Res :=
  onChip s fun k ch =>
    if ch.refreshes stack && (List.range 32).any ((ch.sk stack).inWindow k) && decide ((ch.sk stack).calAt + 100000000 ≤ k.localNs) then ch.modSk stack fun y => { y with calAt := k.localNs } else ch

/-! ### Data-rate points (R256, R257) -/

/-- Firmware loads the delay set of a point into the shadow registers, when the delay record holds one. -/
def Stack.loadShadow (x : Stack) (point : Nat) : Stack := if x.sets.getLsbD point then { x with shadow := some point } else x

/-- HBM_POINT: the change starts, and the stack's positions are granted no more. -/
def execHbmPoint (q : Req) (s : State) : Res :=
  onChip s (runCmd 0x0703 q fun k ch =>
    let st := beAt q.payload 0 1
    let point := beAt q.payload 1 1
    let x := (ch.sk st).loadShadow point
    checked [ (decide (3 < st), (.badField, some 0)), (decide (3 < point), (.badField, some 1)), reserved q 2 2,
              (decide (x.shadow ≠ some point) || x.failed || x.selfRefresh || x.changing.isSome, (.notReady, none)), ch.worksFull q ]
      ((ch.modSk st fun _ => { x with changing := some point }).acceptReply k q 0x0703 (.hbmPoint st point) []))

/-- Whether a request or a walk read already granted still waits for a stack. -/
def Chip.inFlightOn (ch : Chip) (s : Nat) : Bool :=
  ch.regions.any fun g =>
    (g.2.streams.any fun e => e.2.reqs.any fun q => q.granted && (match q.phys with | some a => decide (stackOf a = s) | none => false)) ||
    g.2.walks.any fun w => (w.addrs.take (w.addrs.length - w.reads.length)).any fun a => decide (stackOf a = s)

/-- HBM_POINT_CHANGE_COMPLETE: the requests in flight done, the banks precharged, the shadow sets are active and the delays written again;
self-refresh has discharged what was owed (R248, R252, R253, R257). -/
def Chip.pointChanged (ch : Chip) (k : Clock) (s : Nat) : Chip :=
  match (ch.sk s).changing with
  | none => ch
  | some p =>
    if ch.inFlightOn s then ch
    else
      let ch := (ch.reloadDelays s).modSk s fun x => { x with point := p, setPoint := p, changing := none, shadow := none, owed := [], rows := [] }
      match ch.works.find? fun w => decide (w.kind = .hbmPoint s p) with
      | some w => ch.complete k w 0xE001 .ok []
      | none => ch

def execHbmPointChangeComplete (stack : Nat) (s : State) : Res := onChip s fun k ch => ch.pointChanged k stack

end Sys2Proof.Machine
end

