-- ==== Sys2Proof/Machine/Fabric.lean ====
section
/-! DEFINITION. Jobs, flows, barriers across packages and collectives (spec/14_fabric.md R405 to R422). -/

namespace Sys2Proof.Machine

/-! ### Jobs (R408, R413, R414, R417) -/

structure JobReq where
  job : Nat
  root : Nat
  bars : Nat
  weight : Nat
  flows : Nat
  timeout : Nat
  members : List Nat
  nwin : Nat
  ncoll : Nat
  coll : Nat
  windows : List Window
  deriving DecidableEq, Repr

def jobReq (b : List Byte) : JobReq :=
  let nwin := beAt b 80 1
  { job := beAt b 0 2, root := beAt b 2 2, bars := beAt b 4 4, weight := beAt b 8 1, flows := beAt b 10 2, timeout := beAt b 12 4,
    members := (List.range 512).filter fun d => bitAt (beAt b (16 + d / 8) 1) (d % 8), nwin := nwin, ncoll := beAt b 82 2, coll := beAt b 88 8,
    windows := (List.range nwin).map fun i => let o := 96 + 32 * i; { dva := beAt b o 8, len := beAt b (o + 8) 8, dev := beAt b (o + 16) 2, rdva := beAt b (o + 24) 8 } }

/-- A collective entry of 48 bytes (R420). -/
def collEntry (b : List Byte) : CollEntry :=
  { op := leAt b 0 1, dtype := leAt b 1 1, bar := leAt b 2 1, codec := bitAt (leAt b 3 1) 0, width := bitsAt (leAt b 3 1) 1 1, src := leAt b 8 8, dst := leAt b 16 8,
    len := leAt b 24 8, table := leAt b 32 8, region := leAt b 40 1, sem := leAt b 41 1, n := leAt b 42 1 }

/-- Whether a collective entry breaks R420 for a job that binds some barriers. -/
def collBad (b : List Byte) (bars : Nat) : Bool :=
  let e := collEntry b
  decide (e.op = 0) || decide (2 < e.op) || decide (2 < e.dtype) || decide (32 ≤ e.bar) || !bitAt bars e.bar || decide (4 ≤ leAt b 3 1) || decide (leAt b 4 4 ≠ 0) ||
  decide (e.len % 4096 ≠ 0) || decide (16 ≤ e.region) || decide (e.n = 0) || decide (63 < e.n) || decide (slice b 43 5 ≠ zeros 5)

/-- Whether a device id lies in the system's shape. -/
def Fabric.inShape (f : Fabric) (d : Nat) : Bool := decide (coord d 0 < f.xs) && decide (coord d 1 < f.ys) && decide (coord d 2 < f.zs) && decide (d < 512)

/-- Whether windows are not of whole 64 KiB pages, or overlap one another or mapped pages (R413, R414). -/
def windowsBad (x : Partition) (ws : List Window) : Bool :=
  ws.any fun w => decide (w.dva % 65536 ≠ 0) || decide (w.len % 65536 ≠ 0) || decide (w.rdva % 65536 ≠ 0) ||
    (x.pages.any fun g => g.2.v && overlaps (g.1 * 65536) 65536 w.dva w.len) || decide (1 < (ws.filter fun v => overlaps v.dva v.len w.dva w.len).length)

/-- Whether a window is longer than the DVA space behind it at either end (R15, R414). -/
def windowsLong (ws : List Window) : Bool := ws.any fun w => decide (2 ^ 48 < w.dva + w.len) || decide (2 ^ 48 < w.rdva + w.len)

/-- The table DVAs that collectives code with. -/
def collTables (es : List CollEntry) : List Nat := ((es.filter fun e => e.codec && decide (e.table ≠ 0)).map (·.table)).eraseDups

/-- The lowest free job slot. -/
def Fabric.freeJob (f : Fabric) : Option Nat := (List.range 64).find? fun n => !(look {} f.jobs n).valid

/-- The barrier ids a job binds. -/
def barsOf (m : Nat) : List Nat := (List.range 32).filter (bitAt m)

def jobChecks (q : Req) (ch : Chip) : List (Bool × Refuse) :=
  let b := q.payload
  let j := jobReq b
  let x := ch.pt q.part
  let f := ch.fabric
  let raw := ch.readDva q.part j.coll (48 * j.ncoll)
  let es := (List.range j.ncoll).map fun i => slice raw (48 * i) 48
  let flows := (f.jobs.filter fun e => e.2.valid).map fun e => e.2.flows
  let tabs := (f.jobs.filter fun e => e.2.valid).map fun e => e.2.tables.length
  [ (!(x.jobKeys.any fun k => decide (k.1 = j.job)), (.notReady, some 0)),
    (decide (f.selfId ∉ j.members), (.badField, some 16)), (decide (j.root ∉ j.members), (.badField, some 2)), (j.members.any fun d => !f.inShape d, (.badField, some 16)),
    (decide (j.weight = 0) || decide (64 < j.weight), (.badField, some 8)), reserved q 9 1, reserved q 81 1, reserved q 84 4,
    ((List.range j.nwin).any fun i => decide (slice b (96 + 32 * i + 18) 6 ≠ zeros 6), (.badField, some 96)), (windowsBad x j.windows, (.badField, some 96)),
    (j.windows.any fun w => decide (w.dev ∉ j.members) || decide (w.dev = f.selfId), (.badField, some 96)),
    ((ch.jobSlot j.job).isSome, (.badField, some 0)), (es.any fun e => collBad e j.bars, (.badField, some 88)),
    (decide (j.flows = 0), (.badField, some 10)),
    (decide (4096 < j.flows), (.lengthRange, some 10)), (decide (4000000 < j.timeout), (.lengthRange, some 12)), (decide (256 < j.ncoll), (.lengthRange, some 82)),
    (decide (16 < j.nwin) || decide (b.length ≠ 96 + 32 * j.nwin), (.lengthRange, some 80)), (es.any fun e => decide (2 ^ 32 ≤ (collEntry e).len), (.lengthRange, some 88)),
    (windowsLong j.windows, (.lengthRange, some 96)),
    ((barsOf j.bars).any fun n => (x.bar n).job.isSome, (.notPermitted, some 4)),
    (decide (0 < j.ncoll) && x.rangeBad j.coll (48 * j.ncoll) false, (.notPermitted, some 88)),
    (es.any fun e => !x.ownsSem (collEntry e).region (collEntry e).sem, (.notPermitted, some 88)),
    ((collTables (es.map collEntry)).any fun t => x.rangeBad t 144 false, (.notPermitted, some 88)),
    ((collTables (es.map collEntry)).any fun t => !imgValid (ch.readDva q.part t 144), (.badField, some 88)),
    ((barsOf j.bars).any fun n => decide ((x.bar n).arrived ≠ 0), (.notReady, some 4)),
    (decide (4096 < j.flows + flows.sum), (.noResource, some 10)), (decide (8 < (collTables (es.map collEntry)).length + tabs.sum), (.noResource, some 88)), (f.freeJob.isNone, (.noResource, none)) ]

/-- The traffic key of a source for a job (R408). -/
def trafficKeyOf (jobKey setup : List Byte) (self : Nat) : List Byte :=
  Config.hkdf jobKey setup (([0x53, 0x4B, 0x4F, 0x49, 0x4B, 0x2D, 0x4A, 0x31] : List Byte) ++ toBe self 2) 32

/-- An epoch notice to one member: authenticated under the job key with a nonce drawn at random (R408). -/
def Chip.sendNotice (ch : Chip) (j : Job) (dst : Nat) : Chip :=
  let nonce := Config.random ch.sec.randoms 12
  let h : FrameHdr := { type := 4, srcEpoch := ch.fabric.epoch.toNat, src := ch.fabric.selfId, dst := dst, job := j.job, length := 48 }
  let payload := j.setupVal ++ nonce ++ zeros 4
  { ch with sec := { ch.sec with randoms := ch.sec.randoms + 1 } }.sendFrame h (payload ++ Config.gcmSeal j.jobKey nonce (frameAad h ++ payload) [])

/-- A barrier is bound to a job at generation 0: neither the images nor the replays of its members record an arrival at it since (R209,
R414). -/
def Chip.bindBar (ch : Chip) (p b job : Nat) : Chip :=
  let x := (ch.pt p).bar b
  let forget (l : Store Nat) : Store Nat := put 0 l b 0
  let image (m : Image) : Image := { m with arrivals := forget m.arrivals }
  ((List.range 64).filter fun l => x.mask.getLsbD l).foldl (fun c l =>
    let c := c.modMir (c.regionOfLcid l) l fun m => { m with current := m.current.map image }
    match c.pcid l with
    | some n => c.modCl n fun y => { y with replay := y.replay.map fun r => { r with arrived := forget r.arrived } }
    | none => c) (ch.modBar p b fun y => { mask := y.mask, job := some job })

/-- An accepted JOB_SETUP: a fresh setup value, its traffic key, the barriers bound at generation 0, and a notice to every other member. -/
def Chip.setupJob (ch : Chip) (q : Req) (slot : Nat) : Chip :=
  let r := jobReq q.payload
  let x := ch.pt q.part
  let key := match x.jobKeys.find? fun k => k.1 = r.job with | some k => k.2 | none => []
  let raw := ch.readDva q.part r.coll (48 * r.ncoll)
  let es := (List.range r.ncoll).map fun i => collEntry (slice raw (48 * i) 48)
  let setup := Config.random ch.sec.randoms 32
  let j : Job :=
    { valid := true, part := q.part, job := r.job, root := r.root, bars := BitVec.ofNat 32 r.bars, weight := r.weight, flows := r.flows, timeout := r.timeout, members := r.members,
      windows := r.windows, colls := es, tables := (collTables es).map fun t => (t, ch.readDva q.part t 144), jobKey := key, setupVal := setup, trafficKey := trafficKeyOf key setup ch.fabric.selfId }
  let ch := { ch with sec := { ch.sec with randoms := ch.sec.randoms + 1 }, fabric := { ch.fabric with jobs := put {} ch.fabric.jobs slot j, flows := ch.fabric.flows.filter fun f => f.job ≠ r.job } }
  let ch := (barsOf r.bars).foldl (fun c b => c.bindBar q.part b r.job) ch
  (r.members.filter fun d => d ≠ ch.fabric.selfId).foldl (fun c d => c.sendNotice j d) ch

/-- JOB_SETUP (R413, R414). -/
def execJobSetup (q : Req) (s : State) : Res :=
  onChip s (runCmd 0x0A01 q fun _ ch =>
    match firstFail (jobChecks q ch), ch.fabric.freeJob with
    | some r, _ => .error r
    | none, some n => .ok ((ch.setupJob q n).reply q .ok [])
    | none, none => .error (.noResource, none))

/-! ### Flows and their users (R411) -/

/-- The flow of collective entry i of a job. -/
def collFlow (i : Nat) : Nat := 3072 + i

/-- Whether a request of a stream goes to a device through a window of a job (R415). -/
def Chip.toDevice (ch : Chip) (job dev : Nat) (q : StreamReq) : Bool :=
  match q.window with
  | some w => decide (w.1 = job) && decide (((ch.jobSlot job).bind fun j => (j.2.windows[w.2]?).map (·.dev)) = some dev)
  | none => false

/-- A flow fails and its user hears of it: a window's stream stops with cause 1, a peer fetch's try fails, a collective fails (R411). -/
def Chip.failFlow (ch : Chip) (k : Clock) (job peer flow : Nat) : Chip :=
  let ch := ch.modFlow job peer flow true fun f => { f with failed := true, kept := [] }
  if flow < 1024 then
    (if (ch.str (flow / 64) (flow % 64)).reqs.any (ch.toDevice job peer) then ch.stopStream k (flow / 64) (flow % 64) 1 else ch)
  else if 3072 ≤ flow then
    { ch with fabric := { ch.fabric with colls := ch.fabric.colls.map fun c => if c.job = job ∧ c.started ∧ collFlow c.idx = flow then { c with failed := true } else c } }
  else
    let h := (flow - 1024) / 2
    let e := (flow - 1024) % 2
    if 16 ≤ h then ch
    else
      let ep := (ch.mdl h).ep e
      match (List.range ep.nshards).find? fun i => (ep.shard i).trying && decide ((ep.shard i).source = 1) && decide (ch.peerFor ep (ep.shard i) = some peer) with
      | some i => ch.tryFailed k h e i Status.shardUnavailable.code
      | none => ch

/-- A kept frame sent once more over the route in force; after five sendings its flow fails. -/
def Chip.resendKept (ch : Chip) (k : Clock) (job peer flow fseq : Nat) : Chip :=
  match ch.jobSlot job, ch.flow? job peer flow true with
  | some (_, j), some f =>
    match f.kept.find? fun x => x.fseq = fseq with
    | none => ch
    | some x =>
      if 5 ≤ x.sends then ch.failFlow k job peer flow
      else
        let ch := ch.modFlow job peer flow true fun g => { g with kept := g.kept.map fun y => if y.fseq = fseq then { y with sends := y.sends + 1, sentAt := k.localNs } else y }
        ch.sealFrame j peer flow fseq x.codec x.payload
  | _, _ => ch

/-- FLOW_ACKNOWLEDGE: everything to fseq has arrived; a stream's writes it covers have landed (R411, R415). -/
def Chip.flowAck (ch : Chip) (job dst flow fseq : Nat) : Chip :=
  match ch.flow? job dst flow true with
  | none => ch
  | some f =>
    if f.failed || f.nextSeq ≤ fseq then ch
    else
      let c := ch.modFlow job dst flow true fun g => { g with kept := g.kept.filter fun x => decide (fseq < x.fseq) }
      let land : StreamReq → StreamReq := fun q => if q.write && ch.toDevice job dst q && decide (q.await ≤ fseq + 1) && q.granted then { q with await := 0 } else q
      if 1024 ≤ flow then c else c.modStr (flow / 64) (flow % 64) fun x => { x with reqs := x.reqs.map land }

def execFlowAcknowledge (job dst flow fseq : Nat) (s : State) : Res := onChip s fun _ ch => ch.flowAck job dst flow fseq

/-- FLOW_NEGATIVE_ACKNOWLEDGE: the notice goes again to that member, and the frame is resent (R408, R411). -/
def Chip.flowNack (ch : Chip) (k : Clock) (job dst flow fseq : Nat) : Chip :=
  match ch.jobSlot job, ch.flow? job dst flow true with
  | some (_, j), some f => if f.kept.any fun x => x.fseq = fseq then (ch.sendNotice j dst).resendKept k job dst flow fseq else ch
  | _, _ => ch

def execFlowNegativeAcknowledge (job dst flow fseq : Nat) (s : State) : Res := onChip s fun k ch => ch.flowNack k job dst flow fseq

/-- FLOW_RESEND_TIMER: 50 µs without an acknowledgement. -/
def Chip.flowTimer (ch : Chip) (k : Clock) (job dst flow fseq : Nat) : Chip :=
  match ch.flow? job dst flow true with
  | none => ch
  | some f =>
    match f.kept.find? fun x => x.fseq = fseq with
    | some x => if x.sentAt + 50000 ≤ k.localNs then ch.resendKept k job dst flow fseq else ch
    | none => ch

def execFlowResendTimer (job dst flow fseq : Nat) (s : State) : Res := onChip s fun k ch => ch.flowTimer k job dst flow fseq

/-! ### Data frames at their destination (R407, R411, R412, R415) -/

/-- What a window request does at its target: read data to go back, a write made, or a fault, which draws a negative acknowledgement. -/
def Chip.serveWindow (ch : Chip) (k : Clock) (j : Job) (src kind r st dva len : Nat) (data : List Byte) : Option Chip :=
  let p := j.part
  if (ch.pt p).rangeBad dva len (decide (kind = 3)) then none
  else if kind = 3 then (if (ch.firstLost p dva len true).isSome then none else some (ch.writeDva k p dva (data.take len)))
  else if (ch.firstLost p dva len false).isSome then none
  else ((ch.touchDva k p dva len).flowSend k j src (streamFlow r st) false (flowMsg 2 r st dva len (ch.readDva p dva len))).map (·.2)

/-- Read data of a window comes back to its stream's request. -/
def Chip.windowData (ch : Chip) (job src r st dva : Nat) (data : List Byte) : Chip :=
  let mine : StreamReq → Bool := fun q => !q.write && decide (0 < q.await) && ch.toDevice job src q &&
    (match q.window.bind fun w => (ch.jobSlot job).bind fun j => j.2.windows[w.2]? with | some w => decide (w.rdva + (q.dva - w.dva) = dva) | none => false)
  ch.modStr r st fun x => { x with reqs := takeFirst mine (fun q => { q with data := data.take q.len, await := 0 }) x.reqs }

/-- One frame of a flow is delivered: none when it draws a negative acknowledgement. -/
def Chip.deliver (ch : Chip) (k : Clock) (j : Job) (src flow : Nat) (codec : Bool) (payload : List Byte) : Option Chip :=
  let hear (ch : Chip) : Chip := { ch with fabric := { ch.fabric with delivered := ch.fabric.delivered ++ [(j.job, src, flow, payload)] } }
  if 3072 ≤ flow then
    if !codec then some (hear ch)
    else
      let img : Option (List Byte) := (j.colls[flow - 3072]?).bind fun e => (j.tables.find? fun t => t.1 = e.table).map (·.2)
      match checkBlock payload 4128 img with
      | .pass raw => some { ch with fabric := { ch.fabric with delivered := ch.fabric.delivered ++ [(j.job, src, flow, raw)] } }
      | _ => none
  else
    let kind := beAt payload 0 1
    let r := beAt payload 1 1
    let st := beAt payload 2 1
    let dva := beAt payload 4 8
    let len := beAt payload 12 4
    let data := payload.drop 16
    let model := beAt data 0 8
    let rev := beAt data 8 4
    let sh := beAt data 12 2
    match kind with
    | 1 => ch.serveWindow k j src 1 r st dva len data
    | 2 => some (ch.windowData j.job src r st dva data)
    | 3 => ch.serveWindow k j src 3 r st dva len data
    | 4 => some (ch.servePeer k j.job src model rev sh)
    | 5 => some (ch.peerData k j.part src false model rev sh (data.drop 14))
    | 6 => some (ch.peerData k j.part src true model rev sh [])
    | 7 => some (ch.peerMismatch k j.job src model rev sh)
    | _ => some ch

/-- An acknowledgement or negative acknowledgement of a flow goes back to its source. -/
def Chip.answerFlow (ch : Chip) (job src flow fseq : Nat) (nack : Bool) : Chip :=
  ch.sendFrame { type := if nack then 2 else 1, srcEpoch := ch.fabric.epoch.toNat, src := ch.fabric.selfId, dst := src, job := job, flow := flow, fseq := fseq } []

/-- The frames that were held ahead of a gap and follow now. -/
def Chip.drain (ch : Chip) (k : Clock) (j : Job) (src flow : Nat) : Nat → Chip
  | 0 => ch
  | fuel + 1 =>
    match ch.flow? j.job src flow false with
    | none => ch
    | some f =>
      match f.ahead.find? fun x => x.1 / 2 = f.nextSeq with
      | none => ch
      | some x =>
        let ch := ch.modFlow j.job src flow false fun g => { g with ahead := g.ahead.erase x }
        match ch.deliver k j src flow (decide (x.1 % 2 = 1)) x.2 with
        | none => ch.answerFlow j.job src flow f.nextSeq true
        | some c => (c.modFlow j.job src flow false fun g => { g with nextSeq := g.nextSeq + 1 }).drain k j src flow fuel

/-- A data frame of a job set up here, in its flow's order. -/
def Chip.flowFrame (ch : Chip) (k : Clock) (j : Job) (h : FrameHdr) (payload : List Byte) : Chip :=
  match ch.openFlow j h.src h.flow false with
  | none => ch
  | some ch =>
    match ch.flow? j.job h.src h.flow false with
    | none => ch
    | some f =>
      if h.fseq < f.nextSeq then ch.answerFlow j.job h.src h.flow (f.nextSeq - 1) false
      else if f.nextSeq < h.fseq then
        (if f.ahead.length < 64 && !(f.ahead.any fun x => decide (x.1 / 2 = h.fseq)) then ch.modFlow j.job h.src h.flow false fun g => { g with ahead := g.ahead ++ [(h.fseq * 2 + optBool h.codec, payload)] } else ch)
      else match ch.deliver k j h.src h.flow h.codec payload with
        | none => ch.answerFlow j.job h.src h.flow h.fseq true
        | some c =>
          let c := (c.modFlow j.job h.src h.flow false fun g => { g with nextSeq := g.nextSeq + 1 }).drain k j h.src h.flow 64
          match c.flow? j.job h.src h.flow false with
          | some g => c.answerFlow j.job h.src h.flow (g.nextSeq - 1) false
          | none => c

/-- What the port codec that received a frame makes of its payload: a stored block of a flow below the collectives' is expanded with the
port's tables; none: the block fails its check (R267, R284). -/
def Chip.portExpand (ch : Chip) (port : Nat) (h : FrameHdr) (payload : List Byte) : Option (List Byte) :=
  if !h.codec || decide (3072 ≤ h.flow) then some payload
  else
    let s := look {} (ch.prt port).codec (hdrSlot payload)
    match checkBlock payload 4128 (if s.valid then some s.image else none) with
    | .pass raw => some raw
    | _ => none

/-- A package refuses fabric traffic of a job it has not been set up for, and the management partition hears of it (R31). -/
def Chip.refuseJob (ch : Chip) (k : Clock) (job : Nat) : Chip := ch.notice k 5 job

/-- A data frame for this device (R407, R411, R412): an unknown job is refused with an event (R31), a stale epoch drops it, a tag or a
block that fails draws a negative acknowledgement. -/
def Chip.dataHere (ch : Chip) (k : Clock) (port : Nat) (bs : List Byte) : Chip :=
  let h := frameHdr bs
  match ch.jobSlot h.job with
  | none => ch.refuseJob k h.job
  | some (_, j) =>
    let nack := ch.answerFlow h.job h.src h.flow h.fseq true
    if (look [] j.peerKeys h.src).isEmpty then nack
    else if look none ch.fabric.srcEpochs h.src ≠ some h.srcEpoch then ch
    else match Config.gcmOpen (look [] j.peerKeys h.src) (frameNonce h.job h.src h.flow h.fseq) (slice bs 1 17) (bs.drop 32) with
      | none => nack
      | some payload =>
        match ch.portExpand port h payload with
        | none => nack
        | some raw => ch.flowFrame k j h raw

/-! ### Epoch notices (R408, R412) -/

/-- A notice for this device: verified, its source's traffic key derived and its epoch learned. -/
def Chip.noticeHere (ch : Chip) (k : Clock) (bs : List Byte) : Chip :=
  let h := frameHdr bs
  match ch.jobSlot h.job with
  | none => ch.refuseJob k h.job
  | some (n, j) =>
    let payload := slice bs 32 48
    if bs.length ≠ 96 || h.src ∉ j.members || Config.gcmOpen j.jobKey (slice payload 32 12) (slice bs 1 17 ++ payload) (bs.drop 80) ≠ some [] then ch
    else
      let key := trafficKeyOf j.jobKey (payload.take 32) h.src
      let fresh := decide (look [] j.peerKeys h.src ≠ key)
      { ch with fabric := { ch.fabric with
        jobs := put {} ch.fabric.jobs n { j with peerKeys := put [] j.peerKeys h.src key },
        srcEpochs := put none ch.fabric.srcEpochs h.src (some h.srcEpoch),
        flows := if fresh then ch.fabric.flows.filter fun f => !(decide (f.job = h.job) && decide (f.peer = h.src) && !f.outbound) else ch.fabric.flows } }

/-! ### Collectives (R420 to R422) -/

/-- The chunks of a collective's source: raw, or coded with the entry's table. -/
def Collective.chunks (c : Collective) (j : Job) (src : List Byte) : List (Bool × List Byte) :=
  (List.range (c.entry.len / 4096)).map fun i =>
    let raw := slice src (4096 * i) 4096
    match (if c.entry.codec then (j.tables.find? fun t => t.1 = c.entry.table).map (·.2) else none) with
    | some img => (true, storeBlock img 0 raw)
    | none => (false, raw)

/-- The next collective of a job starts: it sends its data to every other member. -/
def Chip.startColl (ch : Chip) (k : Clock) (job : Nat) : Chip :=
  match ch.fabric.colls.find? fun c => c.job = job, ch.jobSlot job with
  | some c, some (_, j) =>
    if c.started then ch
    else
      let set (ch : Chip) (bad : Bool) : Chip := { ch with fabric := { ch.fabric with colls := ch.fabric.colls.map fun x => if x.id = c.id then { x with started := true, failed := bad } else x } }
      match ch.readServed c.part c.entry.src c.entry.len with
      | .error _ => set ch true
      | .ok src =>
        let sends := (j.members.filter fun d => d ≠ ch.fabric.selfId).flatMap fun d => (c.chunks j src).map fun x => (d, x)
        let r := sends.foldl (fun (a : Chip × Bool) x => match a.1.flowSend k j x.1 (collFlow c.idx) x.2.1 x.2.2 with | some y => (y.2, a.2) | none => (a.1, true)) (set ch false, false)
        if r.2 then set r.1 true else r.1
  | _, _ => ch

/-- A barrier released: every entry naming it is to run, in table order. -/
def Chip.queueColls (ch : Chip) (k : Clock) (p b : Nat) : Chip :=
  match ((ch.pt p).bar b).job.bind ch.jobSlot with
  | none => ch
  | some (_, j) =>
    let new := (j.colls.zipIdx).filter fun e => decide (e.1.bar = b)
    let ch := new.foldl (fun c e => { c with fabric := { c.fabric with colls := c.fabric.colls ++ [{ id := c.fabric.nextColl, part := p, job := j.job, idx := e.2, entry := e.1 }], nextColl := c.fabric.nextColl + 1 } }) ch
    ch.startColl k j.job

/-- The chunks of a member that have arrived for a collective. -/
def Chip.chunksFrom (ch : Chip) (c : Collective) (d : Nat) : List (List Byte) :=
  (ch.fabric.delivered.filter fun m => decide (m.1 = c.job) && decide (m.2.1 = d) && decide (m.2.2.1 = collFlow c.idx)).map (·.2.2.2)

/-- The sum of two partial sums: FP32, FP32 for BF16 inputs, INT32 saturating (R421). -/
def collAdd (dtype : Nat) (a b : Word) : Word :=
  if dtype = 2 then
    let v := a.toInt + b.toInt
    BitVec.ofInt 32 (max (-2147483648) (min 2147483647 v))
  else fadd a b

/-- Elements of a member's data as partial sums start from them. -/
def collElems (dtype : Nat) (bs : List Byte) : List Word :=
  if dtype = 1 then (List.range (bs.length / 2)).map fun i => BitVec.ofNat 32 (leAt bs (2 * i) 2 * 65536)
  else (List.range (bs.length / 4)).map fun i => BitVec.ofNat 32 (leAt bs (4 * i) 4)

def collBytes (dtype : Nat) (ws : List Word) : List Byte :=
  if dtype = 1 then ws.flatMap fun w => toLe (convF fBF16 true false .rne (f32 w)).code 2 else ws.flatMap fun w => toLe w.toNat 4

/-- The order in which a ring adds its members' values of one element: from where the device begins, either way around (R421). -/
def ringOrder (start : Nat) (l : List α) : List α :=
  let m := l.drop (start / 2 % l.length) ++ l.take (start / 2 % l.length)
  if start % 2 = 0 then m else m.reverse

/-- Element j of partial sums added in ring order. -/
def ringSum (dtype start j : Nat) (row : List (List Word)) : Word :=
  match ringOrder start (row.map fun v => v.getD j 0) with
  | [] => 0
  | x :: t => t.foldl (collAdd dtype) x

/-- Partial sums along a dimension: the values of members that agree in the dimensions after it, added around their ring (R421). -/
def reduceDim (dtype dim root : Nat) (members : List Nat) (vals : List (Nat × List Word)) : List (Nat × List Word) :=
  let key : Nat → Nat := fun d => d / 8 ^ (dim + 1)
  ((vals.map fun v => key v.1).eraseDups).map fun g =>
    let row := (sortBy (fun v => coord v.1 dim) (vals.filter fun v => key v.1 = g)).map (·.2)
    (g * 8 ^ (dim + 1), (List.range (row.headD []).length).map fun j => ringSum dtype (Config.ringStart root dim g j members) j row)

/-- What a collective writes: dst offsets and bytes. -/
def collResult (e : CollEntry) (root : Nat) (data : List (Nat × List Byte)) : List (Nat × List Byte) :=
  if e.op = 2 then (sortBy (fun d => d.1) data).zipIdx.map fun x => (x.2 * e.len, x.1.2)
  else
    let v := data.map fun d => (d.1, collElems e.dtype d.2)
    let step (dim : Nat) := reduceDim e.dtype dim root (sortBy id (data.map (·.1)))
    match step 2 (step 1 (step 0 v)) with
    | (_, ws) :: _ => [(0, collBytes e.dtype ws)]
    | [] => []

/-- A fault event of the fabric: 15 fab_barrier, 16 fab_collective in the model's numbering (R419, R422). -/
def Chip.fabEvent (ch : Chip) (k : Clock) (p cause detail : Nat) : Chip :=
  ch.raise k p 0xE016 .recovering 0 (toBe cause 2 ++ zeros 2 ++ toBe 0xFFFFFFFF 4 ++ [0xFF, 0xFF, 0xFF, 0] ++ toBe detail 8)

/-- The collective leaves the engine, with the chunks it used, and the next starts. -/
def Chip.endColl (ch : Chip) (k : Clock) (c : Collective) (others : List Nat) : Chip :=
  let n := c.entry.len / 4096
  let keep := others.foldl (fun (l : List (Nat × Nat × Nat × List Byte)) d =>
    let mine := l.filter fun m => decide (m.1 = c.job) && decide (m.2.1 = d) && decide (m.2.2.1 = collFlow c.idx)
    (mine.take n).foldl (fun x m => x.erase m) l) ch.fabric.delivered
  ({ ch with fabric := { ch.fabric with colls := ch.fabric.colls.filter fun x => x.id ≠ c.id, delivered := keep } }).startColl k c.job

/-- COLLECTIVE_COMPLETE: every member's data is here, the result is written and the semaphore rises; or it failed, and the partition hears
of it. -/
def Chip.collDone (ch : Chip) (k : Clock) (id : Nat) (ok : Bool) : Chip :=
  match ch.fabric.colls.find? fun c => c.id = id with
  | none => ch
  | some c =>
    match ch.jobSlot c.job with
    | none => ch
    | some (_, j) =>
      let others := j.members.filter fun d => d ≠ ch.fabric.selfId
      let got := others.map fun d => (d, ch.chunksFrom c d)
      let n := c.entry.len / 4096
      if !c.started then ch
      else if !ok then (if c.failed then (ch.fabEvent k c.part 16 c.idx).endColl k c others else ch)
      else if c.failed || got.any fun g => decide (g.2.length < n) then ch
      else match ch.readServed c.part c.entry.src c.entry.len with
        | .error _ => (ch.fabEvent k c.part 16 c.idx).endColl k c others
        | .ok src =>
          let out := collResult c.entry j.root ((ch.fabric.selfId, src) :: got.map fun g => (g.1, (g.2.take n).flatMap fun b => b))
          if out.any fun o => (ch.pt c.part).rangeBad (c.entry.dst + o.1) o.2.length true then (ch.fabEvent k c.part 16 c.idx).endColl k c others
          else ((out.foldl (fun m o => m.writeDva k c.part (c.entry.dst + o.1) o.2) ch).raiseSem k c.entry.region c.entry.sem c.entry.n).endColl k c others

def execCollectiveComplete (id : Nat) (ok : Bool) (s : State) : Res := onChip s fun k ch => ch.collDone k id ok

/-! ### Barriers across packages (R418, R419) -/

/-- A barrier message for this device: an arrival from below, or the release from above; a repeated one is absorbed. -/
def Chip.barrierHere (ch : Chip) (k : Clock) (job bar gen src : Nat) (release : Bool) : Chip :=
  match ch.jobSlot job with
  | none => ch.refuseJob k job
  | some (_, j) =>
    let x := (ch.pt j.part).bar bar
    if x.job ≠ some job || x.arrGen.toNat ≠ gen then ch
    else if release then
      let kids := ch.fabric.childMembers j ch.fabric.selfId
      kids.foldl (fun c d => c.sendBarrier j d bar gen true) (ch.modBar j.part bar (Barrier.release (ch.pt j.part).fill none))
    else if src ∈ x.children then ch
    else (ch.modBar j.part bar fun y => { y with children := y.children ++ [src] }).barrierUp j.part bar

/-- BARRIER_FRAME: forwarded by dst, or taken. -/
def execBarrierFrame (port job bar gen src dst : Nat) (release : Bool) (s : State) : Res :=
  onChip s fun k ch =>
    if !ch.portUp port then ch
    else if dst ≠ ch.fabric.selfId then
      ch.forwardFrame port (({ type := 3, srcEpoch := (look none ch.fabric.srcEpochs src).getD 0, src := src, dst := dst, job := job, length := 4 } : FrameHdr).bytes ++ barPayload bar gen release)
    else ch.barrierHere k job bar gen src release

/-- JOB_BARRIER_TIMEOUT (R419). -/
def execJobBarrierTimeout (p bar : Nat) (s : State) : Res :=
  onChip s fun k ch =>
    let x := (ch.pt p).bar bar
    match x.job.bind ch.jobSlot, x.localDone with
    | some (_, j), some t =>
      if j.timeout ≠ 0 && !x.timedOut && decide (t + j.timeout * 1000 ≤ k.localNs) then (ch.modBar p bar fun y => { y with timedOut := true }).fabEvent k p 15 bar else ch
    | _, _ => ch

/-- Messages of bound barriers are sent again over the tree in force when a link fails or returns (R418). -/
def Chip.barriersAgain (ch : Chip) : Chip :=
  (List.range 8).foldl (fun c p => (List.range 32).foldl (fun c b => if ((c.pt p).bar b).job.isSome then c.barrierUp p b else c) c) ch

/-! ### The end of a job (R417) -/

def Chip.endJob (ch : Chip) (k : Clock) (n : Nat) (j : Job) : Chip :=
  let live := ch.fabric.flows.filter fun f => decide (f.job = j.job) && f.outbound && !f.failed
  let ch := live.foldl (fun c f => c.failFlow k j.job f.peer f.flow) ch
  let fails := ch.fabric.colls.filter fun c => c.job = j.job
  let ch := fails.foldl (fun c x => c.fabEvent k x.part 16 x.idx) ch
  let ch := (barsOf j.bars.toNat).foldl (fun c b => c.modBar j.part b fun y => { y with job := none, children := [], localDone := none }) ch
  let ch := { ch with fabric := { ch.fabric with
    jobs := put {} ch.fabric.jobs n {}, flows := ch.fabric.flows.filter fun f => f.job ≠ j.job, colls := ch.fabric.colls.filter fun c => c.job ≠ j.job,
    delivered := ch.fabric.delivered.filter fun m => m.1 ≠ j.job, ports := ch.fabric.ports.map fun (e : Nat × Port) => (e.1, { e.2 with queue := e.2.queue.filter fun f => f.job ≠ j.job || f.barrier }) } }
  ch.modPt j.part fun x => { x with jobKeys := x.jobKeys.filter fun y => y.1 ≠ j.job }

/-- JOB_END: the model's payload is the job id and 2 reserved bytes. -/
def execJobEnd (q : Req) (s : State) : Res :=
  onChip s (runCmd 0x0A02 q fun k ch =>
    let job := beAt q.payload 0 2
    match ch.jobSlot job with
    | none => .error (.badField, some 0)
    | some (n, j) =>
      checked [ (decide (j.part ≠ q.part), (.notPermitted, some 0)), reserved q 2 2, ch.worksFull q ]
        (let a := ch.accept k q 0x0A02 (.jobEnd job)
         (((a.2.reply q .accepted []).endJob k n j).complete k a.1 0xE001 .ok [])))

/-- FAB_STATUS (R423). -/
def execFabStatus (q : Req) (s : State) : Res :=
  onChip s (runCmd 0x0A03 q fun _ ch => .ok (ch.reply q .ok (toBe ch.fabric.cfg 4 ++ (List.range 8).flatMap fun n => toBe (ch.prt n).status 4)))

end Sys2Proof.Machine
end

