-- ==== Sys2Proof/Machine/Release.lean ====
section
/-! DEFINITION. A barrier's release at its members, and filler's ramp-down (spec/06_streams_barriers.md R208; spec/16_faults_recovery.md
R457; spec/15_power_clocks_thermal.md R443; spec/07_tiers_translation.md R235; spec/14_fabric.md R420). -/

namespace Sys2Proof.Machine

/-- A member cluster at the release of a generation: its filler is to ramp down, and at a checkpoint generation it captures. -/
def Cluster.released (x : Cluster) (ns delay : Nat) (ckpt : Option (Nat × Nat)) : Cluster :=
  let x := if x.filler.target = 0 then x else { x with filler := { x.filler with downDue := some (ns + delay) } }
  match ckpt with
  | some key => x.startCapture [key]
  | none => x

/-- Whether the oldest release on its way has reached the members: on a barrier within one die two delivered aclk after the last arrival, as the
cluster that arrived last counts them while it serves (R5, R29, R128). -/
def Chip.releaseDue (ch : Chip) (x : Barrier) : Bool :=
  decide (x.released ≠ 0) &&
  (match x.relAt.headD none with
   | some (c, t) => decide (t ≤ (ch.cl c).aclk) || decide ((ch.cl c).svc ≠ .owned)
   | none => true)

/-- BARRIER_RELEASE: the oldest release of a barrier reaches its members; schedules it drives advance, its collectives run. -/
def Chip.barrierRelease (ch : Chip) (k : Clock) (p b : Nat) : Chip :=
  let x := (ch.pt p).bar b
  if !ch.releaseDue x then ch
  else
    let ck := x.relCkpt.headD false
    let delay := if x.job.isSome then bitsAt x.fill.toNat 5 4 * 250 else 0
    let ch := ch.modBar p b fun y => { y with gen := y.gen + 1, released := y.released - 1, relCkpt := y.relCkpt.drop 1, relAt := y.relAt.drop 1, ckptPtr := if ck then [] else y.ckptPtr }
    let ch := x.members.foldl (fun c l =>
      match c.pcid l with
      | some n => c.modCl n fun y => y.released k.localNs delay (if ck then look none x.ckptPtr l else none)
      | none => c) ch
    (ch.schedAdvance p b).queueColls k p b

/-- The releases of barriers within one die that a cluster's next edge would pass reach their members before it (R5). -/
def Chip.releasesAt (ch : Chip) (k : Clock) (c : Nat) : Chip :=
  match ch.ownerOfCl c with
  | none => ch
  | some p =>
    (keysWhere (fun _ (x : Barrier) => match x.relAt.headD none with | some (d, t) => decide (d = c) && decide (t ≤ (ch.cl c).aclk) | none => false) (ch.pt p).barriers).foldl
      (fun h b => h.barrierRelease k p b) ch

def execBarrierRelease (p b : Nat) (s : State) : Res := onChip s fun k ch => ch.barrierRelease k p b

/-- FILLER_RAMP_DOWN_START: to 0 in 16 equal steps over 4 µs. -/
def execFillerRampDown (c : Nat) (s : State) : Res :=
  onChip s fun k ch => ch.modCl c fun x =>
    match x.filler.downDue with
    | some t => if t ≤ k.localNs then { x with filler := x.filler.ramp k.localNs 0 4000 } else x
    | none => x

end Sys2Proof.Machine
end

