-- ==== Sys2Proof/Machine/Entry.lean ====
section
/-! DEFINITION. A schedule entry as it issues: which operations its bits name, when each of its fields acts, when it is illegal, and how it ends
(spec/04_cluster.md R119 to R127, R135, R139, R142, R146, R147, R152; spec/02_numerics.md R57; spec/05_scratchpad.md R161). -/

namespace Sys2Proof.Machine

/-! ### The operations an entry names -/

/-- The array field (R142); none: a reserved code. -/
def arrayOp (c f : Nat) : Option Instr :=
  match bitsAt f 29 3 with
  | 0 => some (.anop c)
  | 1 => some (.front c (.ofNat 4 (bitsAt f 25 4)) (.ofNat 4 (bitsAt f 21 4)) (.ofNat 4 (bitsAt f 17 4)) (.ofNat 4 (bitsAt f 13 4)) (.ofNat 13 (bitsAt f 0 13)))
  | 2 => some (.issue c (.ofNat 4 (bitsAt f 25 4)) (.ofNat 2 (bitsAt f 23 2)) (.ofNat 8 (bitsAt f 15 8)) (bitAt f 14) (.ofNat 2 (bitsAt f 12 2)) (.ofNat 2 (bitsAt f 10 2)))
  | 3 => some (.mode c (.ofNat 2 (bitsAt f 27 2)))
  | _ => none

/-- The vector field (R146, R147); none: a reserved code. -/
def vectorOp (c f : Nat) : Option Instr :=
  let d : BitVec 4 := .ofNat 4 (bitsAt f 22 4)
  let a : BitVec 4 := .ofNat 4 (bitsAt f 18 4)
  let b : BitVec 4 := .ofNat 4 (bitsAt f 14 4)
  match bitsAt f 26 6 with
  | 0x00 => some (.vnop c)
  | 0x01 => some (.vld c d a b (bitAt f 13) (bitAt f 12) (.ofNat 4 (bitsAt f 8 4)) (bitAt f 7))
  | 0x02 => some (.vst c d a b (bitAt f 13) (.ofNat 5 (bitsAt f 8 5)) (.ofNat 4 (bitsAt f 4 4)) (bitAt f 3) (bitAt f 2) (bitAt f 1))
  | 0x03 => some (.accrd c d (.ofNat 8 (bitsAt f 14 8)))
  | 0x04 => some (.vadd c d a b)
  | 0x05 => some (.vsub c d a b)
  | 0x06 => some (.vmul c d a b)
  | 0x07 => some (.vfma c d a b)
  | 0x08 => some (.vmax c d a b)
  | 0x09 => some (.vmin c d a b)
  | 0x0A => some (.vadds c d a b)
  | 0x0B => some (.vmuls c d a b)
  | 0x0C => some (.vexp2 c d a)
  | 0x0D => some (.vexp c d a)
  | 0x0E => some (.vrcp c d a)
  | 0x0F => some (.vrsqrt c d a)
  | 0x10 => some (.vdiv c d a b)
  | 0x11 => some (.vsumr c d a)
  | 0x12 => some (.vmaxr c d a)
  | 0x13 => some (.vabs c d a)
  | 0x14 => some (.vneg c d a)
  | 0x15 => some (.vcvtif c d a)
  | 0x16 => some (.vcvtfi c d a)
  | 0x17 => some (.viadd c d a b)
  | 0x18 => some (.vmov c d a)
  | _ => none

/-- The stream/sync field (R127), its messages under the cluster's epoch (R477); none: a reserved code. -/
def syncOp (c : Nat) (epoch : BitVec 16) (f : Nat) : Option Instr :=
  let bar : BitVec 5 := .ofNat 5 (bitsAt f 11 5)
  let dlBar : BitVec 2 := .ofNat 2 (bitsAt f 9 2)
  let stream : BitVec 6 := .ofNat 6 (bitsAt f 10 6)
  match bitsAt f 16 4 with
  | 0x0 => some (.ynop c)
  | 0x1 => some (.waitsem c (.ofNat 8 (bitsAt f 8 8)) (.ofNat 2 (bitsAt f 6 2)) (.ofNat 6 (bitsAt f 0 6)))
  | 0x2 => some (.sigsem c epoch (.ofNat 8 (bitsAt f 8 8)) (.ofNat 6 (bitsAt f 0 6)))
  | 0x3 => some (.arrive c epoch bar)
  | 0x4 => some (.waitbar c bar dlBar)
  | 0x5 => some (.arrwait c epoch bar dlBar)
  | 0x6 => some (.ckpt c epoch bar dlBar)
  | 0x7 => some (.waithalf c stream (bitAt f 9) (.ofNat 2 (bitsAt f 7 2)))
  | 0x8 => some (.relhalf c epoch stream (bitAt f 9))
  | 0x9 => some (.swap c (.ofNat 4 (bitsAt f 12 4)))
  | 0xA => some (.yieldpt c)
  | _ => none

/-- The scalar field (R152); none: a reserved code. -/
def scalarOpOf (c f : Nat) : Option Instr :=
  let d : BitVec 4 := .ofNat 4 (bitsAt f 12 4)
  let a : BitVec 4 := .ofNat 4 (bitsAt f 8 4)
  let b : BitVec 4 := .ofNat 4 (bitsAt f 4 4)
  let imm8 : BitVec 8 := .ofNat 8 (bitsAt f 0 8)
  let imm12 : BitVec 12 := .ofNat 12 (bitsAt f 0 12)
  let n : BitVec 6 := .ofNat 6 (bitsAt f 0 6)
  match bitsAt f 16 4 with
  | 0x0 => some (.snop c)
  | 0x1 => some (.li c d imm12)
  | 0x2 => some (.lui c d imm12)
  | 0x3 => some (.add c d a b)
  | 0x4 => some (.sub c d a b)
  | 0x5 => some (.addi c d a imm8)
  | 0x6 => some (.and c d a b)
  | 0x7 => some (.or c d a b)
  | 0x8 => some (.xor c d a b)
  | 0x9 => some (.shl c d a n)
  | 0xA => some (.shr c d a n)
  | 0xB => some (.ldn c d a imm8)
  | 0xC => some (.stn c d a imm8)
  | 0xD => some (.wreg c (.ofNat 8 (bitsAt f 8 8)) b)
  | 0xE => some (.rdreg c d (.ofNat 8 (bitsAt f 4 8)))
  | _ => none

/-- What a kind of an entry holds: array 0, vector 1, stream/sync 2, scalar 3, the phase hint 4 (R122). None: a reserved code, an illegal entry;
no operation: an entry without a hint. -/
def entryOp (c : Nat) (epoch : BitVec 16) (e : BitVec 128) : Nat → Option (Option Instr)
  | 0 => (arrayOp c (entryArray e)).map some
  | 1 => (vectorOp c (entryVector e)).map some
  | 2 => (syncOp c epoch (entrySync e)).map some
  | 3 => (scalarOpOf c (entryScalar e)).map some
  | _ => some (if entryBits e 123 1 = 1 then some (.phaseHint c (.ofNat 3 (entryBits e 120 3))) else none)

/-- The control field (R122, R123). -/
def entryControl (c : Nat) (e : BitVec 128) : Instr :=
  match entryCop e with
  | 0 => .next c
  | 1 => .loop c (.ofNat 2 (entryLevel e)) (.ofNat 16 (entryCount e))
  | 2 => .endLoop c (.ofNat 2 (entryLevel e))
  | _ => .endSlot c

/-- The entry at the current slot's pointer. -/
def Cluster.entry (x : Cluster) : BitVec 128 := look 0 x.table (x.curSlot.base + x.curSlot.ptr)

/-- The operation of kind j of the entry at the current slot's pointer, as entryOp gives it. -/
def Cluster.opAt (x : Cluster) (c j : Nat) : Option (Option Instr) := entryOp c x.epoch x.entry j

/-! ### What the operations do -/

/-- The four operations without effect (R127, R142, R147, R152). -/
def isNop : Instr → Bool
  | .anop _ => true
  | .vnop _ => true
  | .ynop _ => true
  | .snop _ => true
  | _ => false

/-- An operation that waits: its budget and its wait (R127). -/
def waitOf : Instr → Option (BitVec 2 × WaitField)
  | .waitsem c sem dl n => some (dl, waitSem c sem n)
  | .waitbar c bar dl => some (dl, waitBar c bar)
  | .arrwait c _ bar dl => some (dl, waitArr c bar)
  | .ckpt c _ bar dl => some (dl, waitCkpt c bar)
  | .waithalf c stream half dl => some (dl, waitHalf c stream half)
  | _ => none

/-- What an operation that does not wait does. -/
def fieldOf : Instr → Field
  | .front c frond wfmt afmt sa off => fieldFront c frond wfmt afmt sa off
  | .issue c frond share e0 gen acc ports => fieldIssue c frond share e0 gen acc ports
  | .mode c m => fieldMode c m
  | .anop _ => fieldAnop
  | .vnop _ => fieldVnop
  | .vld c vd sa ss post port fmt raw => fieldVld c vd sa ss post port fmt raw
  | .vst c vs sa ss post shift fmt sr raw srcint => fieldVst c vs sa ss post shift fmt sr raw srcint
  | .accrd c vd entry => fieldAccrd c vd entry
  | .vadd c vd va vb => fieldVadd c vd va vb
  | .vsub c vd va vb => fieldVsub c vd va vb
  | .vmul c vd va vb => fieldVmul c vd va vb
  | .vfma c vd va vb => fieldVfma c vd va vb
  | .vmax c vd va vb => fieldVmax c vd va vb
  | .vmin c vd va vb => fieldVmin c vd va vb
  | .vadds c vd va vb => fieldVadds c vd va vb
  | .vmuls c vd va vb => fieldVmuls c vd va vb
  | .vexp2 c vd va => fieldVexp2 c vd va
  | .vexp c vd va => fieldVexp c vd va
  | .vrcp c vd va => fieldVrcp c vd va
  | .vrsqrt c vd va => fieldVrsqrt c vd va
  | .vdiv c vd va vb => fieldVdiv c vd va vb
  | .vsumr c vd va => fieldVsumr c vd va
  | .vmaxr c vd va => fieldVmaxr c vd va
  | .vabs c vd va => fieldVabs c vd va
  | .vneg c vd va => fieldVneg c vd va
  | .vcvtif c vd va => fieldVcvtif c vd va
  | .vcvtfi c vd va => fieldVcvtfi c vd va
  | .viadd c vd va vb => fieldViadd c vd va vb
  | .vmov c vd va => fieldVmov c vd va
  | .ynop _ => fieldYnop
  | .sigsem c _ sem n => fieldSigsem c sem n
  | .arrive c _ bar => fieldArrive c bar
  | .relhalf c _ stream half => fieldRelhalf c stream half
  | .swap c pair => fieldSwap c pair
  | .yieldpt c => fieldYieldpt c
  | .snop _ => fieldSnop
  | .li c sd imm => fieldLi c sd imm
  | .lui c sd imm => fieldLui c sd imm
  | .add c sd sa sb => fieldAdd c sd sa sb
  | .sub c sd sa sb => fieldSub c sd sa sb
  | .addi c sd sa imm => fieldAddi c sd sa imm
  | .and c sd sa sb => fieldAnd c sd sa sb
  | .or c sd sa sb => fieldOr c sd sa sb
  | .xor c sd sa sb => fieldXor c sd sa sb
  | .shl c sd sa n => fieldShl c sd sa n
  | .shr c sd sa n => fieldShr c sd sa n
  | .ldn c sd sa imm => fieldLdn c sd sa imm
  | .stn c sb sa imm => fieldStn c sb sa imm
  | .wreg c num sa => fieldWreg c num sa
  | .rdreg c sd num => fieldRdreg c sd num
  | .phaseHint c opp => fieldPhaseHint c opp
  | _ => fun _ ch _ => some ch

/-! ### The entry's fields in their aclk -/

/-- The field of a kind has acted. -/
def Chip.act (ch : Chip) (c j : Nat) : Chip := ch.modCl c fun x => { x with acted := x.acted ||| BitVec.twoPow 5 j }

/-- One kind of the entry of x acts, unless it has, or waits. -/
def Chip.runKind (ch : Chip) (k : Clock) (c : Nat) (x : Cluster) (j : Nat) : Option Chip :=
  if x.acted.getLsbD j then some ch
  else match x.opAt c j with
    | none => none
    | some none => some ch
    | some (some i) => if (waitOf i).isSome then some ch else fieldOf i k ch (ch.cl c)

/-- The fields of the entry that have not acted, acting together in this aclk; none: the entry is illegal (R57, R139, R161). -/
def Chip.rest (ch : Chip) (k : Clock) (c : Nat) : Option Chip :=
  [0, 1, 2, 3, 4].foldl (fun s j => s.bind fun h => h.runKind k c (ch.cl c) j) (some ch)

/-- The entry's wait has not been satisfied (R126). -/
def Cluster.unwaited (x : Cluster) (c : Nat) : Bool :=
  !x.acted.getLsbD 2 && (match x.opAt c 2 with | some (some i) => (waitOf i).isSome | _ => false)

/-- Which field of the entry that issues in cluster c an operation is: one that has not acted, and none but the wait before the wait is
satisfied (R120, R126). -/
def Cluster.fieldDue (x : Cluster) (c : Nat) (i : Instr) : Option Nat :=
  if !x.issuing then none
  else ([0, 1, 2, 3, 4].find? fun j => decide (x.opAt c j = some (some i))).filter fun j => !x.acted.getLsbD j && (decide (j = 2) || !x.unwaited c)

/-- A slot's wait is taken when its turn has come: an entry the rest of which is illegal stops its slot instead (R126, R139). -/
def Chip.waitGo (ch : Chip) (k : Clock) (c n : Nat) : Chip :=
  let s := (ch.cl c).slot n
  match s.standing with
  | none => ch
  | some w =>
    if !ch.waitTurn c n w.on then ch
    else if s.st = .waiting && (ch.rest k c).isNone then ch.illegal k c
    else ch.satisfy k c n w

/-- A wait is presented (R126, R135): a cancelled slot stops here without issuing the entry (R138); else the slot stands in the wait, which may
be satisfied in this very aclk. -/
def Chip.present (ch : Chip) (k : Clock) (c : Nat) (dl : BitVec 2) (f : WaitField) : Chip :=
  let cl := ch.cl c
  if cl.curSlot.cancelling then ch.cancelSlot k c cl.cur
  else match f k ch cl with
    | none => ch.illegal k c
    | some (h, on) =>
      let h := (h.stand c on dl).waitGo k c cl.cur
      match on with
      | .bar b _ => h.fillUp k cl.curSlot.part b
      | _ => h

/-- One field of the entry that issues in cluster c: it acts only as that entry has it; where the entry is illegal none of its fields acts and
the slot stops (R139). -/
def field (c : Nat) (i : Instr) (k : Clock) (ch : Chip) : Chip :=
  match (ch.cl c).fieldDue c i with
  | none => ch
  | some j =>
    match waitOf i with
    | some (dl, f) => ch.present k c dl f
    | none =>
      if (ch.rest k c).isNone then ch.illegal k c
      else match fieldOf i k ch (ch.cl c) with
        | some h => h.act c j
        | none => ch.illegal k c

/-- A message of a cluster: stale ones are dropped and counted (R477), the others are fields of the entry. -/
def message (c : Nat) (epoch : BitVec 16) (i : Instr) (k : Clock) (ch : Chip) : Chip :=
  if ch.fresh? c epoch then field c i k ch else ch.dropStale

/-! ### The control field (R122 to R125) -/

/-- The slot after its control field; none for END and for a level 3, which no table that loads holds (R121). -/
def controlSlot (i : Instr) (cl : Cluster) (x : Slot) : Option Slot :=
  match i with
  | .next _ => some x.goOn
  | .loop _ level count => if level = 3 then none else some (x.loop level.toNat count.toNat (cl.matchLoop x))
  | .endLoop _ level => if level = 3 then none else some (x.endLoop level.toNat)
  | _ => none

/-- The entry is over: its marks go, and a YIELDPT that found a slot of higher priority switches to it (R135). -/
def Cluster.entryOver (x : Cluster) (s : Slot) : Cluster :=
  let y := { (x.modSlot x.cur fun _ => { s with wait := none }) with acted := 0, yielding := false }
  if x.yielding then (y.modSlot y.cur Slot.countYield).switch else y

/-- The cluster's next delivered aclk edge: the releases it would pass reach their members before it (R5, R128). -/
def Chip.aclkEdge (ch : Chip) (k : Clock) (c : Nat) : Chip := (ch.releasesAt k c).edge k c

/-- The control field ends its entry, whose fields have acted: the slot moves as it says or ends, its context makes progress (R471), and the
cluster's next aclk edge follows. -/
def Chip.control (ch : Chip) (k : Clock) (c : Nat) (i : Instr) : Chip :=
  let cl := ch.cl c
  let s := cl.curSlot
  let ch := ch.progress k s.part s.ctx
  match i with
  | .endSlot _ => ((ch.modCl c fun x => x.stopSlot x.cur .ended).reportSlot k c cl.cur).aclkEdge k c
  | _ =>
    match controlSlot i cl s with
    | some y => (ch.modCl c fun x => x.entryOver y).aclkEdge k c
    | none => ch.illegal k c

/-- Whether the control field's turn has come: every other field has acted, or has no effect or a reserved code (R120). -/
def Cluster.controlDue (x : Cluster) (c : Nat) (i : Instr) : Bool :=
  x.issuing && decide (entryControl c x.entry = i) && !x.unwaited c &&
  ([0, 1, 2, 3, 4].all fun j => x.acted.getLsbD j || (match x.opAt c j with | some (some y) => isNop y | _ => true))

/-- The control field as a command: a reserved code in the entry makes it illegal (R127, R142, R147, R152). -/
def controlField (c : Nat) (i : Instr) (k : Clock) (ch : Chip) : Chip :=
  if !(ch.cl c).controlDue c i then ch
  else if (ch.rest k c).isNone then ch.illegal k c
  else ch.control k c i

/-- The entry issues whole in its aclk: the fields that have not acted act, and the control field with its edge (R120). -/
def Chip.finishEntry (ch : Chip) (k : Clock) (c : Nat) : Chip :=
  match ch.rest k c with
  | some h => h.control k c (entryControl c (ch.cl c).entry)
  | none => (ch.illegal k c).aclkEdge k c

/-! ### Waits that end (R126, R128, R129, R135) -/

/-- WAIT_BUDGET_EXPIRY: the waiting slot yields in the aclk its budget has passed while its wait is unsatisfied and another slot is ready; with
none ready it keeps waiting (R135). -/
def Chip.budgetExpiry (ch : Chip) (c : Nat) : Chip :=
  if ch.budgetOut c && (ch.cl c).choose.isSome then ch.modCl c (·.yieldWait) else ch

/-! ### The sequencer's own aclk (R120, R126, R135) -/

/-- The wait that the entry to issue names is presented, in a cluster whose messages are accepted (R126, R477). -/
def Chip.presentEntry (ch : Chip) (k : Clock) (c : Nat) : Chip :=
  match (ch.cl c).opAt c 2 with
  | some (some i) =>
    (match waitOf i with
     | some (dl, f) => if (ch.cl c).unwaited c && ch.fresh? c (ch.cl c).epoch then ch.present k c dl f else ch
     | none => ch)
  | _ => ch

/-- One delivered aclk of a cluster with no command of its own: the waits whose turn has come are taken, a wait past its budget yields, the entry
at the running slot's pointer presents its wait or issues whole, and the edge follows. -/
def Chip.seqEdge (ch : Chip) (k : Clock) (c : Nat) : Chip :=
  let ch := ((List.range 4).foldl (fun h n => h.waitGo k c n) ch).budgetExpiry c
  let ch := if (ch.cl c).issuing then ch.presentEntry k c else ch
  if (ch.cl c).issuing && !(ch.cl c).unwaited c then ch.finishEntry k c else ch.aclkEdge k c

end Sys2Proof.Machine
end

