-- ==== Sys2Proof/Machine/Fields.lean ====
section
/-! DEFINITION. The commands of a schedule entry: its control, array, vector, stream/sync and scalar fields, each as the entry that issues has
it, and the waits that end (spec/04_cluster.md R119 to R153; spec/03_matrix_array.md R94 to R114). -/

namespace Sys2Proof.Machine

/-! ### The control field (R122 to R125) -/

/-- NEXT (R123). -/
def execNext (c : Nat) (s : State) : Res := onChip s (controlField c (.next c))

/-- LOOP (R123). -/
def execLoop (c : Nat) (level : BitVec 2) (count : BitVec 16) (s : State) : Res := onChip s (controlField c (.loop c level count))

/-- ENDLOOP (R123). -/
def execEndLoop (c : Nat) (level : BitVec 2) (s : State) : Res := onChip s (controlField c (.endLoop c level))

/-- END: the entry's fields issue, and the slot ends; another ready slot takes the cluster (R124, R135). -/
def execEndSlot (c : Nat) (s : State) : Res := onChip s (controlField c (.endSlot c))

/-- PHASE_HINT (R125). -/
def execPhaseHint (c : Nat) (opp : BitVec 3) (s : State) : Res := onChip s (field c (.phaseHint c opp))

/-! ### The array field (R142 to R144) -/

/-- ANOP has no effect (R142). -/
def execAnop (c : Nat) (s : State) : Res := onChip s (field c (.anop c))

/-- FRONT (R95, R143). -/
def execFront (c : Nat) (frond wfmt afmt sa : BitVec 4) (off : BitVec 13) (s : State) : Res := onChip s (field c (.front c frond wfmt afmt sa off))

/-- ISSUE (R108, R114, R144). -/
def execIssue (c : Nat) (frond : BitVec 4) (share : BitVec 2) (e0 : BitVec 8) (gen : Bool) (acc ports : BitVec 2) (s : State) : Res :=
  onChip s (field c (.issue c frond share e0 gen acc ports))

/-- MODE (R106). -/
def execMode (c : Nat) (m : BitVec 2) (s : State) : Res := onChip s (field c (.mode c m))

/-! ### The vector field (R145 to R150) -/

/-- VNOP has no effect. -/
def execVnop (c : Nat) (s : State) : Res := onChip s (field c (.vnop c))

/-- VLD (R146, R147, R160). -/
def execVld (c : Nat) (vd sa ss : BitVec 4) (post port : Bool) (fmt : BitVec 4) (raw : Bool) (s : State) : Res :=
  onChip s (field c (.vld c vd sa ss post port fmt raw))

/-- VST (R146, R147, R150). -/
def execVst (c : Nat) (vs sa ss : BitVec 4) (post : Bool) (shift : BitVec 5) (fmt : BitVec 4) (sr raw srcint : Bool) (s : State) : Res :=
  onChip s (field c (.vst c vs sa ss post shift fmt sr raw srcint))

/-- ACCRD (R109). -/
def execAccrd (c : Nat) (vd : BitVec 4) (entry : BitVec 8) (s : State) : Res := onChip s (field c (.accrd c vd entry))

/-- VADD (R147). -/
def execVadd (c : Nat) (vd va vb : BitVec 4) (s : State) : Res := onChip s (field c (.vadd c vd va vb))

/-- VSUB (R147). -/
def execVsub (c : Nat) (vd va vb : BitVec 4) (s : State) : Res := onChip s (field c (.vsub c vd va vb))

/-- VMUL (R147). -/
def execVmul (c : Nat) (vd va vb : BitVec 4) (s : State) : Res := onChip s (field c (.vmul c vd va vb))

/-- VFMA (R147). -/
def execVfma (c : Nat) (vd va vb : BitVec 4) (s : State) : Res := onChip s (field c (.vfma c vd va vb))

/-- VMAX (R147). -/
def execVmax (c : Nat) (vd va vb : BitVec 4) (s : State) : Res := onChip s (field c (.vmax c vd va vb))

/-- VMIN (R147). -/
def execVmin (c : Nat) (vd va vb : BitVec 4) (s : State) : Res := onChip s (field c (.vmin c vd va vb))

/-- VADDS (R147). -/
def execVadds (c : Nat) (vd va sb : BitVec 4) (s : State) : Res := onChip s (field c (.vadds c vd va sb))

/-- VMULS (R147). -/
def execVmuls (c : Nat) (vd va sb : BitVec 4) (s : State) : Res := onChip s (field c (.vmuls c vd va sb))

/-- VEXP2 (R76, R77). -/
def execVexp2 (c : Nat) (vd va : BitVec 4) (s : State) : Res := onChip s (field c (.vexp2 c vd va))

/-- VEXP (R76). -/
def execVexp (c : Nat) (vd va : BitVec 4) (s : State) : Res := onChip s (field c (.vexp c vd va))

/-- VRCP (R76, R77). -/
def execVrcp (c : Nat) (vd va : BitVec 4) (s : State) : Res := onChip s (field c (.vrcp c vd va))

/-- VRSQRT (R76, R77). -/
def execVrsqrt (c : Nat) (vd va : BitVec 4) (s : State) : Res := onChip s (field c (.vrsqrt c vd va))

/-- VDIV (R76). -/
def execVdiv (c : Nat) (vd va vb : BitVec 4) (s : State) : Res := onChip s (field c (.vdiv c vd va vb))

/-- VSUMR (R148). -/
def execVsumr (c : Nat) (vd va : BitVec 4) (s : State) : Res := onChip s (field c (.vsumr c vd va))

/-- VMAXR (R147). -/
def execVmaxr (c : Nat) (vd va : BitVec 4) (s : State) : Res := onChip s (field c (.vmaxr c vd va))

/-- VABS (R147). -/
def execVabs (c : Nat) (vd va : BitVec 4) (s : State) : Res := onChip s (field c (.vabs c vd va))

/-- VNEG (R147). -/
def execVneg (c : Nat) (vd va : BitVec 4) (s : State) : Res := onChip s (field c (.vneg c vd va))

/-- VCVTIF (R147). -/
def execVcvtif (c : Nat) (vd va : BitVec 4) (s : State) : Res := onChip s (field c (.vcvtif c vd va))

/-- VCVTFI (R147). -/
def execVcvtfi (c : Nat) (vd va : BitVec 4) (s : State) : Res := onChip s (field c (.vcvtfi c vd va))

/-- VIADD (R147). -/
def execViadd (c : Nat) (vd va vb : BitVec 4) (s : State) : Res := onChip s (field c (.viadd c vd va vb))

/-- VMOV (R147). -/
def execVmov (c : Nat) (vd va : BitVec 4) (s : State) : Res := onChip s (field c (.vmov c vd va))

/-! ### The stream/sync field (R127) -/

/-- YNOP has no effect. -/
def execYnop (c : Nat) (s : State) : Res := onChip s (field c (.ynop c))

/-- WAITSEM (R127, R129). -/
def execWaitsem (c : Nat) (sem : BitVec 8) (dl : BitVec 2) (n : BitVec 6) (s : State) : Res := onChip s (field c (.waitsem c sem dl n))

/-- SIGSEM (R127, R128, R130). -/
def execSigsem (c : Nat) (epoch : BitVec 16) (sem : BitVec 8) (n : BitVec 6) (s : State) : Res := onChip s (message c epoch (.sigsem c epoch sem n))

/-- ARRIVE (R208). -/
def execArrive (c : Nat) (epoch : BitVec 16) (bar : BitVec 5) (s : State) : Res := onChip s (message c epoch (.arrive c epoch bar))

/-- WAITBAR (R131). -/
def execWaitbar (c : Nat) (bar : BitVec 5) (dl : BitVec 2) (s : State) : Res := onChip s (field c (.waitbar c bar dl))

/-- ARRWAIT (R127). -/
def execArrwait (c : Nat) (epoch : BitVec 16) (bar : BitVec 5) (dl : BitVec 2) (s : State) : Res := onChip s (message c epoch (.arrwait c epoch bar dl))

/-- CKPT (R127, R210). -/
def execCkpt (c : Nat) (epoch : BitVec 16) (bar : BitVec 5) (dl : BitVec 2) (s : State) : Res := onChip s (message c epoch (.ckpt c epoch bar dl))

/-- WAITHALF (R127, R194). -/
def execWaithalf (c : Nat) (stream : BitVec 6) (half : Bool) (dl : BitVec 2) (s : State) : Res := onChip s (field c (.waithalf c stream half dl))

/-- RELHALF (R190, R194). -/
def execRelhalf (c : Nat) (epoch : BitVec 16) (stream : BitVec 6) (half : Bool) (s : State) : Res := onChip s (message c epoch (.relhalf c epoch stream half))

/-- SWAP (R166). -/
def execSwap (c : Nat) (pair : BitVec 4) (s : State) : Res := onChip s (field c (.swap c pair))

/-- YIELDPT (R135). A slot switched out by it shows state 2 (log entry 60). -/
def execYieldpt (c : Nat) (s : State) : Res := onChip s (field c (.yieldpt c))

/-! ### The scalar field (R151 to R153) -/

/-- SNOP (R152). -/
def execSnop (c : Nat) (s : State) : Res := onChip s (field c (.snop c))

/-- LI (R152). -/
def execLi (c : Nat) (sd : BitVec 4) (imm : BitVec 12) (s : State) : Res := onChip s (field c (.li c sd imm))

/-- LUI (R152). -/
def execLui (c : Nat) (sd : BitVec 4) (imm : BitVec 12) (s : State) : Res := onChip s (field c (.lui c sd imm))

/-- ADD (R152). -/
def execAdd (c : Nat) (sd sa sb : BitVec 4) (s : State) : Res := onChip s (field c (.add c sd sa sb))

/-- SUB (R152). -/
def execSub (c : Nat) (sd sa sb : BitVec 4) (s : State) : Res := onChip s (field c (.sub c sd sa sb))

/-- ADDI (R152). -/
def execAddi (c : Nat) (sd sa : BitVec 4) (imm : BitVec 8) (s : State) : Res := onChip s (field c (.addi c sd sa imm))

/-- AND (R152). -/
def execAnd (c : Nat) (sd sa sb : BitVec 4) (s : State) : Res := onChip s (field c (.and c sd sa sb))

/-- OR (R152). -/
def execOr (c : Nat) (sd sa sb : BitVec 4) (s : State) : Res := onChip s (field c (.or c sd sa sb))

/-- XOR (R152). -/
def execXor (c : Nat) (sd sa sb : BitVec 4) (s : State) : Res := onChip s (field c (.xor c sd sa sb))

/-- SHL (R152). -/
def execShl (c : Nat) (sd sa : BitVec 4) (n : BitVec 6) (s : State) : Res := onChip s (field c (.shl c sd sa n))

/-- SHR (R152). -/
def execShr (c : Nat) (sd sa : BitVec 4) (n : BitVec 6) (s : State) : Res := onChip s (field c (.shr c sd sa n))

/-- LDN (R152). -/
def execLdn (c : Nat) (sd sa : BitVec 4) (imm : BitVec 8) (s : State) : Res := onChip s (field c (.ldn c sd sa imm))

/-- STN (R152). -/
def execStn (c : Nat) (sb sa : BitVec 4) (imm : BitVec 8) (s : State) : Res := onChip s (field c (.stn c sb sa imm))

/-- WREG (R152). -/
def execWreg (c : Nat) (num : BitVec 8) (sa : BitVec 4) (s : State) : Res := onChip s (field c (.wreg c num sa))

/-- RDREG (R152). -/
def execRdreg (c : Nat) (sd : BitVec 4) (num : BitVec 8) (s : State) : Res := onChip s (field c (.rdreg c sd num))

/-! ### Waits that end (R126, R128, R129, R135) -/

/-- WAIT_SATISFIED: the waiting entry issues in the aclk of satisfaction; a yielded slot becomes ready (R126, R135, R136). -/
def execWaitSatisfied (c n : Nat) (s : State) : Res := onChip s fun k ch => ch.waitGo k c n

/-- WAIT_BUDGET_EXPIRY (R135). -/
def execWaitBudgetExpiry (c : Nat) (s : State) : Res := onChip s fun _ ch => ch.budgetExpiry c

end Sys2Proof.Machine
end

