-- ==== Sys2Proof/Machine/Links.lean ====
section
/-! DEFINITION. The fabric's ports: bring-up, the link layer and the frames that pass (spec/14_fabric.md R401 to R406, R409, R410, R416). -/

namespace Sys2Proof.Machine

/-! ### Ports (R402 to R404) -/

/-- A port enabled in the record that the system's shape uses (R402, R403). -/
def Chip.portEnabled (ch : Chip) (p : Nat) : Bool :=
  ch.fabric.enabled.getLsbD p && usesPort ch.fabric.size (fun i => if i = 0 then ch.fabric.bond6 else ch.fabric.bond7) p

/-- A port enters FAILED with a cause. -/
def Port.fail (p : Port) (k : Clock) (cause : Nat) : Port := { p with st := .failed, cause := cause, failedAt := k.localNs }

/-- What bring-up measures, step by step (R403): none, or the cause of the step that failed. -/
def linkBad (m : LinkMeasure) : Option Nat :=
  if !m.lock then some 1 else if 300 < m.loss then some 2 else if m.fecUe ≠ 0 then some 3 else if 100 < (m.medianRtt - 310) / 10 then some 4 else none

/-- The bytes of a hello that its signature covers, as the model lays them out: shape, coordinates as the device id, epoch, firmware version,
capability bits, identity key. -/
def helloSigned (h : HelloMsg) : List Byte := toBe h.xs 1 ++ toBe h.ys 1 ++ toBe h.zs 1 ++ toBe h.self 2 ++ toBe h.epoch 1 ++ toBe h.fwVersion 4 ++ toBe h.caps 4 ++ h.idPub

/-- The device's own hello, under its identity key (R404). -/
def Chip.ownHello (ch : Chip) : HelloMsg :=
  let f := ch.fabric
  let h : HelloMsg := { xs := f.xs, ys := f.ys, zs := f.zs, self := f.selfId, epoch := f.epoch.toNat, fwVersion := ch.sec.fwVersion, caps := Config.capabilities,
                        idPub := ch.sec.idPub, sig := [] }
  { h with sig := Config.ed25519Sign ch.sec.idSecret (helloSigned h) }

/-- A port that was measured: one within the bounds sends its hello, any other is in FAILED (R403). -/
def Chip.measured (ch : Chip) (k : Clock) (p : Nat) (m : LinkMeasure) : Chip :=
  let y := { ch.prt p with loss := satTo 511 m.loss, length := satTo 255 ((m.medianRtt - 310) / 10) }
  match linkBad m with
  | some c => ch.modPort p fun _ => y.fail k c
  | none => (ch.modPort p fun _ => { y with st := .hello, cause := 0, helloAt := k.localNs }).send (.hello p ch.ownHello)

/-- PORT_BRING_UP: training ends in measuring, measuring in the hello exchange, the exchange after 5 ms without a hello in FAILED, as does
a step that fails. -/
def Chip.bringUp (ch : Chip) (k : Clock) (p : Nat) (m : LinkMeasure) : Chip :=
  match (ch.prt p).st with
  | .training => ch.modPort p fun x => if m.lock then { x with st := .measuring, cause := 0 } else x.fail k 1
  | .measuring => ch.measured k p m
  | .hello => if (ch.prt p).helloAt + 5000000 ≤ k.localNs then ch.modPort p fun x => x.fail k 5 else ch
  | _ => ch

def execPortBringUp (port : Nat) (m : LinkMeasure) (s : State) : Res := onChip s fun k ch => ch.bringUp k port m

/-- PORT_BRING_UP_RETRY: every 1 s until the port is UP or disabled in the record. -/
def execPortBringUpRetry (port : Nat) (s : State) : Res :=
  onChip s fun k ch =>
    if (ch.prt port).st = .failed && ch.portEnabled port && (ch.prt port).cable && decide ((ch.prt port).failedAt + 1000000000 ≤ k.localNs) then
      ch.modPort port fun x => { x with st := .training, cause := 0 }
    else ch

/-- The device a port's direction leads to. -/
def Fabric.partnerOf (f : Fabric) (port : Nat) : Nat := let d := dirOf (f.basePort port); f.neighbour f.selfId d.1 d.2

/-- HELLO: the signature, the shape and the coordinates are checked; the partner's epoch is learned (R404). -/
def Chip.helloIn (ch : Chip) (k : Clock) (p : Nat) (h : HelloMsg) : Chip :=
  if (ch.prt p).st ≠ .hello then ch
  else
    let f := ch.fabric
    let good := Config.ed25519Verify h.idPub (helloSigned h) h.sig && decide (h.xs = f.xs) && decide (h.ys = f.ys) && decide (h.zs = f.zs) && decide (h.self = f.partnerOf p)
    if !good then ch.modPort p fun x => x.fail k 5
    else
      let ch := ch.modPort p fun x =>
        { x with st := .up, cause := 0, partner := h.self, partnerPub := h.idPub, txHseq := 0, rxHseq := 0, replay := [], ueTimes := [], lastCtl := k.localNs, creditAt := [(0, k.localNs), (1, k.localNs)] }
      ({ ch with fabric := { ch.fabric with srcEpochs := put none ch.fabric.srcEpochs h.self (some h.epoch) } }).barriersAgain

def execHello (port : Nat) (h : HelloMsg) (s : State) : Res := onChip s fun k ch => ch.helloIn k port h

/-- A link is declared failed: its replay buffer is dropped, its waiting frames take another way, barrier messages go again (R406, R410,
R418). -/
def Chip.linkFail (ch : Chip) (k : Clock) (p cause : Nat) : Chip :=
  let waiting := (ch.prt p).queue
  let ch := ch.modPort p fun x => { (x.fail k cause) with replay := [], queue := [], deficits := [] }
  let ch := waiting.foldl (fun c f =>
    let h := frameHdr f.bytes
    match c.route h.dst h.flow (some (dirOf (c.fabric.basePort p)).1) h.vc with
    | some (q, vc) => c.queueAt q { f with vc := vc, bytes := ({ h with vc := vc } : FrameHdr).bytes ++ f.bytes.drop 32 }
    | none => c) ch
  ch.barriersAgain

/-- CABLE_PRESENCE_CHANGE: a cable put in begins bring-up; one pulled ends the link. -/
def Chip.cableChange (ch : Chip) (k : Clock) (p : Nat) (present : Bool) : Chip :=
  let was := (ch.prt p).st
  let ch := ch.modPort p fun x => { x with cable := present }
  if present then (if ch.portEnabled p && (was = .disabled || was = .failed) && (ch.ready || ch.inRecoveryMode) then ch.modPort p fun x => { x with st := .training, cause := 0 } else ch)
  else if was = .up then ch.linkFail k p 6
  else if was = .disabled || was = .failed then ch
  else ch.modPort p fun x => x.fail k 1

def execCablePresenceChange (port : Nat) (present : Bool) (s : State) : Res := onChip s fun k ch => if 8 ≤ port then ch else ch.cableChange k port present

/-! ### The link layer (R406) -/

/-- A control block arrived on a link; it may carry credit for both channels. -/
def Port.heard (p : Port) (k : Clock) : Port := { p with lastCtl := k.localNs, creditAt := [(0, k.localNs), (1, k.localNs)] }

/-- HOP_ACKNOWLEDGE: the receiver has every frame to hseq. -/
def execHopAcknowledge (port hseq : Nat) (s : State) : Res :=
  onChip s fun k ch => if ch.portUp port then ch.modPort port fun x => { (x.heard k) with replay := x.replay.filter fun f => decide (hseq < f.1) } else ch

/-- HOP_REPLAY_REQUEST: every frame from hseq on is sent again; one replayed 8 times fails the link. -/
def Chip.hopReplay (ch : Chip) (k : Clock) (p hseq : Nat) : Chip :=
  if !ch.portUp p then ch
  else
    let x := (ch.prt p).heard k
    let again := x.replay.filter fun f => decide (hseq ≤ f.1)
    let y := { x with replay := x.replay.map fun f => if hseq ≤ f.1 then (f.1, f.2.1 + 1, f.2.2) else f, replays := satTo 0xFFFF (x.replays + again.length) }
    let ch := ch.modPort p fun _ => y
    if again.any fun f => decide (8 ≤ f.2.1 + 1) then ch.linkFail k p 6
    else again.foldl (fun c f => c.send (.frame p f.2.2)) ch

def execHopReplayRequest (port hseq : Nat) (s : State) : Res := onChip s fun k ch => ch.hopReplay k port hseq

/-- FEC_UNCORRECTABLE_CODEWORD: counted, and a replay asked for from the first frame not received whole; 16 within 1 ms fail the link. -/
def Chip.fecUe (ch : Chip) (k : Clock) (p : Nat) : Chip :=
  if !ch.portUp p then ch
  else
    let ts := ((ch.prt p).ueTimes.filter fun t => decide (k.localNs < t + 1000000)) ++ [k.localNs]
    let ch := ch.modPort p fun x => { x with fecUe := satTo 0xFFFF (x.fecUe + 1), ueTimes := ts }
    if 16 ≤ ts.length then ch.linkFail k p 6 else ch.send (.control p 1 (ch.prt p).rxHseq)

def execFecUncorrectable (port : Nat) (s : State) : Res := onChip s fun k ch => ch.fecUe k port

/-- LINK_CREDIT_TIMEOUT: frames wait on a channel and no credit for it came for 10 µs. -/
def execLinkCreditTimeout (port vc : Nat) (s : State) : Res :=
  onChip s fun k ch =>
    if ch.portUp port && (ch.prt port).queue.any (fun f => decide (f.vc = vc)) && decide (look 0 (ch.prt port).creditAt vc + 10000 ≤ k.localNs) then ch.linkFail k port 6 else ch

/-- LINK_SILENCE_TIMEOUT: lock lost, or no control block for 10 µs. -/
def execLinkSilenceTimeout (port : Nat) (lockLost : Bool) (s : State) : Res :=
  onChip s fun k ch => if ch.portUp port && (lockLost || decide ((ch.prt port).lastCtl + 10000 ≤ k.localNs)) then ch.linkFail k port 6 else ch

/-! ### The frame scheduler (R416) -/

/-- The weight of a job at a port; traffic of a job not set up here has weight 1. -/
def Chip.weightOf (ch : Chip) (job : Nat) : Nat := match ch.jobSlot job with | some (_, j) => j.weight | none => 1

/-- The frame a port sends next and the deficits after it: a barrier frame first, else by deficit round robin over the jobs that wait, the
quantum of weight 1 being 4,176 bytes, the longest frame. -/
def Chip.nextFrame (ch : Chip) (p : Nat) : Option (TxFrame × Store Nat) :=
  let x := ch.prt p
  match x.queue.find? (·.barrier) with
  | some f => some (f, x.deficits)
  | none =>
    let jobs := (x.queue.map (·.job)).eraseDups
    let fits (d : Store Nat) (j : Nat) : Option TxFrame := (x.queue.find? fun f => f.job = j).bind fun f => if f.bytes.length ≤ look 0 d j then some f else none
    match jobs.findSome? fun j => (fits x.deficits j).map fun f => (j, f) with
    | some (j, f) => some (f, upd 0 x.deficits j (· - f.bytes.length))
    | none =>
      let d := jobs.foldl (fun m j => upd 0 m j (· + 4176 * ch.weightOf j)) x.deficits
      (jobs.findSome? fun j => (fits d j).map fun f => (j, f)).map fun y => (y.2, upd 0 d y.1 (· - y.2.bytes.length))

/-- PORT_FRAME_SEND: the frame leaves with its hop sequence number and is kept until the hop acknowledges it. -/
def Chip.portSend (ch : Chip) (p : Nat) : Chip :=
  if !ch.portUp p then ch
  else match ch.nextFrame p with
    | none => ch
    | some (f, d) =>
      let n := (ch.prt p).txHseq
      let bytes := f.bytes.take 20 ++ toBe n 4 ++ f.bytes.drop 24
      let rest := (ch.prt p).queue.erase f
      let d := if rest.any fun g => decide (g.job = f.job) then d else put 0 d f.job 0
      (ch.modPort p fun x => { x with queue := rest, deficits := d, txHseq := (n + 1) % 2 ^ 32, replay := x.replay ++ [(n, 0, bytes)] }).send (.frame p bytes)

def execPortFrameSend (port : Nat) (s : State) : Res := onChip s fun _ ch => ch.portSend port

/-! ### Frames that arrive (R405, R409) -/

/-- The frame the receiver waits for is acknowledged at the hop; one received before is acknowledged again and dropped, and one past a frame
not received whole is dropped, for the replay brings it again (R406). -/
def Chip.hopIn (ch : Chip) (k : Clock) (p : Nat) (bs : List Byte) (f : Chip → Chip) : Chip :=
  if !ch.portUp p || bs.length < 32 then ch
  else
    let h := (frameHdr bs).hseq
    let x := ch.prt p
    let ch := ch.modPort p fun y => y.heard k
    if h < x.rxHseq then ch.send (.control p 0 (x.rxHseq - 1))
    else if x.rxHseq < h then ch
    else f ((ch.modPort p fun y => { y with rxHseq := (h + 1) % 2 ^ 32 }).send (.control p 0 h))

/-- DATA_FRAME: forwarded by dst alone, or delivered here. -/
def execDataFrame (port : Nat) (bytes : List Byte) (s : State) : Res :=
  onChip s fun k ch => ch.hopIn k port bytes fun c =>
    if (frameHdr bytes).dst ≠ c.fabric.selfId then c.forwardFrame port bytes
    else if (frameHdr bytes).type = 0 then c.dataHere k port bytes else c

/-- EPOCH_NOTICE. -/
def execEpochNotice (port : Nat) (bytes : List Byte) (s : State) : Res :=
  onChip s fun k ch => ch.hopIn k port bytes fun c =>
    if (frameHdr bytes).dst ≠ c.fabric.selfId then c.forwardFrame port bytes
    else if (frameHdr bytes).type = 4 then c.noticeHere k bytes else c

end Sys2Proof.Machine
end

