-- ==== Sys2Proof/Machine/RegWrites.lean ====
section
/-! DEFINITION. Register writes: what each register refuses and what a write of it does (spec/13_host_protocol.md R391; spec/00_scope.md
R16 to R18, R512; spec/04_cluster.md R141, R513, R514; spec/05_scratchpad.md R164 to R174; spec/06_streams_barriers.md R206, R207, R213). -/

namespace Sys2Proof.Machine

/-- A register write's own effect: the block after it, or the refusal at the value's offset. -/
abbrev RegEffect := Except Refuse Chip

/-- A write refused by the first of its conditions, or its effect. -/
def ruled (off : Nat) (cs : List (Bool × Status)) (ch : Chip) : RegEffect :=
  match cs.find? (·.1) with
  | some c => .error (c.2, some off)
  | none => .ok ch

/-- A slot of a cluster that runs or waits (R513). -/
def Cluster.anyBusy (c : Cluster) : Bool := (List.range 4).any fun n => (c.slot n).st.busy

/-! ### CLU (R82 to R85, R112, R113) -/

def Chip.writeClu (ch : Chip) (c reg : Nat) (v : Word) (off : Nat) : RegEffect :=
  let cl := ch.cl c
  let oag : Oag → Nat → (Cluster → Oag → Cluster) → RegEffect := fun o n set =>
    ruled off [ (decide (n = 11) && geomZero v.toNat, .badField), (decide (n = 12) && v.getLsbD 0 && o.geomBad, .badField),
                (oagAbove n v.toNat, .lengthRange), (cl.anyBusy, .notReady) ] (ch.modCl c fun x => set x (o.write n v))
  if reg < 0x0E then oag cl.oag0 reg fun x o => { x with oag0 := o }
  else if 0x10 ≤ reg ∧ reg < 0x1E then oag cl.oag1 (reg - 0x10) fun x o => { x with oag1 := o }
  else if reg = 0x22 ∨ reg = 0x23 then ruled off [(cl.anyBusy, .notReady)] (ch.modCl c fun x => x.writeLocal reg v)
  else .ok (ch.modCl c fun x => x.writeLocal reg v)

/-! ### SEQ (R141, R514) -/

/-- What a CFG write that changes base or length binds the slot to (R514); with a length of 0 the slot keeps its partition, context and dva
(DESIGN CHOICE, log entry 66). -/
def Cluster.bind (c : Cluster) (n prio base len : Nat) : Cluster :=
  let t := c.loads.find? fun t => decide (t.base = base) && decide (t.len = len)
  c.modSlot n fun s =>
    let s := { s with st := .loaded, prio := prio, base := base, len := len, ptr := 0, depth := 0, cnt := [], start := [], total := [], yields := 0, hint := none, wait := none,
                      cancelling := false, run := 0, plan := [] }
    match t with
    | some t => if len = 0 then s else { s with part := t.part, ctx := t.ctx, dva := t.dva, plan := t.plan }
    | none => s

def Chip.writeSeq (ch : Chip) (c n reg : Nat) (v : Word) (off : Nat) : RegEffect :=
  let cl := ch.cl c
  let s := cl.slot n
  if reg = 0 then
    let prio := bitsAt v.toNat 30 2
    let len := bitsAt v.toNat 15 15
    let base := bitsAt v.toNat 0 14
    let same := decide (base = s.base) && decide (len = s.len)
    let known := decide (len = 0) || cl.loads.any fun t => decide (t.base = base) && decide (t.len = len)
    ruled off
      [ (!same && !known, .badField), (decide (16384 < len) || decide (16384 < base + len), .lengthRange), (s.st.busy, .notReady),
        (decide (0 < len) && (List.range 4).any fun m => decide (m ≠ n) && decide (0 < (cl.slot m).len) && overlaps base len (cl.slot m).base (cl.slot m).len, .noResource) ]
      (ch.modCl c fun x => if same then x.modSlot n fun y => { y with prio := prio } else x.bind n prio base len)
  else if reg < 5 then
    ruled off [(s.st.busy, .notReady)] (ch.modCl c fun x => x.modSlot n fun y => { y with budgets := put 0xFFFFFF y.budgets (reg - 1) v.toNat })
  else .ok ch

/-! ### SPD (R164 to R173) -/

/-- Whether a pair's declaration overlaps another valid pair. -/
def Cluster.pairMeets (c : Cluster) (n : Nat) (v : Word) : Bool :=
  (List.range 16).any fun m => let w := look 0 c.dbuf m; decide (m ≠ n) && pairValid w && overlaps (pairBase v) (2 * pairHalf v) (pairBase w) (2 * pairHalf w)

/-- Whether a scratchpad range meets the range of an armed stream descriptor of the cluster. -/
def Chip.armedMeets (ch : Chip) (c a n : Nat) : Bool :=
  (ch.rg (regionOf c)).streams.any fun e => (e.2.active.toList ++ e.2.next.toList).any fun d =>
    decide (d.dir < 2) && decide ((ch.cl c).lcid = some d.lcid) && overlaps a n (d.spdBase * 512) (2 * d.halfBytes)

/-- The checks of a go (R170); a parked cluster's banks are in retention (R173). -/
def Chip.goChecks (ch : Chip) (c op : Nat) : List (Bool × Status) :=
  let cl := ch.cl c
  let dst := cl.opDst.toNat
  let src := cl.opSrc.toNat
  let len := cl.opLen.toNat
  [ (decide (op = 0) || decide (op = 3) || decide (dst % 32 ≠ 0) || decide (src % 32 ≠ 0) || decide (len % 32 ≠ 0), .badField),
    (decide (spdSize < dst + len) || (decide (op = 2) && decide (spdSize < src + len)), .lengthRange),
    (cl.opBusy.isSome, .notReady), (cl.anyBusy, .notReady),
    (decide (len ≠ 0) && (cl.parked || cl.unparkAt.isSome) || !cl.rangeOn dst len || (decide (op = 2) && !cl.rangeOn src len), .notReady),
    (ch.armedMeets c dst len, .notReady) ]

/-- A go: nothing for a length of 0; otherwise the engine is busy until its bytes are moved (R170, R171). -/
def Chip.startOp (ch : Chip) (p c op : Nat) : Chip :=
  ch.modCl c fun x =>
    let len := x.opLen.toNat
    if len = 0 then x
    else { x with opBusy := some { copy := decide (op = 2), dst := x.opDst.toNat, src := x.opSrc.toNat, len := len, part := p } }

/-- A bank passes to another power state (R173): off loses its words, and powering it up clears their written flags (R158); the way back to
on takes 2 µs or 5 µs. From off to retention a bank is powered up at once, and its way back takes 2 µs; a write takes a bank off on also
under a fill or copy in progress (DESIGN CHOICE, log entries 62 and 64). -/
def Cluster.setBank (c : Cluster) (k : Clock) (b old new : Nat) : Cluster :=
  let c := if new = 2 ∨ old = 2 then
      { c with spd := c.spd.filter fun e => bankOf (e.1 / 32) ≠ b, written := c.written.filter fun e => bankOf e.1 ≠ b,
               subst := c.subst.filter fun e => bankOf e.1 ≠ b, spdErr := c.spdErr.filter fun e => bankOf e.1 ≠ b } else c
  let at_ := if new = 0 then (if old = 1 then k.localNs + 2000 else if old = 2 then k.localNs + 5000 else look 0 c.bankReady b) else 0
  { c with bankReady := put 0 c.bankReady b at_ }

def Cluster.setBanks (c : Cluster) (k : Clock) (v : Word) : Cluster :=
  { (List.range 16).foldl (fun x b => x.setBank k b (c.bankState b) (bitsAt v.toNat (2 * b) 2)) c with bankPwr := v }

def Chip.writeSpd (ch : Chip) (k : Clock) (p c n reg : Nat) (v : Word) (off : Nat) : RegEffect :=
  let cl := ch.cl c
  match reg with
  | 0 =>
    ruled off
      [ (pairValid v && cl.pairMeets n v, .badField), (decide (4096 < bitsAt v.toNat 18 13) || decide (spdSize < pairBase v + 2 * pairHalf v), .lengthRange),
        (cl.anyBusy, .notReady) ]
      (ch.modCl c fun x => { x with dbuf := put 0 x.dbuf n v, role := if pairValid v then x.role &&& ~~~(BitVec.twoPow 16 n) else x.role })
  | 2 => .ok (ch.modCl c fun x => { x with opDst := v })
  | 3 => .ok (ch.modCl c fun x => { x with opSrc := v })
  | 4 => ruled off [(decide (spdSize < v.toNat), .lengthRange)] (ch.modCl c fun x => { x with opLen := v })
  | 5 => .ok (ch.modCl c fun x => { x with opPat := v })
  | 6 =>
    let op := bitsAt v.toNat 1 2
    let ch' := ch.modCl c fun x => { x with op := BitVec.ofNat 2 op }
    if v.getLsbD 0 then ruled off (ch.goChecks c op) (ch'.startOp p c op) else .ok ch'
  | 7 =>
    ruled off [ ((List.range 16).any fun b => decide (bitsAt v.toNat (2 * b) 2 = 3), .badField), (cl.anyBusy, .notReady) ] (ch.modCl c fun x => x.setBanks k v)
  | 8 => .ok (ch.modCl c fun x => if v.getLsbD 0 then { x with ecc := { x.ecc with ue := false } } else x)
  | _ => .ok ch

/-! ### STR (R197, R207, R213) -/

/-- The checks of a member set. -/
def Chip.maskChecks (ch : Chip) (p b : Nat) (m : BitVec 64) : List (Bool × Status) :=
  let x := (ch.pt p).bar b
  [ (decide (m &&& ~~~(ch.pt p).lcids ≠ 0), .notPermitted), (x.job.isSome, .notPermitted), (decide (m = 0), .badField), (decide (x.arrived ≠ 0), .notReady) ]

def Chip.writeStr (ch : Chip) (k : Clock) (p r n reg : Nat) (v : Word) (off : Nat) : RegEffect :=
  let x := (ch.pt p).bar n
  match reg with
  | 0 => .ok (ch.modStr r n fun s => { s with relDup := s.relDup && !v.getLsbD 21, late := s.late && !v.getLsbD 20 })
  | 4 =>
    ruled off [(ch.semWaited r n, .notReady)]
      (ch.modRg r fun g => { g with semFlight := g.semFlight ++ [(n, v.toNat, k.localNs + ceilDiv (3 * ch.period (dieOfRegion r)) 42)] })
  | 6 => let m := (x.mask &&& 0xFFFFFFFF00000000#64) ||| v.setWidth 64
         ruled off (ch.maskChecks p n m) (ch.modBar p n fun y => { y with mask := m })
  | 7 => let m := (x.mask &&& 0xFFFFFFFF#64) ||| (v.setWidth 64 <<< 32)
         ruled off (ch.maskChecks p n m) (ch.modBar p n fun y => { y with mask := m })
  | _ => .ok ch

/-! ### The other blocks (R225, R231, R260, R345, R448, R476, R483, R494) -/

def Chip.writeHbm (ch : Chip) (s reg : Nat) (v : Word) (off : Nat) : RegEffect :=
  match reg with
  | 0 => .ok (ch.modSk s fun x => { x with postEn := v.getLsbD 2 })
  | 1 => .ok (ch.modSk s fun x => { x with riskNs := bitsAt v.toNat 16 16 })
  | 3 => ruled off [(decide (bitsAt v.toNat 10 2 = 3), .badField)] (ch.modSk s fun x => { x with dlySel := v })
  | 5 => .ok (ch.modSk s fun x => { x with laneWarn := x.laneWarn && !v.getLsbD 3, ue := x.ue && !v.getLsbD 0 })
  | _ => .ok ch

def Chip.writePwr (ch : Chip) (i reg : Nat) (v : Word) : RegEffect :=
  match reg with
  | 1 => .ok { ch with power := { ch.power with overCap := ch.power.overCap && !v.getLsbD 1, flashHold := v.getLsbD 0 } }
  | 3 => .ok (ch.modDie i fun d => { d with lock := v.toNat })
  | 7 => .ok (ch.modPt i fun x => { x with fill := v })
  | _ => .ok ch

/-- Whether a dump area holds a page that is no writable data page of the partition. -/
def Partition.areaBad (x : Partition) : Bool :=
  (List.range x.dumpLen).any fun i => let e := x.pte (x.dumpHi * 65536 + x.dumpLo + i); !(e.v && e.wr && !e.wt)

def Chip.writeTal (ch : Chip) (i reg : Nat) (v : Word) (off : Nat) : RegEffect :=
  let x := ch.pt i
  let area : Partition → RegEffect := fun y =>
    ruled off [ (y.areaBad, .notPermitted), (decide (4096 < y.dumpLen), .lengthRange), (x.dumping, .notReady) ] (ch.modPt i fun _ => { y with dumpPos := 0 })
  match reg with
  | 4 => ruled off [ (decide (v.toNat < 100) || decide (10000000 < v.toNat), .badField) ] (ch.modPt i fun y => { y with wdog := v.toNat })
  | 5 => area { x with dumpLo := bitsAt v.toNat 16 16 }
  | 6 => area { x with dumpHi := v.toNat }
  | 7 => area { x with dumpLen := v.toNat }
  | _ => .ok ch

/-- What a write of a register does by its block. -/
def Chip.blockEffect (ch : Chip) (k : Clock) (p : Nat) (a : RegAddr) (v : Word) (off : Nat) : RegEffect :=
  let c := (ch.regCluster a).getD 0
  match a.block with
  | 1 => ch.writeClu c a.reg v off
  | 2 => ch.writeSeq c a.index a.reg v off
  | 3 => ch.writeSpd k p c a.index a.reg v off
  | 4 => ch.writeStr k p a.inst a.index a.reg v off
  | 5 => .ok (if a.reg = 4 && v.getLsbD 31 then ch.modPt a.inst fun x => { x with mmuValid := false } else ch)
  | 6 => .ok (if a.reg = 2 then ch.modPt a.inst fun x => { x with skipped := x.skipped &&& (65535 - v.toNat % 65536) } else ch)
  | 7 => ch.writeHbm a.inst a.reg v off
  | 11 => .ok (if a.reg = 1 && v.getLsbD 31 then ch.modEng a.inst fun e => { e with faultValid := false } else ch)
  | 16 => ch.writePwr a.inst a.reg v
  | 17 => ch.writeTal a.inst a.reg v off
  | 18 => .ok (if a.reg = 3 then { ch with boot := { ch.boot with fullNext := v.getLsbD 0 } } else ch)
  | _ => .ok ch

/-- The effect of one write of a register whose address is good, its reserved bits 0 (R16, R18): a cluster that is not ready refuses it after
what R512 puts ahead (R176). -/
def Chip.regEffect (ch : Chip) (k : Clock) (p : Nat) (a : RegAddr) (v : Word) (off : Nat) : RegEffect :=
  let c := (ch.regCluster a).getD 0
  let x := ch.blockEffect k p a v off
  if clusterBlock a.block && decide ((ch.cl c).svc ≠ .owned) && decide ((ch.cl c).svc ≠ .clean) then
    match x with
    | .error r => .error (if r.1.rank < 4 then r else (.notReady, some off))
    | .ok _ => .error (.notReady, some off)
  else x

/-- Whether a written value sets reserved bits of its register (R18). -/
def RegAddr.reservedSet (a : RegAddr) (v : Word) : Bool :=
  match a.row with
  | some (_, _, mask) => decide (v.toNat &&& (full32 - mask) ≠ 0)
  | none => false

/-- Whether a write starts a fill or copy that takes time (R170). -/
def Chip.starts (ch : Chip) (a : RegAddr) (v : Word) : Option Nat :=
  if a.block = 3 && a.reg = 6 && v.getLsbD 0 && decide ((ch.cl ((ch.regCluster a).getD 0)).opLen ≠ 0) then ch.regCluster a else none

/-- The writes of a command in listed order: the block after those that are not refused, the clusters whose engines they start, and what
refuses the others. -/
def Chip.regWrites (ch : Chip) (k : Clock) (p : Nat) : Nat → List (RegAddr × Word) → Chip × List Nat × List Refuse
  | _, [] => (ch, [], [])
  | off, (a, v) :: t =>
    match ch.regEffect k p a v off with
    | .error r => let x := ch.regWrites k p (off + 8) t; (x.1, x.2.1, r :: x.2.2)
    | .ok ch' => let x := ch'.regWrites k p (off + 8) t; (x.1, (ch.starts a v).toList ++ x.2.1, x.2.2)

/-- The addresses and values of a REG_WRITE. -/
def regPairs (q : Req) : List (RegAddr × Word) :=
  (List.range (beAt q.payload 0 2)).map fun i => (regAddr (beAt q.payload (4 + 8 * i) 4), BitVec.ofNat 32 (beAt q.payload (8 + 8 * i) 4))

/-- The checks of a REG_WRITE before any write, in the order of R512. -/
def regWriteChecks (q : Req) (ch : Chip) : List (Bool × Refuse) :=
  let n := beAt q.payload 0 2
  let held := ((regPairs q).zipIdx).filter fun x => decide (8 * x.2 + 12 ≤ q.payload.length)
  ch.regChecks q.part true (held.map fun x => (4 + 8 * x.2, x.1.1))
    ([ (decide (n = 0), (.badField, some 0)), reserved q 2 2 ] ++ held.map fun x => (x.1.1.reservedSet x.1.2, (.badField, some (8 + 8 * x.2))))
    [ (decide (128 < n) || decide (q.payload.length ≠ 4 + 8 * n), (.lengthRange, some 0)) ]

/-- REG_WRITE: every address is checked first, and one failure refuses the whole command (R391). -/
def regWriteCmd (q : Req) (k : Clock) (ch : Chip) : Cmd :=
  match firstFail (regWriteChecks q ch) with
  | some r => .error r
  | none =>
    let x := ch.regWrites k q.part 8 (regPairs q)
    match leastRank (x.2.2 ++ (if x.2.1.isEmpty then [] else if (ch.worksFull q).1 then [(ch.worksFull q).2] else [])) with
    | some r => .error r
    | none =>
      match x.2.1 with
      | [] => .ok (x.1.reply q .ok [])
      | cs => .ok ((cs.foldl (fun y c => (y.accept k q 0x0302 (.fillCopy c)).2) x.1).reply q .accepted [])

/-- REG_WRITE (R391). -/
def execRegWrite (q : Req) (s : State) : Res := onChip s (runCmd 0x0302 q (regWriteCmd q))

/-! ### One register's write -/

/-- What refuses a write of one register before its own rules, in the order of R512. -/
def Chip.writeCheck (ch : Chip) (p : Nat) (a : RegAddr) (v : Word) : Option Refuse :=
  firstFail (ch.regChecks p true [(0, a)] [(a.reservedSet v, (.badField, some 0))] [])

/-- A write of one register by a partition, refused without effect (R17, R18). -/
def writeReg (p addr : Nat) (v : Word) (k : Clock) (ch : Chip) : Chip :=
  let a := regAddr addr
  if !ch.ready || (ch.writeCheck p a v).isSome then ch
  else match ch.regEffect k p a v 0 with
    | .ok ch' => ch'
    | .error _ => ch

/-- REGISTER_WRITE (R16). -/
def execRegisterWrite (p : Nat) (addr value : Word) (s : State) : Res := onChip s (writeReg p addr.toNat value)

/-- CLU_SR_SEED_HI_WRITE: commits both halves to the generator (R85). -/
def execSeedHiWrite (p lcid : Nat) (value : Word) (s : State) : Res := onChip s (writeReg p (mkAddr 1 lcid 0 0x23) value)

/-- OAG_START: a write of a generator's CTRL (R112, R113). -/
def execOagStart (p lcid gen : Nat) (value : Word) (s : State) : Res := onChip s (writeReg p (mkAddr 1 lcid 0 (gen % 2 * 16 + 12)) value)

/-- SEQ_SLOT_CFG_WRITE (R514). -/
def execSlotCfgWrite (p lcid n : Nat) (value : Word) (s : State) : Res := onChip s (writeReg p (mkAddr 2 lcid n 0) value)

/-- SPD_DBUF_WRITE (R164). -/
def execDbufWrite (p lcid n : Nat) (value : Word) (s : State) : Res := onChip s (writeReg p (mkAddr 3 lcid n 0) value)

/-- SCRATCHPAD_FILL: go with op 1 (R171). -/
def execScratchpadFill (p lcid : Nat) (s : State) : Res := onChip s (writeReg p (mkAddr 3 lcid 0 6) 3#32)

/-- SCRATCHPAD_COPY: go with op 2 (R171). -/
def execScratchpadCopy (p lcid : Nat) (s : State) : Res := onChip s (writeReg p (mkAddr 3 lcid 0 6) 5#32)

/-- SPD_BANK_PWR_WRITE (R173). -/
def execBankPwrWrite (p lcid : Nat) (value : Word) (s : State) : Res := onChip s (writeReg p (mkAddr 3 lcid 0 7) value)

/-- STR_SEM_WRITE (R207). -/
def execSemWrite (p region k : Nat) (value : Word) (s : State) : Res := onChip s (writeReg p (mkAddr 4 region k 4) value)

/-- STR_BAR_MASK_WRITE (R213). -/
def execBarMaskWrite (p bar : Nat) (hi : Bool) (value : Word) (s : State) : Res := onChip s (writeReg p (mkAddr 4 0 bar (if hi then 7 else 6)) value)

/-! ### What completes later -/

/-- A fill or copy whose bytes are all moved is done, and its owner hears of it (R170, R171). -/
def Chip.fillCopyDone (ch : Chip) (k : Clock) (c : Nat) : Chip :=
  match (ch.cl c).opBusy with
  | none => ch
  | some o =>
    if o.moved < o.len then ch
    else
      let ch := ch.modCl c fun x => { x with opBusy := none }
      let owner := ch.ownerOfCl c
      match ch.works.find? fun w => decide (w.kind = .fillCopy c) with
      | some w =>
        let ch := ch.complete k w 0xE001 .ok []
        (match owner with | some p => if p = w.part then ch else ch.raise k p 0xE001 .ok 0 [] | none => ch)
      | none => (match owner with | some p => ch.raise k p 0xE001 .ok 0 [] | none => ch)

/-- FILL_COPY_COMPLETE (R170). -/
def execFillCopyComplete (c : Nat) (s : State) : Res := onChip s fun k ch => ch.fillCopyDone k c

/-- BANK_POWER_ON_COMPLETE: the bank is on (R173). -/
def execBankPowerOnComplete (c bank : Nat) (s : State) : Res :=
  onChip s fun k ch => ch.modCl c fun x =>
    if bank < 16 && decide (look 0 x.bankReady bank ≤ k.localNs) then { x with bankReady := put 0 x.bankReady bank 0 } else x

end Sys2Proof.Machine
end

