-- ==== Sys2Proof/Machine/Tally.lean ====
section
/-! DEFINITION. The tally: scans, suspects and watchdogs (spec/16_faults_recovery.md R469 to R471). -/

namespace Sys2Proof.Machine

/-! ### Suspects (R470) -/

/-- Whether a suspect has not been replayed to its end. -/
def Suspicion.waits : Suspicion → Bool
  | .todo => true
  | .replaying _ => true
  | _ => false

/-- Whether a stream's descriptor is a context's. -/
def Stream.ofCtx (ctx : Nat) (st : Stream) : Bool := match st.active.or st.last with | some d => decide (d.ctx = ctx) | none => false

/-- Whether a slot has started and not ended. -/
def Slot.started (s : Slot) : Bool := s.st.busy

/-- The slots a context has started, by cluster and number. -/
def Chip.startedSlots (ch : Chip) (p ctx : Nat) : List (Nat × Nat) :=
  (ch.clustersOf p).flatMap fun c => (List.range 4).filterMap fun n =>
    let s := (ch.cl c).slot n
    if s.started && decide (s.part = p) && decide (s.ctx = ctx) then some (c, n) else none

/-- The engines with a task of a context. -/
def Chip.startedTasks (ch : Chip) (p ctx : Nat) : List Nat :=
  (List.range 16).filter fun e => let g := (ch.rg e).eng; g.busy && decide (g.part = some p) && decide (g.ctx = ctx)

/-- The contexts that own a party of the hung set, and those with a started slot on a cluster of a hung slot, ascending. -/
def Chip.suspectsOf (ch : Chip) (hung : List Party) : List (Nat × Nat) :=
  let own := hung.filterMap ch.partyCtx
  let near := hung.flatMap fun q => match q with
    | .slot c _ => (List.range 4).filterMap fun n => let s := (ch.cl c).slot n; if s.started then some (s.part, s.ctx) else none
    | _ => []
  sortBy (fun x => x.2) (own ++ near).eraseDups

/-- Holds a suspect's slots, its watchdog paused, or lets them go on. -/
def Chip.hold (ch : Chip) (k : Clock) (p ctx : Nat) (b : Bool) : Chip :=
  let ch := (ch.startedSlots p ctx).foldl (fun c s => c.modSlot s.1 s.2 fun x => { x with held := b }) ch
  let ch := ch.modPt p fun x => { x with contexts := upd none x.contexts ctx fun o => o.map fun y => if b then { y.pause k.localNs with held := true } else { y.resume k.localNs with held := false } }
  if b then ch else (ch.clustersOf p).foldl (fun c x => c.wake x) ch

/-- The event of a hang: cause 10, before any step. -/
def Chip.hangEvent (ch : Chip) (k : Clock) (p : Nat) : Chip :=
  (ch.modPt p fun x => { x with hangs := satTo 0xFFFF (x.hangs + 1) }).raise k p 0xE016 .recovering 0
    (toBe 10 2 ++ toBe 0 1 ++ toBe 0 1 ++ toBe 0xFFFFFFFF 4 ++ [0xFF, 0xFF, 0xFF, 0] ++ zeros 8)

/-- A named context takes a context reset, with quarantine or without. -/
def Chip.nameCtx (ch : Chip) (k : Clock) (p ctx : Nat) (quar : Bool) : Chip :=
  (ch.enqueue { cause := 10, unit := .ctx p ctx, detail := 0, seen := k.timebase, quar := quar }).faultEvent k [p] 10 0 (.ctx p ctx) 0

/-- A round begins: every suspect is held until its turn. -/
def Chip.beginRound (ch : Chip) (k : Clock) (hung : List Party) : Chip :=
  let ss := ch.suspectsOf hung
  let ch := ((ss.map (·.1)).eraseDups).foldl (fun c p => c.hangEvent k p) ch
  if ch.rcv.survivors ≠ [] && ss.any (fun x => decide (x ∈ ch.rcv.survivors)) then
    let all := ch.rcv.survivors
    all.foldl (fun c x => c.nameCtx k x.1 x.2 false) { ch with rcv := { ch.rcv with survivors := [] } }
  else
    let ch := ss.foldl (fun c x => c.hold k x.1 x.2 true) ch
    { ch with rcv := { ch.rcv with suspects := ss.map fun x => (x.1, x.2, .todo), survivors := [] } }

def Chip.setSuspicion (ch : Chip) (p ctx : Nat) (s : Suspicion) : Chip :=
  { ch with rcv := { ch.rcv with suspects := ch.rcv.suspects.map fun x => if x.1 = p ∧ x.2.1 = ctx then (p, ctx, s) else x } }

/-- The replay of one suspect judged at a scan: it hangs again when a party of its own is hung. -/
def Chip.judge (ch : Chip) (k : Clock) (hung : List Party) (p ctx since : Nat) : Chip :=
  let slots := ch.startedSlots p ctx
  let ended := slots.isEmpty && (ch.startedTasks p ctx).isEmpty
  let caught := !slots.isEmpty && slots.all fun s => (ch.cl s.1).replay.isNone && (ch.cl s.1).capture.isNone
  let last := match look none (ch.pt p).contexts ctx with | some y => max since y.restart | none => since
  if ended || caught then (ch.hold k p ctx true).setSuspicion p ctx .held
  else if (hung.filterMap ch.partyCtx).contains (p, ctx) || decide (last + 10 * (ch.pt p).wdog * 1000 ≤ k.localNs) then
    ((ch.hold k p ctx true).setSuspicion p ctx .named).nameCtx k p ctx true
  else ch

/-- When every suspect has been replayed, those not named resume together. -/
def Chip.endRound (ch : Chip) (k : Clock) : Chip :=
  let ss := ch.rcv.suspects
  if ss.isEmpty || ss.any (fun x => x.2.2.waits) then ch
  else
    let live := ss.filter fun x => x.2.2 = .held
    let named := ss.any fun x => x.2.2 = .named
    let ch := live.foldl (fun c x => c.hold k x.1 x.2.1 false) ch
    { ch with rcv := { ch.rcv with suspects := [], survivors := if named then [] else live.map fun x => (x.1, x.2.1) } }

/-! ### Scans (R469) -/

/-- The scan every 100 µs: the fixed-point pass, and the parties not live at this scan if one of them is hung. -/
def Chip.tallyScan (ch : Chip) (k : Clock) : Chip :=
  if !ch.ready || k.localNs < ch.rcv.lastScan + 100000 then ch
  else
    let t := ch.scanTable
    let hung := if t.any fun r => !r.live && ch.rcv.table.any fun o => !o.live && decide (o.party = r.party) && decide (o.obj = r.obj)
      then (t.filter fun r => !r.live).map (·.party) else []
    let ch := { ch with rcv := { ch.rcv with table := t, scans := satTo 0xFFFFFFFF (ch.rcv.scans + 1), lastScan := k.localNs } }
    if ch.rcv.suspects.isEmpty then (if hung.isEmpty then ch else ch.beginRound k hung)
    else (ch.rcv.suspects.foldl (fun c x => match x.2.2 with | .replaying since => c.judge k hung x.1 x.2.1 since | _ => c) ch).endRound k

def execTallyScan (s : State) : Res := onChip s fun k ch => ch.tallyScan k

/-! ### Replay of a suspect (R470) -/

/-- SUSPECT_REPLAY: the next suspect in ascending order replays in place while the others are held. -/
def Chip.suspectReplay (ch : Chip) (k : Clock) (p ctx : Nat) : Chip :=
  match ch.rcv.suspects.find? fun x => x.2.2.waits with
  | some (p', c', .todo) =>
    if p' ≠ p || c' ≠ ctx then ch
    else
      let cs := ((ch.startedSlots p ctx).map (·.1)).eraseDups
      let mine : Slot → Bool := fun s => decide (s.part = p) && decide (s.ctx = ctx)
      let ch := cs.foldl (fun c x => c.replayInPlace k x mine (Stream.ofCtx ctx)) ch
      let ch := (ch.hold k p ctx false).setSuspicion p ctx (.replaying k.localNs)
      { ch with rcv := { ch.rcv with table := [] } }
  | _ => ch

def execSuspectReplay (p ctx : Nat) (s : State) : Res := onChip s fun k ch => ch.suspectReplay k p ctx

/-! ### The no-progress watchdog (R471) -/

/-- NO_PROGRESS_WATCHDOG: a context with started work that made no progress for its partition's period is named with cause 11. -/
def Chip.noProgress (ch : Chip) (k : Clock) (p ctx : Nat) : Chip :=
  match look none (ch.pt p).contexts ctx with
  | none => ch
  | some y =>
    if !(ch.pt p).valid || y.pausedAt.isSome || y.held || k.localNs < y.restart + (ch.pt p).wdog * 1000 ||
       ((ch.startedSlots p ctx).isEmpty && (ch.startedTasks p ctx).isEmpty) then ch
    else
      (ch.modPt p fun x => { x with wdogExpiries := x.wdogExpiries + 1, contexts := upd none x.contexts ctx fun o => o.map fun z => { z with restart := k.localNs } }).fault k 11 (.ctx p ctx) 0

def execNoProgressWatchdog (p ctx : Nat) (s : State) : Res := onChip s fun k ch => ch.noProgress k p ctx

end Sys2Proof.Machine
end

