-- ==== Sys2Proof/Machine/Telemetry.lean ====
section
/-! DEFINITION. Telemetry, event acknowledgement and resending, time synchronisation, host links (spec/13_host_protocol.md R377, R392, R399;
spec/15_power_clocks_thermal.md R447; spec/16_faults_recovery.md R482). -/

namespace Sys2Proof.Machine

/-! ### Telemetry -/

/-- TEL_SET. -/
def execTelSet (q : Req) (s : State) : Res :=
  onChip s (runCmd 0x0801 q fun k ch =>
    let n := beAt q.payload 0 4
    let m := beAt q.payload 4 4
    checked [ (decide (q.part ≠ 0) && (bitAt m 2 || bitAt m 5), (.notPermitted, some 4)), (decide (60000 < n), (.badField, some 0)), (decide (64 ≤ m), (.badField, some 4)) ]
      ((ch.modPt q.part fun x => { x with telPeriod := n, telMask := BitVec.ofNat 32 m, telLast := k.localNs }).reply q .ok []))

def tempByte (t : Int) : List Byte := [BitVec.ofInt 8 t]

/-- One counter group of a telemetry event, as the model lays it out (R447, R482). -/
def Chip.telGroup (ch : Chip) (m : ModulePins) (p : Nat) : Nat → List Byte
  | 0 => ch.powerFields p
  | 1 => (List.range 4).flatMap fun d => if ch.onDie p d then (dieTemps ch.power.temps d).flatMap tempByte else []
  | 2 => (m.railReadings.flatMap fun r => toBe r.rail 1 ++ toBe r.mv 3 ++ toBe r.ma 4) ++ toBe ch.power.meanVin 2 ++ toBe (optBool ch.power.overCap) 2
  | 3 => ((List.range 6).flatMap fun c => toBe (look 0 (ch.pt p).faults c) 4) ++ toBe (ch.pt p).fidTotal 8
  | 4 => toBe ch.rcv.scans 4 ++ toBe (ch.pt p).hangs 4 ++ toBe (ch.pt p).wdogExpiries 4
  | 5 => ((List.range 16).flatMap fun r => toBe (optBool (ch.rg r).busy * 2 + optBool (ch.rg r).inUse) 1) ++ toBe ch.rcv.pkgQueue.length 2
  | _ => []

/-- TELEMETRY_PERIOD; the period runs on the local count (DESIGN CHOICE, log entry 56). -/
def execTelemetryPeriod (p : Nat) (s : State) : Res :=
  onModule s fun k m ch =>
    let x := ch.pt p
    if x.valid && decide (x.telPeriod ≠ 0) && decide (x.telLast + x.telPeriod * 1000000 ≤ k.localNs) then
      (m, (ch.modPt p fun y => { y with telLast := k.localNs }).raise k p 0xE040 .ok 0
            (toBe x.telMask.toNat 4 ++ (List.range 6).flatMap fun g => if x.telMask.getLsbD g then ch.telGroup m p g else []))
    else (m, ch)

/-! ### The ring (R399) -/

/-- An event number acknowledged in a session: its entry leaves the ring when no session is left to acknowledge it. -/
def Partition.ack (x : Partition) (sid number : Nat) : Partition :=
  { x with ring := (x.ring.map fun e => { e with due := e.due.filter fun d => !(decide (d.1 = sid) && decide (d.2 = number)) }).filter fun e => !e.due.isEmpty || decide (e.sends = 0) }

/-- The count of events overwritten is reported once the ring has room. -/
def Chip.reportLost (ch : Chip) (k : Clock) (p : Nat) : Chip :=
  let n := (ch.pt p).evtLostNew
  if n = 0 || 4096 ≤ (ch.pt p).ring.length then ch
  else (ch.modPt p fun x => { x with evtLostNew := 0 }).raise k p 0xE0FF .ok 0 (toBe n 4)

/-- EVT_ACK. -/
def execEvtAck (q : Req) (s : State) : Res :=
  onChip s (runCmd 0x0802 q fun k ch =>
    let n := beAt q.payload 0 2
    let ids := (List.range n).map fun i => beAt q.payload (4 + 4 * i) 4
    checked [ reserved q 2 2, (decide (256 < n) || decide (q.payload.length ≠ 4 + 4 * n), (.lengthRange, some 0)) ]
      (((ch.modPt q.part fun x => ids.foldl (fun y i => y.ack q.session i) x).reply q .ok []).reportLost k q.part))

/-- EVENT_RESEND: 1 ms after the last sending, up to 16 times. -/
def execEventResend (p evt : Nat) (s : State) : Res :=
  onChip s fun k ch =>
    match (ch.pt p).ring.find? fun e => e.id = evt with
    | none => ch
    | some e =>
      if e.due.isEmpty || 17 ≤ e.sends || e.sends = 0 || k.localNs < e.last + 1000000 then ch
      else e.due.foldl (fun c d => c.send (.event d.1 d.2 e.ev))
        (ch.modPt p fun x => { x with ring := x.ring.map fun y => if y.id = evt then { y with sends := y.sends + 1, last := k.localNs } else y })

/-! ### Time (R14, R377) -/

def HostIf.setGm (h : HostIf) (port : Nat) (on : Bool) : HostIf := if port = 0 then { h with gm0 := on } else { h with gm1 := on }

/-- Synchronisation gained or lost, told to every partition. -/
def syncTo (on : Bool) (port : Nat) (k : Clock) (ch : Chip) : Clock × Chip :=
  let ch := { ch with host := ch.host.setGm port on }
  if k.synced = on && k.holdover = !on then ({ k with gmPort := if on then port else k.gmPort }, ch)
  else ({ k with synced := on, holdover := !on, gmPort := port }, ch.raiseAll k 0xE041 .ok (toBe (optBool on) 1 ++ toBe port 1))

/-- TIME_SYNC_MESSAGE: a timebase behind by more than 1 ms steps forward, in every other case it is slewed. -/
def execTimeSyncMessage (port gmTime : Nat) (s : State) : Res :=
  onClock s fun k ch =>
    let r := syncTo true port k ch
    let t := wrap64 gmTime
    (if k.timebase + 1000000 < t then { r.1 with timebase := t, slew := 0 } else { r.1 with slew := (t : Int) - k.timebase }, r.2)

/-- TIME_SYNC_LOSS. -/
def execTimeSyncLoss (regained : Bool) (port : Nat) (s : State) : Res :=
  onClock s fun k ch => let r := syncTo regained port k ch; (if regained then r.1 else { r.1 with slew := 0 }, r.2)

/-- HOST_PORT_LINK_CHANGE. -/
def execHostPortLinkChange (port : Nat) (up : Bool) (s : State) : Res :=
  onChip s fun _ ch => { ch with host := if port = 0 then { ch.host with link0 := up } else { ch.host with link1 := up } }

end Sys2Proof.Machine
end

