-- ==== Sys2Proof/Machine/Dispatch.lean ====
section
/-! DEFINITION. The meaning of every command: one arm per row of the opcode table. -/

namespace Sys2Proof.Machine

/-- The effect of one command on everything but the queue of commands. -/
def exec (i : Instr) (s : State) : Host.Outcome State Fault Refusal :=
  match i with
  | .hostDatagramArrival port src bytes => Sys2Proof.Machine.execHostDatagramArrival port src bytes s
  | .sessionOpen q => Sys2Proof.Machine.execSessionOpen q s
  | .sessionConfirm q => Sys2Proof.Machine.execSessionConfirm q s
  | .sessionClose q => Sys2Proof.Machine.execSessionClose q s
  | .pendingSessionLapse sid => Sys2Proof.Machine.execPendingSessionLapse sid s
  | .attest q => Sys2Proof.Machine.execAttest q s
  | .keyPut q => Sys2Proof.Machine.execKeyPut q s
  | .keyDrop q => Sys2Proof.Machine.execKeyDrop q s
  | .parCreate q => Sys2Proof.Machine.execParCreate q s
  | .parSet q => Sys2Proof.Machine.execParSet q s
  | .parDestroy q => Sys2Proof.Machine.execParDestroy q s
  | .teardownComplete p => Sys2Proof.Machine.execTeardownComplete p s
  | .ctxCreate q => Sys2Proof.Machine.execCtxCreate q s
  | .ctxDestroy q => Sys2Proof.Machine.execCtxDestroy q s
  | .regRead q => Sys2Proof.Machine.execRegRead q s
  | .regWrite q => Sys2Proof.Machine.execRegWrite q s
  | .registerWrite p addr value => Sys2Proof.Machine.execRegisterWrite p addr value s
  | .memMap q => Sys2Proof.Machine.execMemMap q s
  | .memUnmap q => Sys2Proof.Machine.execMemUnmap q s
  | .memProtect q => Sys2Proof.Machine.execMemProtect q s
  | .translationChangeComplete id => Sys2Proof.Machine.execTranslationChangeComplete id s
  | .memWrite q => Sys2Proof.Machine.execMemWrite q s
  | .memRead q => Sys2Proof.Machine.execMemRead q s
  | .modelStage q => Sys2Proof.Machine.execModelStage q s
  | .modelLoad q => Sys2Proof.Machine.execModelLoad q s
  | .modelUnload q => Sys2Proof.Machine.execModelUnload q s
  | .switchWeights q => Sys2Proof.Machine.execSwitchWeights q s
  | .shardPut q => Sys2Proof.Machine.execShardPut q s
  | .shardTryTimeout h e sh => Sys2Proof.Machine.execShardTryTimeout h e sh s
  | .shardTryComplete h e sh sourceRefuses data => Sys2Proof.Machine.execShardTryComplete h e sh sourceRefuses data s
  | .shardPlaced h e sh => Sys2Proof.Machine.execShardPlaced h e sh s
  | .loadComplete h e => Sys2Proof.Machine.execLoadComplete h e s
  | .shardRetryDue h e => Sys2Proof.Machine.execShardRetryDue h e s
  | .rehashDue h e sh => Sys2Proof.Machine.execRehashDue h e sh s
  | .rehashComplete h e sh => Sys2Proof.Machine.execRehashComplete h e sh s
  | .peerShardRequest job src model rev shard => Sys2Proof.Machine.execPeerShardRequest job src model rev shard s
  | .peerMismatchReport job src model rev shard => Sys2Proof.Machine.execPeerMismatchReport job src model rev shard s
  | .epochRelease h e => Sys2Proof.Machine.execEpochRelease h e s
  | .tableLoad q => Sys2Proof.Machine.execTableLoad q s
  | .tableClear q => Sys2Proof.Machine.execTableClear q s
  | .tableLoadComplete id => Sys2Proof.Machine.execTableLoadComplete id s
  | .tableBuild q => Sys2Proof.Machine.execTableBuild q s
  | .tableBuildComplete id => Sys2Proof.Machine.execTableBuildComplete id s
  | .slotLoad q => Sys2Proof.Machine.execSlotLoad q s
  | .runStart q => Sys2Proof.Machine.execRunStart q s
  | .runCancel q => Sys2Proof.Machine.execRunCancel q s
  | .streamArm q => Sys2Proof.Machine.execStreamArm q s
  | .streamWithdraw q => Sys2Proof.Machine.execStreamWithdraw q s
  | .reqAdmit q => Sys2Proof.Machine.execReqAdmit q s
  | .reqEnd q => Sys2Proof.Machine.execReqEnd q s
  | .kvCreate q => Sys2Proof.Machine.execKvCreate q s
  | .kvDestroy q => Sys2Proof.Machine.execKvDestroy q s
  | .kvTruncate q => Sys2Proof.Machine.execKvTruncate q s
  | .kvCopy q => Sys2Proof.Machine.execKvCopy q s
  | .kvSet q => Sys2Proof.Machine.execKvSet q s
  | .kvQuery q => Sys2Proof.Machine.execKvQuery q s
  | .kvCarryOut id => Sys2Proof.Machine.execKvCarryOut id s
  | .pwrCap q => Sys2Proof.Machine.execPwrCap q s
  | .pwrQuery q => Sys2Proof.Machine.execPwrQuery q s
  | .hbmPoint q => Sys2Proof.Machine.execHbmPoint q s
  | .hbmPointChangeComplete stack => Sys2Proof.Machine.execHbmPointChangeComplete stack s
  | .telSet q => Sys2Proof.Machine.execTelSet q s
  | .telemetryPeriod p => Sys2Proof.Machine.execTelemetryPeriod p s
  | .evtAck q => Sys2Proof.Machine.execEvtAck q s
  | .eventResend p evt => Sys2Proof.Machine.execEventResend p evt s
  | .reset q => Sys2Proof.Machine.execReset q s
  | .ckptWrite q => Sys2Proof.Machine.execCkptWrite q s
  | .ckptRead q => Sys2Proof.Machine.execCkptRead q s
  | .ckptTransferComplete id => Sys2Proof.Machine.execCkptTransferComplete id s
  | .dumpRead q => Sys2Proof.Machine.execDumpRead q s
  | .flashUpdate q => Sys2Proof.Machine.execFlashUpdate q s
  | .flashWriteComplete id => Sys2Proof.Machine.execFlashWriteComplete id s
  | .jobSetup q => Sys2Proof.Machine.execJobSetup q s
  | .jobEnd q => Sys2Proof.Machine.execJobEnd q s
  | .fabStatus q => Sys2Proof.Machine.execFabStatus q s
  | .dbgOpen q => Sys2Proof.Machine.execDbgOpen q s
  | .dbgClose q => Sys2Proof.Machine.execDbgClose q s
  | .dbgRead q => Sys2Proof.Machine.execDbgRead q s
  | .dbgWrite q => Sys2Proof.Machine.execDbgWrite q s
  | .timeSyncMessage port gmTime => Sys2Proof.Machine.execTimeSyncMessage port gmTime s
  | .timeSyncLoss regained port => Sys2Proof.Machine.execTimeSyncLoss regained port s
  | .hostPortLinkChange port up => Sys2Proof.Machine.execHostPortLinkChange port up s
  | .next c => Sys2Proof.Machine.execNext c s
  | .loop c level count => Sys2Proof.Machine.execLoop c level count s
  | .endLoop c level => Sys2Proof.Machine.execEndLoop c level s
  | .endSlot c => Sys2Proof.Machine.execEndSlot c s
  | .phaseHint c opp => Sys2Proof.Machine.execPhaseHint c opp s
  | .anop c => Sys2Proof.Machine.execAnop c s
  | .front c frond wfmt afmt sa off => Sys2Proof.Machine.execFront c frond wfmt afmt sa off s
  | .issue c frond share e0 gen acc ports => Sys2Proof.Machine.execIssue c frond share e0 gen acc ports s
  | .mode c m => Sys2Proof.Machine.execMode c m s
  | .vnop c => Sys2Proof.Machine.execVnop c s
  | .vld c vd sa ss post port fmt raw => Sys2Proof.Machine.execVld c vd sa ss post port fmt raw s
  | .vst c vs sa ss post shift fmt sr raw srcint => Sys2Proof.Machine.execVst c vs sa ss post shift fmt sr raw srcint s
  | .accrd c vd entry => Sys2Proof.Machine.execAccrd c vd entry s
  | .vadd c vd va vb => Sys2Proof.Machine.execVadd c vd va vb s
  | .vsub c vd va vb => Sys2Proof.Machine.execVsub c vd va vb s
  | .vmul c vd va vb => Sys2Proof.Machine.execVmul c vd va vb s
  | .vfma c vd va vb => Sys2Proof.Machine.execVfma c vd va vb s
  | .vmax c vd va vb => Sys2Proof.Machine.execVmax c vd va vb s
  | .vmin c vd va vb => Sys2Proof.Machine.execVmin c vd va vb s
  | .vadds c vd va sb => Sys2Proof.Machine.execVadds c vd va sb s
  | .vmuls c vd va sb => Sys2Proof.Machine.execVmuls c vd va sb s
  | .vexp2 c vd va => Sys2Proof.Machine.execVexp2 c vd va s
  | .vexp c vd va => Sys2Proof.Machine.execVexp c vd va s
  | .vrcp c vd va => Sys2Proof.Machine.execVrcp c vd va s
  | .vrsqrt c vd va => Sys2Proof.Machine.execVrsqrt c vd va s
  | .vdiv c vd va vb => Sys2Proof.Machine.execVdiv c vd va vb s
  | .vsumr c vd va => Sys2Proof.Machine.execVsumr c vd va s
  | .vmaxr c vd va => Sys2Proof.Machine.execVmaxr c vd va s
  | .vabs c vd va => Sys2Proof.Machine.execVabs c vd va s
  | .vneg c vd va => Sys2Proof.Machine.execVneg c vd va s
  | .vcvtif c vd va => Sys2Proof.Machine.execVcvtif c vd va s
  | .vcvtfi c vd va => Sys2Proof.Machine.execVcvtfi c vd va s
  | .viadd c vd va vb => Sys2Proof.Machine.execViadd c vd va vb s
  | .vmov c vd va => Sys2Proof.Machine.execVmov c vd va s
  | .snop c => Sys2Proof.Machine.execSnop c s
  | .li c sd imm => Sys2Proof.Machine.execLi c sd imm s
  | .lui c sd imm => Sys2Proof.Machine.execLui c sd imm s
  | .add c sd sa sb => Sys2Proof.Machine.execAdd c sd sa sb s
  | .sub c sd sa sb => Sys2Proof.Machine.execSub c sd sa sb s
  | .addi c sd sa imm => Sys2Proof.Machine.execAddi c sd sa imm s
  | .and c sd sa sb => Sys2Proof.Machine.execAnd c sd sa sb s
  | .or c sd sa sb => Sys2Proof.Machine.execOr c sd sa sb s
  | .xor c sd sa sb => Sys2Proof.Machine.execXor c sd sa sb s
  | .shl c sd sa n => Sys2Proof.Machine.execShl c sd sa n s
  | .shr c sd sa n => Sys2Proof.Machine.execShr c sd sa n s
  | .ldn c sd sa imm => Sys2Proof.Machine.execLdn c sd sa imm s
  | .stn c sb sa imm => Sys2Proof.Machine.execStn c sb sa imm s
  | .wreg c num sa => Sys2Proof.Machine.execWreg c num sa s
  | .rdreg c sd num => Sys2Proof.Machine.execRdreg c sd num s
  | .ynop c => Sys2Proof.Machine.execYnop c s
  | .waitsem c sem dl n => Sys2Proof.Machine.execWaitsem c sem dl n s
  | .sigsem c epoch sem n => Sys2Proof.Machine.execSigsem c epoch sem n s
  | .arrive c epoch bar => Sys2Proof.Machine.execArrive c epoch bar s
  | .waitbar c bar dl => Sys2Proof.Machine.execWaitbar c bar dl s
  | .arrwait c epoch bar dl => Sys2Proof.Machine.execArrwait c epoch bar dl s
  | .ckpt c epoch bar dl => Sys2Proof.Machine.execCkpt c epoch bar dl s
  | .waithalf c stream half dl => Sys2Proof.Machine.execWaithalf c stream half dl s
  | .relhalf c epoch stream half => Sys2Proof.Machine.execRelhalf c epoch stream half s
  | .swap c pair => Sys2Proof.Machine.execSwap c pair s
  | .yieldpt c => Sys2Proof.Machine.execYieldpt c s
  | .barrierRelease p b => Sys2Proof.Machine.execBarrierRelease p b s
  | .fillerRampDown c => Sys2Proof.Machine.execFillerRampDown c s
  | .waitSatisfied c n => Sys2Proof.Machine.execWaitSatisfied c n s
  | .waitBudgetExpiry c => Sys2Proof.Machine.execWaitBudgetExpiry c s
  | .heartbeat c => Sys2Proof.Machine.execHeartbeat c s
  | .heartbeatLoss c => Sys2Proof.Machine.execHeartbeatLoss c s
  | .seedHiWrite p lcid value => Sys2Proof.Machine.execSeedHiWrite p lcid value s
  | .oagStart p lcid gen value => Sys2Proof.Machine.execOagStart p lcid gen value s
  | .slotCfgWrite p lcid n value => Sys2Proof.Machine.execSlotCfgWrite p lcid n value s
  | .dbufWrite p lcid n value => Sys2Proof.Machine.execDbufWrite p lcid n value s
  | .scratchpadFill p lcid => Sys2Proof.Machine.execScratchpadFill p lcid s
  | .scratchpadCopy p lcid => Sys2Proof.Machine.execScratchpadCopy p lcid s
  | .fillCopyComplete c => Sys2Proof.Machine.execFillCopyComplete c s
  | .bankPwrWrite p lcid value => Sys2Proof.Machine.execBankPwrWrite p lcid value s
  | .bankPowerOnComplete c bank => Sys2Proof.Machine.execBankPowerOnComplete c bank s
  | .semWrite p region k value => Sys2Proof.Machine.execSemWrite p region k value s
  | .barMaskWrite p bar hi value => Sys2Proof.Machine.execBarMaskWrite p bar hi value s
  | .smbusWrite code value pecOk => Sys2Proof.Machine.execSmbusWrite code value pecOk s
  | .smbusAlertResponse => Sys2Proof.Machine.execSmbusAlertResponse s
  | .wheelPosition wheel pos => Sys2Proof.Machine.execWheelPosition wheel pos s
  | .streamRequestComplete region stream => Sys2Proof.Machine.execStreamRequestComplete region stream s
  | .streamIdleReturn region stream => Sys2Proof.Machine.execStreamIdleReturn region stream s
  | .translationWalkComplete region stream => Sys2Proof.Machine.execTranslationWalkComplete region stream s
  | .halfDeadline region stream half => Sys2Proof.Machine.execHalfDeadline region stream half s
  | .blockEmission c lane => Sys2Proof.Machine.execBlockEmission c lane s
  | .outboundBlockCoding region => Sys2Proof.Machine.execOutboundBlockCoding region s
  | .liftComplete lidx => Sys2Proof.Machine.execLiftComplete lidx s
  | .dropComplete lidx => Sys2Proof.Machine.execDropComplete lidx s
  | .flashSectorReadComplete slot sector outcome => Sys2Proof.Machine.execFlashSectorReadComplete slot sector outcome s
  | .hbmRefreshDue stack pch group => Sys2Proof.Machine.execHbmRefreshDue stack pch group s
  | .refreshMakeupBurst stack pch group => Sys2Proof.Machine.execRefreshMakeupBurst stack pch group s
  | .maintenanceWindow stack pch => Sys2Proof.Machine.execMaintenanceWindow stack pch s
  | .driveStrengthCalibration stack => Sys2Proof.Machine.execDriveStrengthCalibration stack s
  | .frameZeroed frame => Sys2Proof.Machine.execFrameZeroed frame s
  | .attentionTaskReady e => Sys2Proof.Machine.execAttentionTaskReady e s
  | .attentionTaskComplete e => Sys2Proof.Machine.execAttentionTaskComplete e s
  | .collapseSupplySample c millivolts => Sys2Proof.Machine.execCollapseSupplySample c millivolts s
  | .collapseFailure c => Sys2Proof.Machine.execCollapseFailure c s
  | .clusterReintegration c bistPass => Sys2Proof.Machine.execClusterReintegration c bistPass s
  | .powerSample rails temps => Sys2Proof.Machine.execPowerSample rails temps s
  | .loopBoundary meanVin => Sys2Proof.Machine.execLoopBoundary meanVin s
  | .oppSwitch d => Sys2Proof.Machine.execOppSwitch d s
  | .thermalTrip sensor temp => Sys2Proof.Machine.execThermalTrip sensor temp s
  | .contextReset p ctx cause => Sys2Proof.Machine.execContextReset p ctx cause s
  | .clusterSubstitution c cause => Sys2Proof.Machine.execClusterSubstitution c cause s
  | .attentionEngineReset e cause => Sys2Proof.Machine.execAttentionEngineReset e cause s
  | .streamEngineReset region cause => Sys2Proof.Machine.execStreamEngineReset region cause s
  | .partitionReset p cause => Sys2Proof.Machine.execPartitionReset p cause s
  | .dieReset d cause selfRefresh patterns bistFail => Sys2Proof.Machine.execDieReset d cause selfRefresh patterns bistFail s
  | .packageReset cause => Sys2Proof.Machine.execPackageReset cause s
  | .recoveryStepComplete id => Sys2Proof.Machine.execRecoveryStepComplete id s
  | .stepWatchdogExpiry id => Sys2Proof.Machine.execStepWatchdogExpiry id s
  | .mgmtStartTimeout => Sys2Proof.Machine.execMgmtStartTimeout s
  | .tallyScan => Sys2Proof.Machine.execTallyScan s
  | .suspectReplay p ctx => Sys2Proof.Machine.execSuspectReplay p ctx s
  | .noProgressWatchdog p ctx => Sys2Proof.Machine.execNoProgressWatchdog p ctx s
  | .portBringUp port m => Sys2Proof.Machine.execPortBringUp port m s
  | .portBringUpRetry port => Sys2Proof.Machine.execPortBringUpRetry port s
  | .hello port h => Sys2Proof.Machine.execHello port h s
  | .cablePresenceChange port present => Sys2Proof.Machine.execCablePresenceChange port present s
  | .hopAcknowledge port hseq => Sys2Proof.Machine.execHopAcknowledge port hseq s
  | .hopReplayRequest port hseq => Sys2Proof.Machine.execHopReplayRequest port hseq s
  | .fecUncorrectable port => Sys2Proof.Machine.execFecUncorrectable port s
  | .linkCreditTimeout port vc => Sys2Proof.Machine.execLinkCreditTimeout port vc s
  | .linkSilenceTimeout port lockLost => Sys2Proof.Machine.execLinkSilenceTimeout port lockLost s
  | .portFrameSend port => Sys2Proof.Machine.execPortFrameSend port s
  | .dataFrame port bytes => Sys2Proof.Machine.execDataFrame port bytes s
  | .flowAcknowledge job dst flow fseq => Sys2Proof.Machine.execFlowAcknowledge job dst flow fseq s
  | .flowNegativeAcknowledge job dst flow fseq => Sys2Proof.Machine.execFlowNegativeAcknowledge job dst flow fseq s
  | .flowResendTimer job dst flow fseq => Sys2Proof.Machine.execFlowResendTimer job dst flow fseq s
  | .epochNotice port bytes => Sys2Proof.Machine.execEpochNotice port bytes s
  | .barrierFrame port job bar gen src dst release => Sys2Proof.Machine.execBarrierFrame port job bar gen src dst release s
  | .jobBarrierTimeout p bar => Sys2Proof.Machine.execJobBarrierTimeout p bar s
  | .collectiveComplete id ok => Sys2Proof.Machine.execCollectiveComplete id ok s
  | .pwrEnRise => Sys2Proof.Machine.execPwrEnRise s
  | .pwrEnFall => Sys2Proof.Machine.execPwrEnFall s
  | .powerOffHoldEnd => Sys2Proof.Machine.execPowerOffHoldEnd s
  | .resetNAssert lowNs => Sys2Proof.Machine.execResetNAssert lowNs s
  | .vinLockout volts lastedNs => Sys2Proof.Machine.execVinLockout volts lastedNs s
  | .tripHoldEnd => Sys2Proof.Machine.execTripHoldEnd s
  | .bootSequence r => Sys2Proof.Machine.execBootSequence r s
  | .bootReady => Sys2Proof.Machine.execBootReady s
  | .repairRecordWrite => Sys2Proof.Machine.execRepairRecordWrite s
  | .resetNRelease => Sys2Proof.Machine.execResetNRelease s
  | .vauxChange applied => Sys2Proof.Machine.execVauxChange applied s
  | .vinEntersRange volts => Sys2Proof.Machine.execVinEntersRange volts s
  | .debugScanAccess boundary tdi => Sys2Proof.Machine.execDebugScanAccess boundary tdi s
  | .oppTransitionEnd d => Sys2Proof.Machine.execOppTransitionEnd d s
  | .sectorRefreshRewriteComplete slot sector => Sys2Proof.Machine.execSectorRefreshRewriteComplete slot sector s
  | .checkpointCaptureComplete c => Sys2Proof.Machine.execCheckpointCaptureComplete c s

end Sys2Proof.Machine
end

