-- ==== Sys2Proof/Machine/Tick.lean ====
section
/-! DEFINITION. The passing of one nanosecond: the clocks, the dies' aclk edges under duty, what lands a fixed time after it was sent
(spec/01_architecture.md R14; spec/13_host_protocol.md R377, R378; spec/15_power_clocks_thermal.md R428, R429, R440, R443;
spec/04_cluster.md R128). -/

namespace Sys2Proof.Machine

/-- The clocks a nanosecond on: a slew moves the timebase by at most 1 ns in 10,000, and never backwards (R377). -/
def Clock.tick (k : Clock) : Clock :=
  let n := k.localNs + 1
  if n % 10000 ≠ 0 || k.slew = 0 then { k with localNs := n, timebase := wrap64 (k.timebase + 1) }
  else if 0 < k.slew then { k with localNs := n, timebase := wrap64 (k.timebase + 2), slew := k.slew - 1 }
  else { k with localNs := n, slew := k.slew + 1 }

/-- Whether edge n of a die's groups of 16 is delivered under a duty (R429). -/
def dutyEdge (n duty : Nat) : Bool := decide (n % 16 * duty / 16 < (n % 16 + 1) * duty / 16)

/-- Whether an edge falls within the nanosecond. -/
def Die.atEdge (x : Die) : Bool := decide (x.toEdge ≤ 42)

/-- A die's edge counter a nanosecond on; the gap after a switch is 40 ns (R428). -/
def Die.tick (x : Die) : Die :=
  if !x.atEdge then { x with toEdge := x.toEdge - 42 }
  else { x with toEdge := x.toEdge + (if x.gap then 1680 else oppPeriod x.opp) - 42, gap := false, edges := x.edges + 1 }

/-- An edge of a die at a cluster that serves an owner: delivered on its duty's edges, with the entry that issues in it; filler runs on it. While the
cluster is parked only its streams use the edge (R441). -/
def Chip.dieEdgeAt (ch : Chip) (k : Clock) (n c : Nat) : Chip :=
  let x := ch.cl c
  if x.svc ≠ .owned then ch
  else if x.parked then ch.streamEdge k c x []
  else if dutyEdge n (ch.dutyOf c) then
    (ch.seqEdge k c).modCl c fun y => let f := y.filler.level k.localNs; if f = 0 then y else y.count 7 f
  else ch

/-- The clusters of a die take an edge of it. -/
def Chip.dieEdge (ch : Chip) (k : Clock) (d : Nat) : Chip :=
  let n := (ch.die d).edges
  (List.range 20).foldl (fun c i => c.dieEdgeAt k n (d * 20 + i)) ch

/-- Unparked clusters whose banks are on again, and the engines beside them (R441). -/
def Chip.resumeEdges (ch : Chip) (k : Clock) : Chip :=
  (keysWhere (fun _ (x : Cluster) => match x.unparkAt with | some t => decide (t ≤ k.localNs) | none => false) ch.clusters).foldl
    (fun c n => (c.modCl n fun x => { x with parked := false, unparkAt := none }).modEng (regionOf n) fun e =>
      if e.part = c.ownerOfCl n then { e with parked := false } else e) ch

/-- Host writes and engine signals reach a region's semaphores. -/
def Chip.semsLand (ch : Chip) (k : Clock) (r : Nat) : Chip :=
  let g := ch.rg r
  let now : List (Nat × Nat × Nat) → List (Nat × Nat × Nat) := fun l => l.filter fun x => decide (x.2.2 ≤ k.localNs)
  let later : List (Nat × Nat × Nat) → List (Nat × Nat × Nat) := fun l => l.filter fun x => !decide (x.2.2 ≤ k.localNs)
  let ch := ch.modRg r fun y => { y with semFlight := later y.semFlight, sigFlight := later y.sigFlight }
  let ch := (now g.semFlight).foldl (fun c x => c.modRg r fun y => { y with sems := put 0 y.sems x.1 x.2.1 }) ch
  (now g.sigFlight).foldl (fun c x => c.raiseSem k r x.1 x.2.1) ch

/-- The block a nanosecond on. -/
def Chip.tick (ch : Chip) (k : Clock) : Chip :=
  let ch := ch.resumeEdges k
  let ch := (List.range 4).foldl (fun c d => ((if (c.die d).atEdge then c.dieEdge k d else c).modDie d Die.tick)) ch
  let ch := (List.range 16).foldl (fun c r => if (c.rg r).semFlight.isEmpty && (c.rg r).sigFlight.isEmpty then c else c.semsLand k r) ch
  ch.suspectShards k

/-- One nanosecond passes; a block that takes no work yet has no edges to deliver. -/
def tick (s : State) : State :=
  let k := s.clk.tick
  { s with clk := k, chip := if s.chip.ready then s.chip.tick k else s.chip }

end Sys2Proof.Machine
end

