-- ==== Sys2Proof/Certificates/Slice0/Obligations.lean ====
section
/-! DEFINITION. The statements about the model for the provers. Each row's clauses say what exec answers in which states; the statements at
the end gather them. -/

open Sys2Proof Sys2Proof.Machine

namespace Sys2Proof.Claims

/-! ### Sequencer (spec/04_cluster.md R119 to R137) -/

/-- The state with the block replaced: clocks, pins and queue as before. -/
def after (s : State) (ch : Chip) : State := { s with chip := ch }

/-- The entry that issues in cluster c holds command i as its field j (0 array, 1 vector, 2 stream/sync, 3 scalar, 4 phase hint), still to act and
past the entry's wait, and no field of the entry is illegal (R120, R126, R139). -/
abbrev Fires (s : State) (c : Nat) (i : Instr) (j : Nat) : Prop := (s.chip.cl c).fieldDue c i = some j ∧ (s.chip.rest s.clk c).isSome = true

/-- The entry that issues in cluster c has control field i, whose turn has come, and no field of it is illegal. -/
abbrev Ends (s : State) (c : Nat) (i : Instr) : Prop := (s.chip.cl c).controlDue c i = true ∧ (s.chip.rest s.clk c).isSome = true

/-- Cluster c changed, and field j of its entry marked as having acted. -/
def acts (s : State) (c j : Nat) (f : Cluster → Cluster) : State := after s ((s.chip.modCl c f).act c j)

/-- The mark a field leaves: it has acted in this entry, and nothing else changes. -/
def actMark : Prop := ∀ (ch : Chip) (c j : Nat), ch.act c j = ch.modCl c fun x => { x with acted := x.acted ||| BitVec.twoPow 5 j }

/-- The current slot of cluster c. -/
abbrev cur (s : State) (c : Nat) : Slot := (s.chip.cl c).curSlot

/-- The control field that moves the current slot to x: the entry is over, its context's watchdog restarts, the aclk edge follows. -/
def moved (s : State) (c : Nat) (x : Slot) : State :=
  after s (((s.chip.progress s.clk (cur s c).part (cur s c).ctx).modCl c fun y => y.entryOver x).aclkEdge s.clk c)

/-- The end of an entry: the slot moves on without a wait and the entry's marks go; where a YIELDPT acted, the slot counts a yield and the
sequencer switches. -/
def entryOverRule : Prop := ∀ (y : Cluster) (x : Slot),
  let z := { (y.modSlot y.cur fun _ => { x with wait := none }) with acted := 0, yielding := false }
  y.entryOver x = if y.yielding then (z.modSlot z.cur Slot.countYield).switch else z

/-- NEXT goes to the next entry. -/
def nextRow : Prop := ∀ s c, Ends s c (.next c) → exec (.next c) s = .next (moved s c { cur s c with ptr := (cur s c).ptr + 1 })

/-- LOOP with a count above 0 enters the body: the level's count, total and start are set; a count of 0 goes past the matching ENDLOOP. -/
def loopRow : Prop := ∀ s c (level : BitVec 2) (count : BitVec 16), Ends s c (.loop c level count) → level ≠ 3 →
  let x := cur s c
  (count ≠ 0 → exec (.loop c level count) s = .next (moved s c { x with
    ptr := x.ptr + 1, depth := level.toNat + 1, cnt := put 0 x.cnt level.toNat count.toNat, total := put 0 x.total level.toNat count.toNat,
    start := put 0 x.start level.toNat (x.ptr + 1) })) ∧
  (count = 0 → exec (.loop c level count) s = .next (moved s c { x with ptr := (s.chip.cl c).matchLoop x + 1 }))

/-- ENDLOOP takes one from the level's count and goes back to its start until the count is 0. -/
def endLoopRow : Prop := ∀ s c (level : BitVec 2), Ends s c (.endLoop c level) → level ≠ 3 →
  let x := cur s c
  let n := look 0 x.cnt level.toNat - 1
  (n ≠ 0 → exec (.endLoop c level) s = .next (moved s c { x with cnt := put 0 x.cnt level.toNat n, ptr := look 0 x.start level.toNat })) ∧
  (n = 0 → exec (.endLoop c level) s = .next (moved s c { x with cnt := put 0 x.cnt level.toNat 0, ptr := x.ptr + 1, depth := level.toNat }))

/-- END ends the slot, reports it to its run and lets the cluster switch. -/
def endSlotRow : Prop := ∀ s c, Ends s c (.endSlot c) →
  exec (.endSlot c) s = .next (after s
    ((((s.chip.progress s.clk (cur s c).part (cur s c).ctx).modCl c fun x => x.stopSlot x.cur .ended).reportSlot s.clk c (s.chip.cl c).cur).aclkEdge s.clk c))

/-- PHASE_HINT leaves its operating point with the slot and changes nothing else. -/
def phaseHintRow : Prop := ∀ s c (opp : BitVec 3), Fires s c (.phaseHint c opp) 4 →
  exec (.phaseHint c opp) s = .next (acts s c 4 fun x => x.modSlot x.cur fun y => { y with hint := some opp.toNat })

/-- The no-operations of the four other fields change nothing but the mark that they have acted. -/
def nopRows : Prop := ∀ s c,
  (Fires s c (.anop c) 0 → exec (.anop c) s = .next (after s (s.chip.act c 0))) ∧ (Fires s c (.vnop c) 1 → exec (.vnop c) s = .next (after s (s.chip.act c 1))) ∧
  (Fires s c (.ynop c) 2 → exec (.ynop c) s = .next (after s (s.chip.act c 2))) ∧ (Fires s c (.snop c) 3 → exec (.snop c) s = .next (after s (s.chip.act c 3)))

/-- Level 3 names no loop: the entry is illegal. -/
def badLevel : Prop := ∀ s c (count : BitVec 16),
  (Ends s c (.loop c 3 count) → exec (.loop c 3 count) s = .next (after s ((s.chip.progress s.clk (cur s c).part (cur s c).ctx).illegal s.clk c))) ∧
  (Ends s c (.endLoop c 3) → exec (.endLoop c 3) s = .next (after s ((s.chip.progress s.clk (cur s c).part (cur s c).ctx).illegal s.clk c)))

/-- A field that the issuing entry does not hold, or not yet or no longer, has no effect (the model's choice, log entry 10), and neither has a
control field before its turn. -/
def notDueRows : Prop := ∀ (k : Clock) (ch : Chip) c i,
  ((ch.cl c).fieldDue c i = none → field c i k ch = ch) ∧ ((ch.cl c).controlDue c i = false → controlField c i k ch = ch)

/-- An entry with an illegal field: none of its fields acts, its slot stops (R139). -/
def illegalEntry : Prop := ∀ (k : Clock) (ch : Chip) c i j, (ch.cl c).fieldDue c i = some j → waitOf i = none → ch.rest k c = none →
  field c i k ch = ch.illegal k c

/-- An entry whose other fields are no-operations, absent or past is legal when its one field is. -/
def loneField : Prop := ∀ (k : Clock) (ch : Chip) c i j, (ch.cl c).fieldDue c i = some j → waitOf i = none →
  (∀ n ≤ 4, n ≠ j → (ch.cl c).acted.getLsbD n = true ∨ (ch.cl c).opAt c n = some none ∨ ∃ y, (ch.cl c).opAt c n = some (some y) ∧ isNop y = true) →
  ch.rest k c = fieldOf i k ch (ch.cl c)

/-- An entry left to the sequencer issues whole: the fields that have not acted act together, and the control field ends it (R120). -/
def wholeEntry : Prop := ∀ (k : Clock) (ch t : Chip) c, ch.rest k c = some t → ch.finishEntry k c = t.control k c (entryControl c (ch.cl c).entry)

/-- What an illegal entry does: the slot stands faulted with its pointer where it was, and cause 1 goes to its context. -/
def illegalSlot : Prop := ∀ (k : Clock) (ch : Chip) (c : Nat),
  ch.illegal k c = (ch.modCl c fun x => x.stopSlot x.cur .faulted).fault k 1 (.ctx (ch.cl c).curSlot.part (ch.cl c).curSlot.ctx) (ch.cl c).curSlot.ptr

/-! ### Scalar field (spec/04_cluster.md R151 to R153) -/

/-- The entry may write scalar register sd: no vector post-increment of the entry has claimed it. -/
abbrev SdFree (s : State) (c : Nat) (sd : BitVec 4) : Prop := sd = 0 ∨ (sd.toNat, true) ∉ (s.chip.cl c).entryW

/-- Row i writes v, computed from the cluster at issue, into sd so that entries `lat` aclk later see it, and changes nothing else: one
landing joins the cluster's flight, the entry's claim and the activity count are noted. -/
def WritesS (i : Instr) (c : Nat) (sd : BitVec 4) (lat : Nat) (v : State → Cluster → DWord) : Prop :=
  ∀ s, Fires s c i 3 → SdFree s c sd → exec i s = .next (acts s c 3 fun x => { x with
    entryW := x.entryW ++ [(sd.toNat, false)], flight := x.flight ++ [{ due := x.aclk + lat - 1, issued := x.aclk, what := .sreg sd.toNat (v s x) }],
    activity := upd 0 x.activity 5 (· + 1) })

def liRow : Prop := ∀ c sd imm, WritesS (.li c sd imm) c sd 1 fun _ _ => BitVec.signExtend 64 imm
def luiRow : Prop := ∀ c sd imm, WritesS (.lui c sd imm) c sd 1 fun _ x => (x.s sd <<< 12) ||| BitVec.zeroExtend 64 imm
def addRow : Prop := ∀ c sd sa sb, WritesS (.add c sd sa sb) c sd 1 fun _ x => x.s sa + x.s sb
def subRow : Prop := ∀ c sd sa sb, WritesS (.sub c sd sa sb) c sd 1 fun _ x => x.s sa - x.s sb
def addiRow : Prop := ∀ c sd sa imm, WritesS (.addi c sd sa imm) c sd 1 fun _ x => x.s sa + BitVec.signExtend 64 imm
def andRow : Prop := ∀ c sd sa sb, WritesS (.and c sd sa sb) c sd 1 fun _ x => x.s sa &&& x.s sb
def orRow : Prop := ∀ c sd sa sb, WritesS (.or c sd sa sb) c sd 1 fun _ x => x.s sa ||| x.s sb
def xorRow : Prop := ∀ c sd sa sb, WritesS (.xor c sd sa sb) c sd 1 fun _ x => x.s sa ^^^ x.s sb
def shlRow : Prop := ∀ c sd sa n, WritesS (.shl c sd sa n) c sd 1 fun _ x => x.s sa <<< n.toNat
def shrRow : Prop := ∀ c sd sa n, WritesS (.shr c sd sa n) c sd 1 fun _ x => x.s sa >>> n.toNat
def rdregRow : Prop := ∀ c sd num, localReg num.toNat = true →
  WritesS (.rdreg c sd num) c sd 2 fun s x => BitVec.ofNat 64 (if num.toNat = 0x30 then s.clk.timebase else x.readLocal num.toNat)

/-- WREG: the register takes the low 32 bits of s[sa] at the end of the aclk; nothing else changes. -/
def wregRow : Prop := ∀ s c (num : BitVec 8) (sa : BitVec 4), Fires s c (.wreg c num sa) 3 → (s.chip.cl c).wregBad num.toNat ((s.chip.cl c).s sa |>.setWidth 32) = false →
  exec (.wreg c num sa) s = .next (acts s c 3 fun x => { x with
    flight := x.flight ++ [{ due := x.aclk, issued := x.aclk, what := .reg num.toNat ((x.s sa).setWidth 32) }], activity := upd 0 x.activity 5 (· + 1) })

/-- The code word a narrow access of s[sa] + 8 × imm falls in. -/
abbrev narrowWord (x : Cluster) (sa : BitVec 4) (imm : BitVec 8) : Nat := x.physWord (x.narrowAddr sa imm / 32)

/-- A slot of kind `kind` of bank b is open in aclk t. -/
abbrev SlotFree (x : Cluster) (t kind b : Nat) : Prop := (t, kind, b) ∉ x.uses

/-- LDN of a word without errors: the 8 bytes at the address reach s[sd] for entries 3 aclk later; the bank's narrow slot is taken. -/
def ldnRow : Prop := ∀ s c sd sa imm, Fires s c (.ldn c sd sa imm) 3 → SdFree s c sd →
  let x := s.chip.cl c
  let w := narrowWord x sa imm
  x.errs w = 0 → x.bankOn (bankOf w) = true → SlotFree x x.aclk 2 (bankOf w) →
  exec (.ldn c sd sa imm) s = .next (acts s c 3 fun x => { x with
    uses := x.uses ++ [(x.aclk, 2, bankOf w)], entryW := x.entryW ++ [(sd.toNat, false)],
    flight := x.flight ++ [{ due := x.aclk + 2, issued := x.aclk, what := .sreg sd.toNat (BitVec.ofNat 64 (leNat (slice (x.word w) (x.narrowAddr sa imm % 32) 8))) }],
    activity := upd 0 (upd 0 x.activity 5 (· + 1)) 3 (· + 1) })

/-- STN into a word without errors: the whole code word is written back two aclk later with the 8 bytes of s[sb] at the address. -/
def stnRow : Prop := ∀ s c sb sa imm, Fires s c (.stn c sb sa imm) 3 →
  let x := s.chip.cl c
  let w := narrowWord x sa imm
  x.errs w = 0 → x.bankOn (bankOf w) = true → SlotFree x x.aclk 2 (bankOf w) → SlotFree x (x.aclk + 2) 3 (bankOf w) →
  exec (.stn c sb sa imm) s = .next (acts s c 3 fun x => { x with
    uses := x.uses ++ [(x.aclk, 2, bankOf w), (x.aclk + 2, 3, bankOf w)],
    flight := x.flight ++ [{ due := x.aclk + 2, issued := x.aclk, what := .stn (w * 32) ((x.word w).take (x.narrowAddr sa imm % 32) ++ toLe (x.s sb).toNat 8
      ++ (x.word w).drop (x.narrowAddr sa imm % 32 + 8)) }],
    activity := upd 0 (upd 0 x.activity 5 (· + 1)) 3 (· + 2) })

/-! ### Vector field (spec/04_cluster.md R145 to R150) -/

/-- Row i writes the lanes v, computed from the cluster at issue (NaN payloads are those of operation n), into vd so that entries `lat`
aclk later see them, and changes nothing else. -/
def WritesV (i : Instr) (c : Nat) (vd : BitVec 4) (lat : Nat) (v : Nat → Cluster → List Word) : Prop :=
  ∀ s, Fires s c i 1 → exec i s = .next (after s (({ s.chip.modCl c (fun x => { x with
    flight := x.flight ++ [{ due := x.aclk + lat - 1, issued := x.aclk, what := .vreg vd.toNat (v s.chip.free x) }], activity := upd 0 x.activity 4 (· + 1) })
    with free := s.chip.free + 1 } : Chip).act c 1))

/-- Lane l of the two operands through g. -/
def lanewise2 (g : Nat → Word → Word → Word) (x : Cluster) (va vb : BitVec 4) : List Word :=
  (List.range 128).map fun l => g l (x.v va.toNat l) (x.v vb.toNat l)

def lanewise1 (g : Word → Word) (x : Cluster) (va : BitVec 4) : List Word := (List.range 128).map fun l => g (x.v va.toNat l)

/-- ACCRD reads the accumulator entry before any write of the aclk into vd, and its results are no longer awaited. -/
def accrdRow : Prop := ∀ s c (vd : BitVec 4) (entry : BitVec 8), Fires s c (.accrd c vd entry) 1 →
  exec (.accrd c vd entry) s = .next (after s ((({ s.chip.modCl c (fun x => { x with
    flight := x.flight ++ [{ due := x.aclk + 2, issued := x.aclk, what := .vreg vd.toNat ((List.range 128).map fun n => look 0 x.arr.acc (entry.toNat * 128 + n)) }],
    activity := upd 0 x.activity 4 (· + 1) }) with free := s.chip.free + 1 } : Chip).modCl c fun x => { x with
      arr := { x.arr with live := x.arr.live.filter fun e => decide (e.1 / 128 ≠ entry.toNat) } }).act c 1))
def vaddRow : Prop := ∀ c vd va vb, WritesV (.vadd c vd va vb) c vd 4 fun n x => lanewise2 (fun l a b => rndV n l ((f32 a).add (f32 b))) x va vb
def vsubRow : Prop := ∀ c vd va vb, WritesV (.vsub c vd va vb) c vd 4 fun n x => lanewise2 (fun l a b => rndV n l ((f32 a).add (f32 b).neg)) x va vb
def vmulRow : Prop := ∀ c vd va vb, WritesV (.vmul c vd va vb) c vd 4 fun n x => lanewise2 (fun l a b => rndV n l ((f32 a).mul (f32 b))) x va vb
def vfmaRow : Prop := ∀ c vd va vb, WritesV (.vfma c vd va vb) c vd 4 fun n x =>
  (List.range 128).map fun l => rndV n l (((f32 (x.v va.toNat l)).mul (f32 (x.v vb.toNat l))).add (f32 (x.v vd.toNat l)))
def vmaxRow : Prop := ∀ c vd va vb, WritesV (.vmax c vd va vb) c vd 2 fun n x => lanewise2 (fmaxV n) x va vb
def vminRow : Prop := ∀ c vd va vb, WritesV (.vmin c vd va vb) c vd 2 fun n x => lanewise2 (fminV n) x va vb
def vaddsRow : Prop := ∀ c vd va sb, WritesV (.vadds c vd va sb) c vd 4 fun n x =>
  (List.range 128).map fun l => rndV n l ((f32 (x.v va.toNat l)).add (f32 ((x.s sb).setWidth 32)))
def vmulsRow : Prop := ∀ c vd va sb, WritesV (.vmuls c vd va sb) c vd 4 fun n x =>
  (List.range 128).map fun l => rndV n l ((f32 (x.v va.toNat l)).mul (f32 ((x.s sb).setWidth 32)))
def vexp2Row : Prop := ∀ c vd va, WritesV (.vexp2 c vd va) c vd 12 fun _ x => lanewise1 (fExp2 0) x va
def vexpRow : Prop := ∀ c vd va, WritesV (.vexp c vd va) c vd 14 fun _ x => lanewise1 fExp x va
def vrcpRow : Prop := ∀ c vd va, WritesV (.vrcp c vd va) c vd 10 fun _ x => lanewise1 (fRcp 2) x va
def vrsqrtRow : Prop := ∀ c vd va, WritesV (.vrsqrt c vd va) c vd 12 fun _ x => lanewise1 fRsqrt x va
def vdivRow : Prop := ∀ c vd va vb, WritesV (.vdiv c vd va vb) c vd 14 fun _ x => lanewise2 (fun _ a b => fDiv a b) x va vb
def vsumrRow : Prop := ∀ c vd va, WritesV (.vsumr c vd va) c vd 10 fun n x =>
  List.replicate 128 (treeSum (fun a b => rndV n 0 ((f32 a).add (f32 b))) 7 (x.vec va))
def vmaxrRow : Prop := ∀ c vd va, WritesV (.vmaxr c vd va) c vd 8 fun n x => List.replicate 128 (treeSum (fmaxV n 0) 7 (x.vec va))
def vabsRow : Prop := ∀ c vd va, WritesV (.vabs c vd va) c vd 2 fun _ x => lanewise1 (fun a => a &&& 0x7FFFFFFF) x va
def vnegRow : Prop := ∀ c vd va, WritesV (.vneg c vd va) c vd 2 fun _ x => lanewise1 (fun a => a ^^^ 0x80000000) x va
def vcvtifRow : Prop := ∀ c vd va, WritesV (.vcvtif c vd va) c vd 4 fun _ x => lanewise1 cvtIF x va
def vcvtfiRow : Prop := ∀ c vd va, WritesV (.vcvtfi c vd va) c vd 4 fun _ x => lanewise1 cvtFI x va
def viaddRow : Prop := ∀ c vd va vb, WritesV (.viadd c vd va vb) c vd 2 fun _ x => lanewise2 (fun _ a b => (addI32 a b.toInt).1) x va vb
def vmovRow : Prop := ∀ c vd va, WritesV (.vmov c vd va) c vd 1 fun _ x => (List.range 128).map (x.v va.toNat)

/-! ### Vector loads and stores (spec/04_cluster.md R146, R147, R149, R150; spec/05_scratchpad.md R159 to R161) -/

/-- Slot uses that an access may take: none twice, none held, every bank on. -/
abbrev UsesFree (x : Cluster) (us : List SlotUse) : Prop := selfMeets us = false ∧ ∀ u ∈ us, u ∉ x.uses ∧ x.bankOn u.2.2 = true

/-- Ports that an access may take. -/
abbrev PortsFree (x : Cluster) (ps : List (Nat × Nat)) : Prop := ∀ p ∈ ps, p ∉ x.ports

/-- The scalar registers a post-increment advances are not claimed by the entry's scalar field, and are two. -/
abbrev IncFree (x : Cluster) (sa ss : BitVec 4) (post mx : Bool) : Prop :=
  post = true → (sa = 0 ∨ (sa.toNat, false) ∉ x.entryW) ∧ (mx = true → ss = 0 ∨ (ss.toNat, false) ∉ x.entryW)

/-- What a post-increment puts on its way: s[sa] by the element bytes, s[ss] by 4 after it where the format has scales. -/
def increments (x : Cluster) (sa ss : BitVec 4) (post mx : Bool) (bytes : Nat) : List FlightItem :=
  if post then
    { due := x.aclk, issued := x.aclk, what := .sreg sa.toNat (x.s sa + BitVec.ofNat 64 bytes) } ::
      (if mx then [{ due := x.aclk, issued := x.aclk, what := .sreg ss.toNat ((if ss = sa then x.s ss + BitVec.ofNat 64 bytes else x.s ss) + 4) }] else [])
  else []

def incClaims (sa ss : BitVec 4) (post mx : Bool) : List (Nat × Bool) :=
  if post then (sa.toNat, true) :: (if mx then [(ss.toNat, true)] else []) else []

/-- The physical words of the parts of a vector access, and those of its scale bytes. -/
def vecWords (x : Cluster) (a occ : Nat) : List (List Nat) := (vecParts (a % spdSize) occ).map fun ws => ws.map x.physWord
def scaleWords (x : Cluster) (mx : Bool) (a : Nat) : List Nat := if mx then (spdWords a 4).map x.physWord else []

/-- VLD of an aligned address, in a memory format or raw FP32: the load is under way with its parts' words, one part an aclk on its
port, the scale bytes read now; its post-increment lands at the end of the aclk. -/
def vldRow : Prop := ∀ s c vd sa ss post port fmt raw, Fires s c (.vld c vd sa ss post port fmt raw) 1 →
  let x := s.chip.cl c
  let f := BitVec.toNat fmt
  let mx := isMx f && !raw
  let occ := occupancy f raw
  let parts := vecWords x (x.s sa).toNat occ
  let sw := scaleWords x mx (x.s ss).toNat
  let uses := (List.range occ).flatMap (fun j => slotUses (x.aclk + j) 0 (parts.getD j [])) ++ slotUses x.aclk 2 sw
  let ps := (List.range occ).map fun j => (x.aclk + j, optBool port)
  (x.s sa).toNat % 32 = 0 → (if raw then f = 0 else vecFmt f = true) →
  UsesFree x uses → PortsFree x ps → IncFree x sa ss post mx → (∀ w ∈ sw, x.errs w = 0) →
  exec (.vld c vd sa ss post port fmt raw) s = .next (acts s c 1 fun x => { x with
    uses := x.uses ++ uses, ports := x.ports ++ ps, entryW := x.entryW ++ incClaims sa ss post mx,
    flight := x.flight ++ increments x sa ss post mx (moveBytes f raw),
    vlds := x.vlds ++ [{ vd := vd.toNat, fmt := f, raw := raw, issued := x.aclk, parts := parts, total := moveBytes f raw, data := [], scale := if mx then x.readAt c (x.s ss).toNat 4 else [], lost := false, ctx := x.curSlot.ctx }],
    activity := upd 0 (upd 0 x.activity 4 (· + 1)) 3 (· + uses.length) })

/-- The landings of bytes stored at logical address a: word by word under the roles in force. -/
def storePieces (x : Cluster) (due a : Nat) (bytes : List Byte) : List FlightItem :=
  (spdWords a bytes.length).zipIdx.map fun w =>
    { due := due, issued := x.aclk, what := .spd (x.physWord w.1 * 32 + if w.2 = 0 then a % 32 else 0)
        ((bytes.drop (if w.2 = 0 then 0 else 32 * w.2 - a % 32)).take (32 - if w.2 = 0 then a % 32 else 0)) }

/-- VST of an aligned address: part j of the converted (or, raw, the unconverted) vector lands 4 + j aclk after issue, the scale bytes
of an MX format with the last part; only a conversion records status and draws from the stochastic generators. -/
def vstRow : Prop := ∀ s c vs sa ss post shift fmt sr raw srcint, Fires s c (.vst c vs sa ss post shift fmt sr raw srcint) 1 →
  let x := s.chip.cl c
  let f := BitVec.toNat fmt
  let a := (x.s sa).toNat % spdSize
  let mx := isMx f && !raw
  let occ := occupancy f raw
  let parts := vecWords x (x.s sa).toNat occ
  let sw := scaleWords x mx (x.s ss).toNat
  let uses := (List.range occ).flatMap (fun j => slotUses (x.aclk + 4 + j) 3 (parts.getD j [])) ++ slotUses (x.aclk + 3 + occ) 3 sw
  let ps := (List.range occ).map fun j => (x.aclk + 4 + j, 2)
  let st := storeOf f x.satFp (drawsOf sr x.drawSeed x.draws) ((x.vec vs).map (storeVal srcint (BitVec.toNat shift)))
  let data := if raw then (x.vec vs).flatMap fun w => toLe w.toNat 4 else packCodes (elemBits f) st.codes
  a % 32 = 0 → (if raw then f = 0 ∧ sr = false else vecFmt f = true) → (shift ≠ 0 → srcint = true ∧ (raw = true ∨ f < 2)) →
  UsesFree x uses → PortsFree x ps → IncFree x sa ss post mx →
  exec (.vst c vs sa ss post shift fmt sr raw srcint) s = .next (acts s c 1 fun x => { x with
    uses := x.uses ++ uses, ports := x.ports ++ ps, entryW := x.entryW ++ incClaims sa ss post mx,
    flight := x.flight ++ increments x sa ss post mx (moveBytes f raw) ++
      ((List.range occ).flatMap fun j => storePieces x (x.aclk + 4 + j) (a + 128 * j) ((data.drop (128 * j)).take 128)) ++
      (if mx then storePieces x (x.aclk + 3 + occ) ((x.s ss).toNat % spdSize) st.scales else []),
    num := if raw then x.num else x.num.or st.num, draws := if sr then x.draws + 1 else x.draws,
    activity := upd 0 (upd 0 x.activity 4 (· + 1)) 3 (· + uses.length) })

/-- A vector access at an address that is not a multiple of 32 bytes makes an entry whose array field is none, or past, illegal. -/
def vecMisaligned : Prop := ∀ s c r sa ss post, ((s.chip.cl c).s sa).toNat % 32 ≠ 0 →
  (s.chip.cl c).acted.getLsbD 0 = true ∨ (s.chip.cl c).opAt c 0 = some (some (.anop c)) →
  (∀ port fmt raw, (s.chip.cl c).fieldDue c (.vld c r sa ss post port fmt raw) = some 1 →
    exec (.vld c r sa ss post port fmt raw) s = .next (after s (s.chip.illegal s.clk c))) ∧
  (∀ shift fmt sr raw srcint, (s.chip.cl c).fieldDue c (.vst c r sa ss post shift fmt sr raw srcint) = some 1 →
    exec (.vst c r sa ss post shift fmt sr raw srcint) s = .next (after s (s.chip.illegal s.clk c)))

/-! ### Array field (spec/03_matrix_array.md R89 to R114; spec/04_cluster.md R142 to R144) -/

/-- FRONT: where the frond, the pairing, the timing and the column of fronds admit a front at s[sa] + 512 × off, it starts, its slots
are taken for its whole reading and its frond holds its formats from now on. -/
def frontRow : Prop := ∀ s c frond wfmt afmt sa off, Fires s c (.front c frond wfmt afmt sa off) 0 →
  let x := s.chip.cl c
  let a := ((x.s sa).toNat + BitVec.toNat off * 512) % spdSize
  ∀ p, pairing (BitVec.toNat wfmt) (BitVec.toNat afmt) = some p →
  let fr := BitVec.toNat frond
  let side := x.arr.side
  let start := x.aclk + fr / perOf side * segsOf side
  x.arr.modeUntil ≤ x.aclk → fr < perOf side * perOf side → a % 512 = 0 →
  (∀ v, (x.arr.frondAt fr).lastVec = some v → v + 1 ≤ start) →
  ((pairOf (x.arr.frondAt fr).wfmt (x.arr.frondAt fr).afmt).row = p.row ∨ x.arr.frondEmpty start fr = true) →
  (∀ y ∈ x.arr.fronts, y.frond = fr → y.pair.row = p.row → entersSegment y start p.q p.row = false) →
  (∀ y ∈ x.arr.fronts, y.col = fr % perOf side → y.issued + y.groups ≤ x.aclk) →
  UsesFree x (frontUses x x.aclk (BitVec.toNat wfmt) side (side / p.q) a) →
  exec (.front c frond wfmt afmt sa off) s = .next (acts s c 0 fun x => { x with
    uses := x.uses ++ frontUses x x.aclk (BitVec.toNat wfmt) side (side / p.q) a,
    arr := { x.arr with
      fronts := x.arr.fronts ++ [{ id := x.arr.nextId, frond := fr, wfmt := BitVec.toNat wfmt, afmt := BitVec.toNat afmt, addr := a, issued := x.aclk, start := start, groups := side / p.q, side := side, col := fr % perOf side, dbuf := x.dbuf, role := x.role, tile := [], scales := [], marks := [], ctx := x.curSlot.ctx }],
      nextId := x.arr.nextId + 1,
      fronds := upd {} x.arr.fronds fr fun y => { y with wfmt := BitVec.toNat wfmt, afmt := BitVec.toNat afmt, front := some x.arr.nextId } },
    activity := upd 0 x.activity 2 (· + side / p.q) })

/-- ISSUE to one frond whose activation format carries no scale, with the generator's walk ended: no lane has a vector, and the entry
takes its ports and marks the frond's time. -/
def issueEmptyRow : Prop := ∀ s c frond e0 gen acc ports, Fires s c (.issue c frond 0 e0 gen acc ports) 0 →
  let x := s.chip.cl c
  let fr := BitVec.toNat frond
  let f := x.arr.frondAt fr
  let p := pairOf f.wfmt f.afmt
  let ps := (if BitVec.getLsbD ports 0 then [(x.aclk, 0)] else []) ++ (if ports.getLsbD 1 then [(x.aclk, 1)] else [])
  x.arr.modeUntil ≤ x.aclk → fr < perOf x.arr.side * perOf x.arr.side → acc ≠ 3 → x.vecTimely fr = true →
  ports ≠ 0 → p.lanes * x.arr.side * elemBits f.afmt ≤ 1024 * (optBool (ports.getLsbD 0) + optBool (ports.getLsbD 1)) →
  PortsFree x ps → (x.oag gen).done = true → hasScale f.afmt = false →
  ∃ t, exec (.issue c frond 0 e0 gen acc ports) s = .next (acts s c 0 fun _ => t) ∧
    t.ports = x.ports ++ ps ∧ t.arr.vecs = x.arr.vecs ∧ t.arr.acc = x.arr.acc ∧ t.oag0 = x.oag0 ∧ t.oag1 = x.oag1 ∧
    t.arr.fronds = upd {} x.arr.fronds fr (fun y => { y with lastVec := some x.aclk }) ∧
    t.uses = x.uses ∧ t.spd = x.spd ∧ t.vreg = x.vreg ∧ t.sreg = x.sreg ∧ t.flight = x.flight

/-- ISSUE to a share set whose fronds agree and are timely: each lane that draws a step puts one vector into every frond of the set,
the generator moves on by the steps drawn, and registers, accumulators and scratchpad are as before. -/
def issueRow : Prop := ∀ s c frond share e0 gen acc ports, Fires s c (.issue c frond share e0 gen acc ports) 0 →
  let x := s.chip.cl c
  let fr := BitVec.toNat frond
  let f := x.arr.frondAt fr
  let p := pairOf f.wfmt f.afmt
  let side := x.arr.side
  let d := (x.oag gen).draw p.lanes
  let scaled := (x.oag gen).scaleEn && hasScale f.afmt
  let lanes := d.1.filterMap id
  let ws := (lanes.filter fun l => !l.2.masked).map fun l => laneWords f.afmt side scaled l.2
  let uses := ws.flatMap fun w => slotUses x.aclk 0 (w.1.map x.physWord) ++ slotUses x.aclk 2 (w.2.map x.physWord)
  let ps := (if BitVec.getLsbD ports 0 then [(x.aclk, 0)] else []) ++ (if ports.getLsbD 1 then [(x.aclk, 1)] else [])
  let add := acc = 1 ∨ acc = 2 ∧ x.curSlot.firstIter = false
  ∀ set, shareSet (perOf side) fr (BitVec.toNat share) = some set →
  x.arr.modeUntil ≤ x.aclk → fr < perOf side * perOf side → acc ≠ 3 →
  (∀ g ∈ set, (x.arr.frondAt g).afmt = f.afmt ∧ (pairOf (x.arr.frondAt g).wfmt f.afmt).lanes = p.lanes ∧
    (pairOf (x.arr.frondAt g).wfmt f.afmt).row = p.row ∧ x.vecTimely g = true) →
  ports ≠ 0 → p.lanes * side * elemBits f.afmt ≤ 1024 * (optBool (ports.getLsbD 0) + optBool (ports.getLsbD 1)) →
  UsesFree x uses → PortsFree x ps → (∀ w ∈ ws, ∀ b ∈ w.1 ++ w.2, x.errs (x.physWord b) = 0) →
  ∃ t, exec (.issue c frond share e0 gen acc ports) s = .next (acts s c 0 fun _ => t) ∧
    t.arr.vecs = x.arr.vecs ++ (set.flatMap fun g => lanes.map fun l => x.laneVec c g (BitVec.toNat e0) scaled (decide add) l.1 l.2) ∧
    t.arr.fronds = set.foldl (fun m g => upd {} m g fun y => { y with lastVec := some x.aclk }) x.arr.fronds ∧
    t.oag gen = d.2 ∧ t.oag (!gen) = x.oag (!gen) ∧ t.uses = x.uses ++ uses ∧ t.ports = x.ports ++ ps ∧
    t.arr.acc = x.arr.acc ∧ t.arr.fronts = x.arr.fronts ∧ t.sreg = x.sreg ∧ t.vreg = x.vreg ∧ t.spd = x.spd ∧ t.flight = x.flight

/-- MODE with the array empty: the frond mode changes over 130 aclk, no frond holds weights, and the accumulator file stays. -/
def modeRow : Prop := ∀ s c (m : BitVec 2), Fires s c (.mode c m) 0 → m ≠ 3 → (s.chip.cl c).arr.empty (s.chip.cl c).aclk = true →
  exec (.mode c m) s = .next (acts s c 0 fun x => { x with
    arr := { x.arr with mode := m.toNat, modeUntil := x.aclk + 130, fronds := [], fronts := [], vecs := [] } })

/-! ### Stream/sync field and waits (spec/04_cluster.md R126 to R140; spec/06_streams_barriers.md R208 to R211) -/

/-- Cluster c's message carries its present epoch and its lcid still maps to it. -/
abbrev Fresh (s : State) (c : Nat) (epoch : BitVec 16) : Prop := s.chip.fresh? c epoch = true

/-- No replay absorbs the cluster's operations. -/
abbrev Live (s : State) (c : Nat) : Prop := (s.chip.cl c).replay = none

/-- The partition whose slot cluster c runs. -/
abbrev owner (s : State) (c : Nat) : Nat := (cur s c).part

/-- A field i that waits on `on` with the budget dl names, after which the block is t but for the wait: the current slot stands in the wait from
this aclk on; where its turn has come, the wait is taken in this very aclk; where the rest of the entry is illegal, the slot stops then (R126,
R135, R139). `fill` is what follows a wait on a barrier. -/
def Presents (s : State) (i : Instr) (c : Nat) (t : Chip) (dl : BitVec 2) (on : WaitOn) (fill : Chip → Chip) : Prop :=
  let n := (s.chip.cl c).cur
  let w : WaitRec := { on := on, budget := look 0xFFFFFF (cur s c).budgets dl.toNat, since := (s.chip.cl c).aclk }
  let h := t.modSlot c n fun y => { y with st := .waiting, wait := some w }
  (h.waitTurn c n on = false → exec i s = .next (after s (fill h))) ∧
  (h.waitTurn c n on = true → (h.rest s.clk c).isSome = true → exec i s = .next (after s (fill (h.satisfy s.clk c n w)))) ∧
  (h.waitTurn c n on = true → h.rest s.clk c = none → exec i s = .next (after s (fill (h.illegal s.clk c))))

/-- The entry that issues holds i as its stream/sync field, still to act, and no cancel waits for the slot. -/
abbrev Waits (s : State) (c : Nat) (i : Instr) : Prop := (s.chip.cl c).fieldDue c i = some 2 ∧ (cur s c).cancelling = false

/-- A cancelled slot stops at its next wait without issuing the entry (R138). -/
def cancelAtWait : Prop := ∀ (k : Clock) (ch : Chip) c dl f, (ch.cl c).curSlot.cancelling = true → ch.present k c dl f = ch.cancelSlot k c (ch.cl c).cur

/-- A satisfied wait: what it did stays with the slot; a waiting slot runs again, its wait over; one that had yielded is ready, and an idle
sequencer or one whose wait has passed its budget takes it (R126, R135). -/
def satisfyRule : Prop := ∀ (k : Clock) (ch : Chip) c n (w : WaitRec),
  let r := ch.takeWait k c w.on
  let t := r.2.modSlot c n fun y => { y with wait := some { w with taken := some r.1 } }
  ch.satisfy k c n w =
    if ((t.cl c).slot n).st = .waiting then t.modCl c fun x => { (x.modSlot n fun y => { y with st := .running }) with acted := 4 } else t.wake c

/-- Outside a replay a WAITSEM that is satisfied lowers its semaphore by n and joins the lcid's semaphore log; a WAITHALF stamps the half's first
satisfied wait and reckons the dry instant again; a barrier's wait leaves all as it is. -/
def takeWaitRule : Prop := ∀ (k : Clock) (ch : Chip) c, (ch.cl c).replay = none →
  (∀ j n, (ch.takeWait k c (.sem j n)).2 = (ch.modRg (regionOf c) fun r => { r with sems := upd 0 r.sems j (· - n) }).logSem c { wait := true, sem := j, n := n }) ∧
  (∀ b g, (ch.takeWait k c (.bar b g)).2 = ch) ∧
  (∀ st h, (ch.takeWait k c (.half st h)).2 =
    (ch.modStr (regionOf c) st fun x => x.modHalf h fun y => { y with satisfied := some (y.satisfied.getD k.timebase) }).redry k (regionOf c) st)

/-- WAITSEM of a semaphore of the owner waits for its count, granted in ascending lcid order. -/
def waitsemRow : Prop := ∀ s c (sem : BitVec 8) (dl : BitVec 2) (n : BitVec 6), Waits s c (.waitsem c sem dl n) →
  (s.chip.pt (owner s c)).ownsSem (regionOf c) sem.toNat = true →
  Presents s (.waitsem c sem dl n) c s.chip dl (.sem sem.toNat n.toNat) id

/-- The turn of a wait on a semaphore outside a capture, a hold and a replay: the value covers it after the waits of lower lcids that it covers. -/
def semTurn : Prop := ∀ (ch : Chip) c n j m, (ch.cl c).capture = none → ((ch.cl c).slot n).held = false → (ch.cl c).replay = none →
  let v := look 0 (ch.rg (regionOf c)).sems j
  ch.waitTurn c n (.sem j m) = (decide (m ≤ v) && (grants v (ch.semWaits (regionOf c) j)).contains (c, n))

/-- SIGSEM puts its raise on the way, to land two aclk after issue, and joins the lcid's semaphore log. -/
def sigsemRow : Prop := ∀ s c epoch (sem : BitVec 8) (n : BitVec 6), Fresh s c epoch → Fires s c (.sigsem c epoch sem n) 2 → Live s c →
  (s.chip.pt (owner s c)).ownsSem (regionOf c) sem.toNat = true →
  exec (.sigsem c epoch sem n) s = .next (after s
    (((s.chip.logSem c { wait := false, sem := sem.toNat, n := n.toNat }).modCl c fun x => { x with
      flight := x.flight ++ [{ due := x.aclk + 2, issued := x.aclk, what := .sem (regionOf c) sem.toNat n.toNat }] }).act c 2))

/-- The barrier of cluster c's lcid l and partition p is open to l's arrival of a kind: a member that has not arrived, the first arrival
or one of the kind of the first. -/
abbrev ArrivalOpen (s : State) (c l p b : Nat) (ckpt : Bool) : Prop :=
  (s.chip.cl c).lcid = some l ∧ s.chip.ownerOf l = some p ∧
  let x := (s.chip.pt p).bar b
  x.mask.getLsbD l = true ∧ x.arrived.getLsbD l = false ∧ (x.arrived = 0 ∨ x.ckpt = ckpt)

/-- The entry that arrives, as a checkpoint arrival records it. -/
abbrev entryKey (s : State) (c : Nat) : Option (Nat × Nat) := some ((s.chip.cl c).cur, (cur s c).ptr)

/-- ARRIVE of a member that is not the last joins the generation; the last member of a barrier without a job releases it, within one die due two
aclk later (R5). -/
def arriveRow : Prop := ∀ s c epoch (bar : BitVec 5) l p, Fresh s c epoch → Fires s c (.arrive c epoch bar) 2 → Live s c → ArrivalOpen s c l p bar.toNat false →
  let y := ((s.chip.pt p).bar bar.toNat).join l false (entryKey s c)
  let t := s.chip.modBar p bar.toNat fun _ => y
  (y.count < y.members.length →
    exec (.arrive c epoch bar) s = .next (after s ((t.fillUp s.clk (owner s c) bar.toNat).act c 2))) ∧
  (y.members.length ≤ y.count → y.job = none →
    exec (.arrive c epoch bar) s = .next (after s
      (((t.modBar p bar.toNat (Barrier.release (t.pt p).fill (if t.oneDie y then some (c, (t.cl c).aclk + 2) else none))).fillUp s.clk (owner s c) bar.toNat).act c 2)))

/-- WAITBAR waits until the generation its lcid last arrived at is released. -/
def waitbarRow : Prop := ∀ s c (bar : BitVec 5) (dl : BitVec 2), Waits s c (.waitbar c bar dl) →
  let n := s.chip.lastArrival c (owner s c) bar.toNat
  n ≠ 0 → Presents s (.waitbar c bar dl) c s.chip dl (.bar bar.toNat (n - 1)) fun h => h.fillUp s.clk (owner s c) bar.toNat

/-- The turn of a wait on a barrier: 1 to 32,767 generations have been released since the awaited one. -/
def barTurn : Prop := ∀ (ch : Chip) c n b g, (ch.cl c).capture = none → ((ch.cl c).slot n).held = false →
  let d := (((ch.pt ((ch.cl c).slot n).part).bar b).gen - BitVec.ofNat 16 g).toNat
  ch.waitTurn c n (.bar b g) = (decide (1 ≤ d) && decide (d ≤ 32767))

/-- A live ARRWAIT or CKPT of a member that is not the last: the barrier holds its arrival of the kind, and the slot waits for its generation. -/
def arrwaitRow (i : Nat → BitVec 16 → BitVec 5 → BitVec 2 → Instr) (ckpt : Bool) : Prop :=
  ∀ s c epoch (bar : BitVec 5) (dl : BitVec 2) l p, Fresh s c epoch → Waits s c (i c epoch bar dl) → Live s c → owner s c = p →
  ArrivalOpen s c l p bar.toNat ckpt →
  let y := ((s.chip.pt p).bar bar.toNat).join l ckpt (entryKey s c)
  y.count < y.members.length →
  Presents s (i c epoch bar dl) c (s.chip.modBar p bar.toNat fun _ => y) dl (.bar bar.toNat ((s.chip.pt p).bar bar.toNat).arrGen.toNat)
    fun h => h.fillUp s.clk p bar.toNat

/-- WAITHALF of a stream of the owner waits until the half is ready. -/
def waithalfRow : Prop := ∀ s c (stream : BitVec 6) (half : Bool) (dl : BitVec 2), Waits s c (.waithalf c stream half dl) →
  (s.chip.pt (owner s c)).ownsStream (regionOf c) stream.toNat = true →
  Presents s (.waithalf c stream half dl) c s.chip dl (.half stream.toNat (s.chip.halfOf c stream.toNat half)) id

/-- The turn of a wait on a half: it is ready, and where this aclk made it so, from the next on (R128). -/
def halfTurn : Prop := ∀ (ch : Chip) c n st h, (ch.cl c).capture = none → ((ch.cl c).slot n).held = false →
  let y := (ch.str (regionOf c) st).half h
  ch.waitTurn c n (.half st h) = (y.ready && (match y.readyAt with | some t => decide (t < (ch.cl c).aclk) | none => true))

/-- RELHALF sends the half to the engine, which sees it from the next aclk on; on a copy stream or a stopped one it hands nothing. -/
def relhalfRow : Prop := ∀ s c epoch (stream : BitVec 6) (half : Bool), Fresh s c epoch → Fires s c (.relhalf c epoch stream half) 2 →
  (s.chip.pt (owner s c)).ownsStream (regionOf c) stream.toNat = true →
  let r := regionOf c
  let x := s.chip.str r stream.toNat
  (x.st = .faulted ∨ x.st = .stopping ∨ (∃ d, x.last = some d ∧ d.dir = 2) → exec (.relhalf c epoch stream half) s = .next (after s (s.chip.act c 2))) ∧
  (x.st = .idle ∨ x.st = .active → (∀ d, x.last = some d → d.dir ≠ 2) →
    exec (.relhalf c epoch stream half) s = .next (acts s c 2 fun y => { y with
      flight := y.flight ++ [{ due := y.aclk, issued := y.aclk, what := .rel r stream.toNat (s.chip.halfOf c stream.toNat half) }] }))

/-- A half the engine takes from its cluster: on a stopped stream nothing; one it holds already only marks the double release; else it gets the
stream's next bytes (R190, R191, R194). -/
def handOverRule : Prop := ∀ (k : Clock) (ch : Chip) r st h,
  let x := ch.str r st
  (x.st = .faulted ∨ x.st = .stopping → ch.handOver k r st h = ch) ∧
  (x.st = .idle ∨ x.st = .active → (x.half h).eng = true → ch.handOver k r st h = ch.modStr r st fun z => { z with relDup := true }) ∧
  (x.st = .idle ∨ x.st = .active → (x.half h).eng = false → ch.handOver k r st h = (ch.modStr r st fun z => z.modHalf h fun y =>
      { y with eng := true, ready := false, readyAt := none, satisfied := none, desc := none, handover := k.timebase }).assign k r st)

/-- SWAP of a declared pair puts the inversion of its role on the way, for entries from the next aclk on. -/
def swapRow : Prop := ∀ s c (pair : BitVec 4), Fires s c (.swap c pair) 2 → pairValid (look 0 (s.chip.cl c).dbuf pair.toNat) = true →
  exec (.swap c pair) s = .next (acts s c 2 fun x => { x with flight := x.flight ++ [{ due := x.aclk, issued := x.aclk, what := .role pair.toNat }] })

/-- A ready slot of higher priority than the current one. -/
abbrev Outranked (s : State) (c : Nat) : Prop :=
  ∃ n, n < 4 ∧ n ≠ (s.chip.cl c).cur ∧ ((s.chip.cl c).slot n).ready = true ∧ (cur s c).prio < ((s.chip.cl c).slot n).prio

/-- YIELDPT makes the entry's end count a yield and switch to the ready slot of highest priority when one outranks the slot, and else changes
nothing. -/
def yieldptRow : Prop := ∀ s c, Fires s c (.yieldpt c) 2 →
  (Outranked s c → exec (.yieldpt c) s = .next (acts s c 2 fun x => { x with yielding := true })) ∧
  (¬ Outranked s c → exec (.yieldpt c) s = .next (after s (s.chip.act c 2)))

/-- A stale message of a cluster changes one counter, TAL_DROPS. -/
def staleRows : Prop := ∀ s c epoch, s.chip.fresh? c epoch = false →
  let t := after s { s.chip with rcv := { s.chip.rcv with drops := satTo 0xFFFFFFFF (s.chip.rcv.drops + 1) } }
  (∀ sem n, exec (.sigsem c epoch sem n) s = .next t) ∧ (∀ b, exec (.arrive c epoch b) s = .next t) ∧
  (∀ b dl, exec (.arrwait c epoch b dl) s = .next t) ∧ (∀ b dl, exec (.ckpt c epoch b dl) s = .next t) ∧
  (∀ st h, exec (.relhalf c epoch st h) s = .next t)

/-- WAIT_SATISFIED of a slot that stands in a wait: its turn come, the wait is taken, unless the rest of a waiting entry is illegal, which stops its
slot; before its turn it keeps waiting. -/
def waitSatisfiedRow : Prop := ∀ s c n w, ((s.chip.cl c).slot n).wait = some w → w.taken = none →
  let st := ((s.chip.cl c).slot n).st
  (s.chip.waitTurn c n w.on = false → exec (.waitSatisfied c n) s = .next s) ∧
  (s.chip.waitTurn c n w.on = true → st ≠ .waiting ∨ (s.chip.rest s.clk c).isSome = true →
    exec (.waitSatisfied c n) s = .next (after s (s.chip.satisfy s.clk c n w))) ∧
  (s.chip.waitTurn c n w.on = true → st = .waiting → s.chip.rest s.clk c = none →
    exec (.waitSatisfied c n) s = .next (after s (s.chip.illegal s.clk c)))

/-- WAIT_BUDGET_EXPIRY: a wait that has passed its budget unsatisfied yields to a ready slot; with none ready, before its budget or satisfied, it
does not. -/
def waitBudgetRow : Prop := ∀ s c,
  (s.chip.budgetOut c = true → (s.chip.cl c).choose ≠ none → exec (.waitBudgetExpiry c) s = .next (after s (s.chip.modCl c Cluster.yieldWait))) ∧
  (s.chip.budgetOut c = false ∨ (s.chip.cl c).choose = none → exec (.waitBudgetExpiry c) s = .next s)

/-- HEARTBEAT of a powered cluster that is not parked is noted at the present local count. -/
def heartbeatRow : Prop := ∀ s c, (s.chip.cl c).beats = true → 
  exec (.heartbeat c) s = .next (after s (s.chip.modCl c fun x => { x with lastBeat := s.clk.localNs }))

/-- HEARTBEAT_LOSS: with no heartbeat for 2 µs a powered cluster has fault cause 7; before that nothing changes. -/
def heartbeatLossRow : Prop := ∀ s c, (s.chip.cl c).beats = true →
  ((s.chip.cl c).lastBeat + 2000 ≤ s.clk.localNs → exec (.heartbeatLoss c) s = .next (after s
    ((s.chip.modCl c fun x => { x with lastBeat := s.clk.localNs }).fault s.clk 7 (.cluster c) 0))) ∧
  (s.clk.localNs < (s.chip.cl c).lastBeat + 2000 → exec (.heartbeatLoss c) s = .next s)

/-- CHECKPOINT_CAPTURE_COMPLETE at the capture's end, with every carried word readable: the lcid's mirror holds the image, its semaphore
log starts afresh, and the cluster issues again. -/
def captureRow : Prop := ∀ s c cp l, (s.chip.cl c).capture = some cp → (s.chip.cl c).lcid = some l → cp.endAt ≤ (s.chip.cl c).aclk →
  (∀ x ∈ (s.chip.cl c).carried cp.keys, ∀ w ∈ spdWords x.spd x.len, (s.chip.cl c).errs w = 0) → (s.chip.cl c).svc ≠ .outOfService →
  ∃ t, exec (.checkpointCaptureComplete c) s = .next (after s t) ∧ (t.cl c).capture = none ∧ (t.cl c).replay = none ∧
    ((t.rg (regionOf c)).mir l).log = [] ∧ ((t.rg (regionOf c)).mir l).overflow = false ∧ ((t.rg (regionOf c)).mir l).current.isSome = true

/-- BARRIER_RELEASE with a release due at its members: their waits see the next generation. -/
def barrierReleaseRow : Prop := ∀ s p b,
  let x := (s.chip.pt p).bar b
  s.chip.releaseDue x = true →
  let ck := x.relCkpt.headD false
  let delay := if x.job.isSome then bitsAt x.fill.toNat 5 4 * 250 else 0
  exec (.barrierRelease p b) s = .next (after s (((x.members.foldl (fun ch l =>
      match ch.pcid l with
      | some n => ch.modCl n fun y => y.released s.clk.localNs delay (if ck then look none x.ckptPtr l else none)
      | none => ch)
    (s.chip.modBar p b fun y => { y with gen := y.gen + 1, released := y.released - 1, relCkpt := y.relCkpt.drop 1, relAt := y.relAt.drop 1, ckptPtr := if ck then [] else y.ckptPtr })).schedAdvance p b).queueColls s.clk p b))

/-- A release within one die is due once its last arriver's cluster has counted two aclk, or serves no longer; any other as soon as it is on its
way (R5, R128). -/
def releaseDueRule : Prop := ∀ (ch : Chip) (x : Barrier), x.released ≠ 0 →
  (∀ c t, x.relAt.headD none = some (c, t) → (ch.releaseDue x = true ↔ t ≤ (ch.cl c).aclk ∨ (ch.cl c).svc ≠ .owned)) ∧
  (x.relAt.headD none = none → ch.releaseDue x = true)

/-- FILLER_RAMP_DOWN_START at its instant ramps the cluster's filler to 0 over 4 µs. -/
def fillerRampRow : Prop := ∀ s c t, (s.chip.cl c).filler.downDue = some t → t ≤ s.clk.localNs →
  exec (.fillerRampDown c) s = .next (after s (s.chip.modCl c fun x => { x with
    filler := { start := x.filler.level s.clk.localNs, target := 0, since := s.clk.localNs, span := 4000, downDue := none } }))

/-! ### Host commands: what every one shares (spec/13_host_protocol.md R381 to R396) -/

/-- The opcode and the request of a command that a host sends. -/
def hostOp : Instr → Option (Nat × Req)
  | .sessionOpen q => some (0x0101, q) | .sessionConfirm q => some (0x0102, q) | .sessionClose q => some (0x0103, q)
  | .attest q => some (0x0104, q) | .keyPut q => some (0x0105, q) | .keyDrop q => some (0x0106, q)
  | .parCreate q => some (0x0201, q) | .parSet q => some (0x0202, q) | .parDestroy q => some (0x0203, q)
  | .ctxCreate q => some (0x0204, q) | .ctxDestroy q => some (0x0205, q)
  | .regRead q => some (0x0301, q) | .regWrite q => some (0x0302, q) | .memMap q => some (0x0303, q) | .memUnmap q => some (0x0304, q)
  | .memProtect q => some (0x0305, q) | .memWrite q => some (0x0306, q) | .memRead q => some (0x0307, q)
  | .modelStage q => some (0x0401, q) | .modelLoad q => some (0x0402, q) | .modelUnload q => some (0x0403, q)
  | .switchWeights q => some (0x0404, q) | .shardPut q => some (0x0405, q) | .tableLoad q => some (0x0406, q)
  | .tableClear q => some (0x0407, q) | .tableBuild q => some (0x0408, q)
  | .slotLoad q => some (0x0501, q) | .runStart q => some (0x0502, q) | .runCancel q => some (0x0503, q) | .streamArm q => some (0x0504, q)
  | .streamWithdraw q => some (0x0505, q) | .reqAdmit q => some (0x0506, q) | .reqEnd q => some (0x0507, q)
  | .kvCreate q => some (0x0601, q) | .kvDestroy q => some (0x0602, q) | .kvTruncate q => some (0x0603, q) | .kvCopy q => some (0x0604, q)
  | .kvSet q => some (0x0605, q) | .kvQuery q => some (0x0606, q)
  | .pwrCap q => some (0x0701, q) | .pwrQuery q => some (0x0702, q) | .hbmPoint q => some (0x0703, q)
  | .telSet q => some (0x0801, q) | .evtAck q => some (0x0802, q)
  | .reset q => some (0x0901, q) | .ckptWrite q => some (0x0902, q) | .ckptRead q => some (0x0903, q) | .dumpRead q => some (0x0904, q)
  | .flashUpdate q => some (0x0905, q)
  | .jobSetup q => some (0x0A01, q) | .jobEnd q => some (0x0A02, q) | .fabStatus q => some (0x0A03, q)
  | .dbgOpen q => some (0x0F01, q) | .dbgClose q => some (0x0F02, q) | .dbgRead q => some (0x0F03, q) | .dbgWrite q => some (0x0F04, q)
  | _ => none

/-- A host command that the device takes up: it answers at all, and nothing of R381, R389, R396 or R492 refuses it. -/
abbrev Taken (s : State) (op : Nat) (q : Req) : Prop := s.chip.answers = true ∧ s.chip.gate op q = none

/-- The reply OK or ACCEPTED to q, with a payload. -/
abbrev ok (ch : Chip) (q : Req) (payload : List Byte) : Chip := ch.reply q .ok payload
abbrev accepted (ch : Chip) (q : Req) (payload : List Byte) : Chip := ch.reply q .accepted payload

/-- A reserved field of a payload is zero. -/
abbrev Zero (q : Req) (off n : Nat) : Prop := slice q.payload off n = zeros n

/-- None of a command's refusals holds. -/
abbrev Clear (l : List (Bool × Refuse)) : Prop := ∀ x ∈ l, x.1 = false

/-- Fewer than the 256 accepted commands a partition may have open. -/
abbrev WorksFit (s : State) (q : Req) : Prop := (s.chip.works.filter fun w => decide (w.part = q.part)).length < 256

/-- The accepted command as the device keeps it until it completes. -/
def work (s : State) (q : Req) (op : Nat) (kind : WorkKind) : Work :=
  { id := s.chip.nextWork, part := q.part, ctx := q.ctx, session := q.session, seqNo := q.seq, opcode := op, kind := kind }

/-- A block with the accepted command noted and its reply sent. -/
def taken (s : State) (ch : Chip) (q : Req) (op : Nat) (kind : WorkKind) (payload : List Byte) : Chip :=
  accepted { ch with works := ch.works ++ [work s q op kind], nextWork := ch.nextWork + 1 } q payload

/-! ### Sessions, keys and the debug port (spec/12_partitions_security.md R357 to R368; spec/13_host_protocol.md R376 to R386) -/

/-- A datagram that opens a session, in form and with nothing to refuse it, waits in the receive queue as its command. -/
def datagramRow : Prop := ∀ s port src bytes, s.chip.answers = true → s.chip.host.rx.length < 512 →
  bytes.length = 32 + beAt bytes 10 2 → beAt bytes 10 2 ≤ s.chip.maxPayload port → beAt bytes 0 2 = 0xA5C1 → beAt bytes 2 1 = 1 →
  beAt bytes 4 2 = 0x0101 → beAt bytes 16 8 = 0 → beAt bytes 3 1 = 0 → beAt bytes 6 2 = 0 → bitAt (beAt bytes 8 2) 0 = false →
  s.chip.gate 0x0101 (reqOf port src bytes (bytes.drop 32)) = none →
  exec (.hostDatagramArrival port src bytes) s = .next (after s { s.chip with
    host := { s.chip.host with rx := s.chip.host.rx ++ [(0x0101, reqOf port src bytes (bytes.drop 32))] } })

/-- A datagram is dropped with one count of its port when 512 wait, when it is shorter than its header or not of the length it states, or
when magic or version is not this protocol's; a device that does not answer drops it without a count. -/
def datagramDrops : Prop := ∀ s port src bytes,
  (s.chip.answers = false → exec (.hostDatagramArrival port src bytes) s = .next s) ∧
  (s.chip.answers = true → 512 ≤ s.chip.host.rx.length →
    exec (.hostDatagramArrival port src bytes) s = .next (after s { s.chip with host := countPort port s.chip.host false })) ∧
  (s.chip.answers = true → s.chip.host.rx.length < 512 → bytes.length < 32 ∨ beAt bytes 0 2 ≠ 0xA5C1 ∨ beAt bytes 2 1 ≠ 1 →
    exec (.hostDatagramArrival port src bytes) s = .next (after s { s.chip with host := countPort port s.chip.host true }))

/-- A packet of a session that fails its authentication changes one counter; one whose number the window has passed, another. -/
def datagramSealed : Prop := ∀ s port src bytes x, s.chip.answers = true → s.chip.host.rx.length < 512 →
  bytes.length = 48 + beAt bytes 10 2 → beAt bytes 10 2 ≤ s.chip.maxPayload port → beAt bytes 0 2 = 0xA5C1 → beAt bytes 2 1 = 1 →
  beAt bytes 4 2 ≠ 0x0101 → s.chip.session? (beAt bytes 16 8) = some x → x.closed = false → x.confirmed = true →
  exec (.hostDatagramArrival port src bytes) s = .next (after s
    (match Config.gcmOpen x.h2d (x.ivH ++ zeros 4 ++ slice bytes 12 4) (bytes.take 32) (bytes.drop 32) with
     | none => { s.chip with sec := { s.chip.sec with authFail := satTo 0xFFFFFFFF (s.chip.sec.authFail + 1) } }
     | some payload =>
       if beAt bytes 12 4 + 1024 ≤ x.highest then { s.chip with host := { s.chip.host with stale := satTo 0xFFFF (s.chip.host.stale + 1) } }
       else s.chip.inSession port src bytes payload x))

/-- The session a SESSION_OPEN makes: the next id, keys derived with the transcript, not confirmed. -/
def openedSession (s : State) (q : Req) : Session :=
  let pub := Config.x25519 (Config.random s.chip.sec.randoms 32) x25519Base
  let sid := s.chip.host.sidCount + 1
  let t := Config.sha512 (reqHeader q 0x0101 ++ q.payload ++ pub ++ toBe sid 8)
  let keys := sessionKeys (Config.random s.chip.sec.randoms 32) (q.payload.take 32) t
  { id := sid, part := q.part, confirmed := false, closed := false, transcript := t, h2d := slice keys 0 32, d2h := slice keys 32 32,
    ivH := slice keys 64 4, ivD := slice keys 68 4, repliedAt := s.clk.localNs, highest := 0, window := [], evtNo := 1, addr := q.src, port := q.port }

/-- SESSION_OPEN: with the tenant key's hash in it and fewer than four sessions the reply carries the device's key, the id and a report
over the transcript, and the session is pending; another hash is refused with AUTH_FAILED. -/
def sessionOpenRow : Prop := ∀ s q, Taken s 0x0101 q → s.chip.sessionCount q.part < 4 →
  let x := openedSession s q
  let pub := Config.x25519 (Config.random s.chip.sec.randoms 32) x25519Base
  let ch : Chip := { s.chip with sec := { s.chip.sec with randoms := s.chip.sec.randoms + 1 },
                                 host := { s.chip.host with sidCount := x.id, sessions := s.chip.host.sessions ++ [x] } }
  exec (.sessionOpen q) s = .next (after s
    (if slice q.payload 32 32 = (Config.sha512 (s.chip.pt q.part).tenant).take 32
     then ok ch q (pub ++ toBe x.id 8 ++ ch.report s.clk q.part (slice q.payload 64 32) x.transcript)
     else s.chip.refuse q (.authFailed, some 32)))

/-- SESSION_CONFIRM of a pending session: the tenant's signature of the transcript confirms it and the events that waited go out; without
it the session is refused and dropped. -/
def sessionConfirmRow : Prop := ∀ s q x, Taken s 0x0102 q → s.chip.session? q.session = some x → x.confirmed = false →
  exec (.sessionConfirm q) s = .next (after s
    (if Config.ed25519Verify (s.chip.pt x.part).tenant x.transcript q.payload
     then (ok (s.chip.modSession q.session fun y => { y with confirmed := true }) q []).sendWaiting s.clk x.part q.session
     else let ch := s.chip.refuse q (.authFailed, some 0)
          { ch with host := { ch.host with sessions := ch.host.sessions.filter fun y => y.id ≠ q.session } }))

/-- SESSION_CLOSE replies, closes the sending session and takes it off every ring entry it still had to acknowledge. -/
def sessionCloseRow : Prop := ∀ s q, Taken s 0x0103 q →
  exec (.sessionClose q) s = .next (after s (((ok s.chip q []).modSession q.session fun x => { x with closed := true }).forgetSession q.part q.session))

/-- PENDING_SESSION_LAPSE drops exactly a session of that id that is not confirmed a second after its reply. -/
def sessionLapseRow : Prop := ∀ s sid, exec (.pendingSessionLapse sid) s = .next (after s { s.chip with host := { s.chip.host with
  sessions := s.chip.host.sessions.filter fun x => !(decide (x.id = sid) && !x.confirmed && decide (x.repliedAt + 1000000000 ≤ s.clk.localNs)) } })

/-- ATTEST of the sender's partition, or by the management partition of any valid one: the reply is that partition's report. -/
def attestRow : Prop := ∀ s q, Taken s 0x0104 q → let p := leAt q.payload 32 1
  p = q.part ∨ q.part = 0 → Zero q 33 3 → p < 8 → (s.chip.pt p).valid = true →
  exec (.attest q) s = .next (after s (ok s.chip q (s.chip.report s.clk p (q.payload.take 32) (zeros 64))))

/-- KEY_PUT of a kind 1 to 3 in form: the partition holds the key, an earlier one of its id replaced. -/
def keyPutRow : Prop := ∀ s q, Taken s 0x0105 q → let kind := leAt q.payload 0 1; let id := beAt q.payload 4 4; let p := s.chip.pt q.part
  Zero q 1 3 →
  (kind = 1 → q.payload.length = 72 → id ≠ 0 → s.chip.keyInUse q.part id = false → p.modelKeys.length < 64 →
    exec (.keyPut q) s = .next (after s (ok (s.chip.modPt q.part fun p => { p with
      modelKeys := (p.modelKeys.filter fun x => x.1 ≠ id) ++ [(id, slice q.payload 8 32, slice q.payload 40 32)] }) q []))) ∧
  (kind = 2 → q.payload.length = 40 → id % 65536 = 0 → p.jobKeys.length < 64 →
    exec (.keyPut q) s = .next (after s (ok (s.chip.modPt q.part fun p => { p with
      jobKeys := (p.jobKeys.filter fun x => x.1 ≠ id / 65536) ++ [(id / 65536, slice q.payload 8 32)] }) q []))) ∧
  (kind = 3 → q.payload.length = 40 → id = 0 →
    exec (.keyPut q) s = .next (after s (ok (s.chip.modPt q.part fun p => { p with ckptKey := some (slice q.payload 8 32) }) q [])))

/-- KEY_DROP: the named key is gone; a model key that a resident epoch uses stays and the answer is WEIGHTS_BUSY. -/
def keyDropRow : Prop := ∀ s q, Taken s 0x0106 q → let kind := leAt q.payload 0 1; let id := beAt q.payload 4 4
  Zero q 1 3 →
  (kind = 1 → s.chip.keyInUse q.part id = false → exec (.keyDrop q) s = .next (after s (ok (s.chip.modPt q.part fun p => { p with
    modelKeys := p.modelKeys.filter fun x => x.1 ≠ id }) q []))) ∧
  (kind = 1 → s.chip.keyInUse q.part id = true → exec (.keyDrop q) s = .next (after s (s.chip.refuse q (.weightsBusy, some 4)))) ∧
  (kind = 2 → exec (.keyDrop q) s = .next (after s (ok (s.chip.modPt q.part fun p => { p with jobKeys := p.jobKeys.filter fun x => x.1 ≠ id }) q []))) ∧
  (kind = 3 → exec (.keyDrop q) s = .next (after s (ok (s.chip.modPt q.part fun p => { p with ckptKey := none }) q [])))

/-- DBG_OPEN opens the debug port unless a valid partition is confidential; DBG_CLOSE closes it. -/
def dbgPortRows : Prop := ∀ s q,
  (Taken s 0x0F01 q → s.chip.anyConf = false → exec (.dbgOpen q) s = .next (after s (ok { s.chip with sec := { s.chip.sec with dbgOpen := true } } q []))) ∧
  (Taken s 0x0F01 q → s.chip.anyConf = true → exec (.dbgOpen q) s = .next (after s (s.chip.refuse q (.notPermitted, none)))) ∧
  (Taken s 0x0F02 q → exec (.dbgClose q) s = .next (after s (ok { s.chip with sec := { s.chip.sec with dbgOpen := false } } q [])))

/-- DBG_READ and DBG_WRITE with the port open, of the scratchpad of an lcid's cluster whose banks are on, or of HBM that is served. -/
def dbgMemRows : Prop := ∀ s q, s.chip.sec.dbgOpen = true → Zero q 2 2 →
  let l := beAt q.payload 1 1
  let a := beAt q.payload 4 8
  let n := beAt q.payload 12 4
  (Taken s 0x0F03 q → beAt q.payload 0 1 = 1 → l = 0 → a + n ≤ 2 ^ 37 → n ≤ s.chip.maxPayload q.port → s.chip.physShut s.clk a n = false →
    exec (.dbgRead q) s = .next (after s (ok (s.chip.touchPhys s.clk a n) q (s.chip.readPhys a n)))) ∧
  (∀ c, Taken s 0x0F03 q → beAt q.payload 0 1 = 0 → l < 64 → s.chip.pcid l = some c → a + n ≤ spdSize → n ≤ s.chip.maxPayload q.port →
    (s.chip.cl c).rangeOn a n = true →
    exec (.dbgRead q) s = .next (after s (ok (s.chip.eccReads s.clk c 0 (spdWords a n)) q
      (slice ((spdWords a n).flatMap ((s.chip.cl c).read c)) (a % 32) n)))) ∧
  (Taken s 0x0F04 q → beAt q.payload 0 1 = 1 → l = 0 → a + n ≤ 2 ^ 37 → q.payload.length = 16 + n → s.chip.physShut s.clk a n = false →
    exec (.dbgWrite q) s = .next (after s (ok (s.chip.writePhys s.clk a (q.payload.drop 16)) q []))) ∧
  (∀ c, Taken s 0x0F04 q → beAt q.payload 0 1 = 0 → l < 64 → s.chip.pcid l = some c → a + n ≤ spdSize → q.payload.length = 16 + n →
    (s.chip.cl c).rangeOn a n = true →
    exec (.dbgWrite q) s = .next (after s (ok (s.chip.modCl c fun x =>
      x.writePhys 0 a (q.payload.drop 16) ((q.payload.drop 16).length + 1)) q [])))

/-! ### Partitions and contexts (spec/12_partitions_security.md R346 to R355; spec/05_scratchpad.md R175 to R178) -/

/-- PAR_CREATE with nothing to refuse it: the partition takes its positions, its record is as the payload says with the lowest free id
ranges, its streams and semaphores are at their initial state, its clusters and engines are its own, and its measurement is extended. -/
def parCreateRow : Prop := ∀ s q, Taken s 0x0201 q → let c := createReq q.payload; let rs := s.chip.regionsOf c.lcids
  Clear (c.above ++ c.bad s.chip q.payload rs ++ c.taken s.chip rs ++ c.waits s.chip) → (c.conf = true → s.chip.sec.dbgOpen = false) →
  exec (.parCreate q) s = .next (after s (ok (((((s.chip.setShares c.p c.rd c.wr c.rm).modPt c.p fun _ => c.make s.chip rs).clearRanges c.p).giveUnits
    s.clk c.p).modPt c.p fun x => x.extend q.payload) q []))

/-- A PAR_CREATE of a confidential partition waits while the debug port is open. -/
def parCreateDebug : Prop := ∀ s q, Taken s 0x0201 q → let c := createReq q.payload; let rs := s.chip.regionsOf c.lcids
  Clear (c.above ++ c.bad s.chip q.payload rs) → c.conf = true → s.chip.sec.dbgOpen = true →
  exec (.parCreate q) s = .next (after s (s.chip.refuse q (.notReady, some 1)))

/-- PAR_SET of a valid partition's priority, power, borrowing and, with no stream of it armed, positions. -/
def parSetRow : Prop := ∀ s q, Taken s 0x0202 q → let b := q.payload; let p := leAt b 0 1
  let rd := awnWord b 4; let wr := awnWord b 8; let rm := awnWord b 12
  p < 8 → (s.chip.pt p).valid = true → (s.chip.pt p).tearing = false → leAt b 1 1 < 8 → leAt b 3 1 < 8 → Clear (awnBad b 4) → Zero q 16 4 →
  leAt b 2 1 + ((List.range 8).map fun i => if i ≠ p ∧ (s.chip.pt i).valid = true then (s.chip.pt i).power else 0).sum ≤ 64 →
  s.chip.sharesOver p rd wr rm = false → s.chip.sharesHeld p rd wr = false → s.chip.anyArmed p = false →
  exec (.parSet q) s = .next (after s (ok ((s.chip.setShares p rd wr rm).modPt p fun y =>
    ({ y with prio := leAt b 1 1, power := leAt b 2 1, borrow := BitVec.ofNat 3 (leAt b 3 1), awnRd := rd, awnWr := wr, awnRm := rm } : Partition).extend b) q []))

/-- PAR_DESTROY of a partition other than 0 is accepted and its teardown begins. -/
def parDestroyRow : Prop := ∀ s q, Taken s 0x0203 q → let p := leAt q.payload 0 1
  p ≠ 0 → p < 8 → (s.chip.pt p).valid = true → (s.chip.pt p).tearing = false → Zero q 1 3 → WorksFit s q →
  exec (.parDestroy q) s = .next (after s ((taken s s.chip q 0x0203 (.teardown p) []).tearDown s.clk p))

/-- TEARDOWN_COMPLETE of a partition whose last step is done and whose frames are zeroed: its record is empty and the one who asked hears
of it; before that nothing changes. -/
def teardownRow : Prop := ∀ s p,
  let done := (s.chip.pt p).tearing && decide ((s.chip.pt p).tearStep = 5) && !(s.chip.frames.any fun f => decide (f.2.use = .zeroing p true))
  (∀ w, done = true → s.chip.works.find? (fun w => decide (w.kind = .teardown p)) = some w →
    exec (.teardownComplete p) s = .next (after s (((s.chip.clearRanges p).modPt p fun _ => {}).complete s.clk w 0xE030 .ok (toBe p 1)))) ∧
  (done = false → exec (.teardownComplete p) s = .next s)

/-- CTX_CREATE gives the lowest free id of the partition's range; with none left it is refused with NO_RESOURCE. -/
def ctxCreateRow : Prop := ∀ s q, Taken s 0x0204 q →
  (∀ c, (s.chip.pt q.part).freeCtx = some c → exec (.ctxCreate q) s = .next (after s
    (ok (s.chip.modPt q.part fun p => { p with contexts := put none p.contexts c (some { restart := s.clk.localNs }) }) q (toBe c 2 ++ zeros 2)))) ∧
  ((s.chip.pt q.part).freeCtx = none → exec (.ctxCreate q) s = .next (after s (s.chip.refuse q (.noResource, none))))

/-- CTX_DESTROY frees the header's context. -/
def ctxDestroyRow : Prop := ∀ s q, Taken s 0x0205 q →
  exec (.ctxDestroy q) s = .next (after s (ok (s.chip.modPt q.part fun p => { p with contexts := put none p.contexts q.ctx none }) q []))

/-- COLLAPSE_SUPPLY_SAMPLE: 200 samples in a row below 0.15 V end the collapse; fewer are counted, and one above restarts the count. -/
def supplySampleRow : Prop := ∀ s c mv since n reason, (s.chip.cl c).svc = .collapsing since n reason → n < 200 →
  (mv < 150 → n + 1 < 200 → exec (.collapseSupplySample c mv) s = .next (after s (s.chip.modCl c fun x => { x with svc := .collapsing since (n + 1) reason }))) ∧
  (150 ≤ mv → exec (.collapseSupplySample c mv) s = .next (after s (s.chip.modCl c fun x => { x with svc := .collapsing since 0 reason }))) ∧
  (mv < 150 → n + 1 = 200 → exec (.collapseSupplySample c mv) s = .next (after s (s.chip.collapseDone s.clk c reason)))

/-- A collapse of no teardown ends with a clean cluster of the next epoch whose domain holds nothing: no slot, register or byte. -/
def collapsedCluster : Prop := ∀ (k : Clock) (ch : Chip) c, (ch.cl c).epoch ≠ 0xFFFF →
  let t := (ch.collapseDone k c 0).cl c
  t.svc = .clean ∧ t.epoch = (ch.cl c).epoch + 1 ∧ t.slots = [] ∧ t.table = [] ∧ t.sreg = [] ∧ t.vreg = [] ∧ t.arr = {} ∧ t.spd = [] ∧ t.written = [] ∧
  t.codec = [] ∧ t.seed = 0 ∧ t.flight = []

/-- COLLAPSE_FAILURE 2 ms after a collapse began without its 200 samples: the cluster is out of service and marked, its lcid goes to the
region's clean reserve, which serves its partition, and a notice says so. -/
def collapseFailureRow : Prop := ∀ s c since n reason l, (s.chip.cl c).svc = .collapsing since n reason → n < 200 → reason < 16 →
  since + 2000000 ≤ s.clk.localNs → (s.chip.cl c).lcid = some l →
  exec (.collapseFailure c) s = .next (after s (((s.chip.recordFailed c).notice s.clk 2 c).useReserve s.clk l c))

/-! ### Memory commands (spec/07_tiers_translation.md R218, R219, R224; spec/13_host_protocol.md R392) -/

/-- MEM_MAP of a free range that a stack has frames and quota for: the pages name frames of the first such stack, and the command is
accepted and done. -/
def memMapRow : Prop := ∀ s q st, Taken s 0x0303 q → let m := mapReq q.payload
  m.inRange = true → m.dva % 65536 = 0 → m.pages ≠ 0 → beAt q.payload 12 1 < 8 → Zero q 14 2 → (m.stack < 4 ∨ m.stack = 0xFF) →
  (m.lg = true → m.dva % 2097152 = 0 ∧ m.pages % 32 = 0) → (∀ g ∈ m.list, ((s.chip.pt q.part).pte g).v = false) → m.inWindow s.chip q.part = false →
  m.places.find? (s.chip.fitsNow q.part m) = some st → WorksFit s q →
  exec (.memMap q) s = .next (after s (let a := (s.chip.mapPages q.part m st).accept s.clk q 0x0303 (.protect []); (accepted a.2 q []).complete s.clk a.1 0xE001 .ok []))

/-- What MEM_UNMAP and MEM_PROTECT may name: mapped data pages, whole large pages, that no accepted command is still to read or write. -/
abbrev ChangeOk (s : State) (q : Req) : Prop :=
  let m := mapReq q.payload
  m.inRange = true ∧ m.dva % 65536 = 0 ∧ m.pages ≠ 0 ∧ beAt q.payload 12 1 < 8 ∧ Zero q 14 2 ∧ m.weight (s.chip.pt q.part) = false ∧
  m.misnamed (s.chip.pt q.part) = false ∧ WorksFit s q ∧ s.chip.rangeOwed q.part m.dva (m.pages * 65536) true = false

/-- MEM_UNMAP: the entries are invalid at once and out of every region's cache; the frames wait for the requests in flight. -/
def memUnmapRow : Prop := ∀ s q, Taken s 0x0304 q → ChangeOk s q → let gs := (mapReq q.payload).list
  exec (.memUnmap q) s = .next (after s (taken s
    ((s.chip.modPt q.part fun x => { x with pages := gs.foldl (fun t g => put {} t g {}) x.pages }).dropTlb q.part gs) q 0x0304
    (.unmap (gs.map fun g => ((s.chip.pt q.part).pte g).frameOf g) (s.chip.translated q.part gs)) []))

/-- MEM_PROTECT: the entries take the rights given at once. -/
def memProtectRow : Prop := ∀ s q, Taken s 0x0305 q → ChangeOk s q → let m := mapReq q.payload
  exec (.memProtect q) s = .next (after s (taken s
    ((s.chip.modPt q.part fun x => { x with pages := m.list.foldl (fun t g => upd {} t g fun e => { e with rd := m.rd, wr := m.wr }) x.pages }).dropTlb q.part m.list)
    q 0x0305 (.protect (s.chip.translated q.part m.list)) []))

/-- TRANSLATION_CHANGE_COMPLETE with no request of the old entries left: an unmap's frames are freed, and the command is done; with one
left nothing changes. -/
def translationChangeRow : Prop := ∀ s id w, s.chip.work? id = some w →
  (∀ fs old, w.kind = .unmap fs old → old.any s.chip.stillOut = false →
    exec (.translationChangeComplete id) s = .next (after s ((fs.foldl (fun c f => c.freeFrame f w.part false) s.chip).complete s.clk w 0xE001 .ok []))) ∧
  (∀ old, w.kind = .protect old → old.any s.chip.stillOut = false →
    exec (.translationChangeComplete id) s = .next (after s (s.chip.complete s.clk w 0xE001 .ok []))) ∧
  (∀ fs old, w.kind = .unmap fs old ∨ w.kind = .protect old → old.any s.chip.stillOut = true → exec (.translationChangeComplete id) s = .next s)

/-- MEM_WRITE of a range of writable data pages that memory serves, with no accepted command still at it, stores the payload's bytes; DATA_LOST with the first offset when a word in part was lost. -/
def memWriteRow : Prop := ∀ s q, Taken s 0x0306 q → let dva := beAt q.payload 0 8; let n := beAt q.payload 8 4
  (s.chip.pt q.part).rangeBad dva n true = false → Zero q 12 4 → q.payload.length = 16 + n →
  s.chip.rangeShut s.clk q.part dva n = false → s.chip.rangeOwed q.part dva n true = false →
  exec (.memWrite q) s = .next (after s (let ch := s.chip.writeDva s.clk q.part dva (q.payload.drop 16)
    match s.chip.firstLost q.part dva n true with | none => ok ch q [] | some o => ch.reply q .dataLost (toBe o 4)))

/-- MEM_READ of a range of readable data pages that memory serves, with no accepted command still to write it, replies its bytes; DATA_LOST with the first offset, lost words as zeros, when one is lost. -/
def memReadRow : Prop := ∀ s q, Taken s 0x0307 q → let dva := beAt q.payload 0 8; let n := beAt q.payload 8 4
  (s.chip.pt q.part).rangeBad dva n false = false → Zero q 12 4 → n + 16 ≤ s.chip.maxPayload q.port →
  s.chip.rangeShut s.clk q.part dva n = false → s.chip.rangeOwed q.part dva n false = false →
  exec (.memRead q) s = .next (after s (let ch := s.chip.touchDva s.clk q.part dva n
    match s.chip.firstLost q.part dva n false with
    | none => ok ch q (s.chip.readDvaZero q.part dva n)
    | some o => ch.reply q .dataLost (toBe o 4 ++ s.chip.readDvaZero q.part dva n)))

/-! ### Registers (spec/00_scope.md R16 to R18; spec/13_host_protocol.md R390, R391) -/

/-- What an access to a register asks of its address: the register exists, the partition has the right to it, and recovery mode leaves it
open. -/
abbrev RegOk (s : State) (p : Nat) (write : Bool) (a : RegAddr) : Prop := s.chip.regExists a = true ∧ s.chip.regRight p write a = true ∧ s.chip.regShut a = false

/-- REG_READ of 1 to 256 registers that exist and that the sender may read: the reply is their values in order. -/
def regReadRow : Prop := ∀ s q, Taken s 0x0301 q → let n := beAt q.payload 0 2
  let a := fun i => regAddr (beAt q.payload (4 + 4 * i) 4)
  n ≠ 0 → n ≤ 256 → q.payload.length = 4 + 4 * n → Zero q 2 2 → (∀ i, i < n → RegOk s q.part false (a i)) →
  exec (.regRead q) s = .next (after s (ok s.chip q (toBe n 2 ++ zeros 2 ++ (List.range n).flatMap fun i => toBe (s.chip.regRead s.clk s.mod q.part (a i)) 4)))

/-- A register that exists and that partition p may write, with the value's reserved bits 0. -/
abbrev Writable (s : State) (p : Nat) (a : RegAddr) (v : Word) : Prop := RegOk s p true a ∧ a.reservedSet v = false

/-- REG_WRITE of registers that exist and may be written, none of whose values is refused: they are written in listed order; a command
that starts fills or copies is accepted and completes with them; where values are refused, the refusal first in the order answers. -/
def regWriteRow : Prop := ∀ s q, Taken s 0x0302 q → let n := beAt q.payload 0 2
  let ws := (List.range n).map fun i => (regAddr (beAt q.payload (4 + 8 * i) 4), BitVec.ofNat 32 (beAt q.payload (8 + 8 * i) 4))
  let w := s.chip.regWrites s.clk q.part 8 ws
  n ≠ 0 → n ≤ 128 → q.payload.length = 4 + 8 * n → Zero q 2 2 → (∀ a ∈ ws, Writable s q.part a.1 a.2) →
  (w.2.1 = [] → w.2.2 = [] → exec (.regWrite q) s = .next (after s (ok w.1 q []))) ∧
  (∀ c cs, w.2.1 = c :: cs → w.2.2 = [] → WorksFit s q →
    exec (.regWrite q) s = .next (after s (accepted ((c :: cs).foldl (fun x c => (x.accept s.clk q 0x0302 (.fillCopy c)).2) w.1) q []))) ∧
  (∀ r, w.2.1 = [] ∨ WorksFit s q → leastRank w.2.2 = some r → exec (.regWrite q) s = .next (after s (s.chip.refuse q r)))

/-- The event rows that write one register: each is the write of the address it names. -/
def registerEvents (p lcid n : Nat) (v : Word) (hi : Bool) : List (Instr × Nat) :=
  [ (.seedHiWrite p lcid v, mkAddr 1 lcid 0 0x23), (.oagStart p lcid 0 v, mkAddr 1 lcid 0 0x0C), (.oagStart p lcid 1 v, mkAddr 1 lcid 0 0x1C),
    (.slotCfgWrite p lcid n v, mkAddr 2 lcid n 0), (.dbufWrite p lcid n v, mkAddr 3 lcid n 0), (.bankPwrWrite p lcid v, mkAddr 3 lcid 0 7),
    (.semWrite p lcid n v, mkAddr 4 lcid n 4), (.barMaskWrite p n hi v, mkAddr 4 0 n (if hi then 7 else 6)) ]

/-- A register write that its register takes has the register's effect; one refused changes nothing. -/
def registerWriteRow : Prop := ∀ s p addr v, let a := regAddr (BitVec.toNat addr)
  (∀ ch, s.chip.ready = true → Writable s p a v → s.chip.regEffect s.clk p a v 0 = .ok ch → exec (.registerWrite p addr v) s = .next (after s ch)) ∧
  (∀ r, s.chip.ready = true → Writable s p a v → s.chip.regEffect s.clk p a v 0 = .error r → exec (.registerWrite p addr v) s = .next s) ∧
  (s.chip.ready = false ∨ ¬ Writable s p a v → exec (.registerWrite p addr v) s = .next s)

/-- The named register writes have their register's effect. -/
def registerEventRows : Prop := ∀ s p lcid n v hi, ∀ x ∈ registerEvents p lcid n v hi, ∀ ch, s.chip.ready = true → Writable s p (regAddr x.2) v →
  s.chip.regEffect s.clk p (regAddr x.2) v 0 = .ok ch → exec x.1 s = .next (after s ch)

/-- What a write does to the registers that these rows name, on a cluster with no slot running or waiting: the seed commits, a start
begins the walk, a declaration takes its pair and clears its role, bank states change. -/
def registerEffects : Prop := ∀ (k : Clock) (ch : Chip) c off (v : Word), (ch.cl c).anyBusy = false →
  ch.writeClu c 0x23 v off = .ok (ch.modCl c fun x => { x with seedHi := v, seed := v ++ x.seedLo, draws := 0, mixed := none }) ∧
  ((v.getLsbD 0 = true → (ch.cl c).oag0.geomBad = false) →
    ch.writeClu c 0x0C v off = .ok (ch.modCl c fun x => { x with oag0 := x.oag0.write 12 v })) ∧
  (∀ n, (pairValid v = true → (ch.cl c).pairMeets n v = false) → pairBase v + 2 * pairHalf v ≤ spdSize → bitsAt v.toNat 18 13 ≤ 4096 →
    ∀ p, ch.writeSpd k p c n 0 v off = .ok (ch.modCl c fun x =>
      { x with dbuf := put 0 x.dbuf n v, role := if pairValid v then x.role &&& ~~~(BitVec.twoPow 16 n) else x.role })) ∧
  (∀ p, (∀ b, b < 16 → bitsAt v.toNat (2 * b) 2 ≠ 3) → ch.writeSpd k p c 0 7 v off = .ok (ch.modCl c fun x => x.setBanks k v)) ∧
  (∀ p r n, ch.semWaited r n = false → ch.writeStr k p r n 4 v off = .ok (ch.modRg r fun g =>
    { g with semFlight := g.semFlight ++ [(n, v.toNat, k.localNs + ceilDiv (3 * ch.period (dieOfRegion r)) 42)] }))

/-- SCRATCHPAD_FILL and SCRATCHPAD_COPY with the checks of a go met and a length above 0: the engine is busy with the whole range still to
move. -/
def fillCopyRows : Prop := ∀ s p lcid c op, op = 1 ∨ op = 2 → let a := regAddr (mkAddr 3 lcid 0 6); let v : Word := if op = 1 then 3#32 else 5#32
  s.chip.ready = true → Writable s p a v → s.chip.regCluster a = some c → (s.chip.cl c).svc = .owned ∨ (s.chip.cl c).svc = .clean →
  (∀ x ∈ s.chip.goChecks c op, x.1 = false) → (s.chip.cl c).opLen ≠ 0 →
  exec (if op = 1 then .scratchpadFill p lcid else .scratchpadCopy p lcid) s = .next (after s (s.chip.modCl c fun x =>
    { x with op := BitVec.ofNat 2 op,
             opBusy := some { copy := decide (op = 2), dst := x.opDst.toNat, src := x.opSrc.toNat, len := x.opLen.toNat, part := p } }))

/-- A fill moves up to 128 bytes an aclk: the pattern register repeated, over the next part of the range. -/
def fillChunkRow : Prop := ∀ (c : Cluster) o, c.opBusy = some o → o.moved < o.len → o.copy = false →
  o.dst % 32 = 0 → o.moved % 32 = 0 → o.dst + o.len ≤ spdSize → Store.wf 0 c.spd = true → ∀ (ch : Chip) k was n i, ch.cl n = c →
  32 * i + 32 ≤ min 128 (o.len - o.moved) → c.bankOn (bankOf ((o.dst + o.moved) / 32 + i)) = true →
  let t := (ch.moveChunk k n was o).cl n
  t.word ((o.dst + o.moved) / 32 + i) = fillBytes c.opPat 0 32 ∧ t.opBusy = some { o with moved := o.moved + min 128 (o.len - o.moved) }

/-- FILL_COPY_COMPLETE with every byte moved: the engine is idle and its owner hears; with bytes left nothing changes. -/
def fillCompleteRow : Prop := ∀ s c o, (s.chip.cl c).opBusy = some o →
  (∀ w, o.len ≤ o.moved → s.chip.works.find? (fun w => decide (w.kind = .fillCopy c)) = some w → s.chip.ownerOfCl c = some w.part →
    exec (.fillCopyComplete c) s = .next (after s ((s.chip.modCl c fun x => { x with opBusy := none }).complete s.clk w 0xE001 .ok []))) ∧
  (o.moved < o.len → exec (.fillCopyComplete c) s = .next s)

/-- BANK_POWER_ON_COMPLETE at its instant: the bank is on. -/
def bankOnRow : Prop := ∀ s c b, b < 16 → look 0 (s.chip.cl c).bankReady b ≤ s.clk.localNs →
  exec (.bankPowerOnComplete c b) s = .next (after s (s.chip.modCl c fun x => { x with bankReady := put 0 x.bankReady b 0 }))

/-! ### Models, shards and epochs (spec/10_weights.md R296 to R315) -/

/-- MODEL_STAGE in order: offset 0 starts the staging buffer afresh, any other continues it. -/
def modelStageRow : Prop := ∀ s q, Taken s 0x0401 q → let off := beAt q.payload 0 4; let data := q.payload.drop 8
  (off = 0 ∨ off = (s.chip.pt q.part).staging.length) → Zero q 4 4 → off + data.length ≤ 16777216 →
  exec (.modelStage q) s = .next (after s (ok (s.chip.modPt q.part fun x => { x with staging := (if off = 0 then [] else x.staging) ++ data }) q []))

/-- MODEL_LOAD with nothing to refuse it: the reply names its handle; then a manifest that fails its checks, or has no room, ends the load
with its status and nothing reserved, and any other is mapped and each of its shards begins its first try. -/
def modelLoadRow : Prop := ∀ s q, Taken s 0x0402 q → Clear (loadChecks q s.chip) →
  let l := loadReq q.payload
  let x := s.chip.loadSlot q.part l.model
  let a := s.chip.accept s.clk q 0x0402 (.load x.1 x.2)
  let ch := accepted a.2 q (toBe x.1 1 ++ zeros 3)
  let m := (ch.loadManifest q.part l).getD []
  exec (.modelLoad q) s = .next (after s
    (match ch.mfCheck q.part m l.model l.rev l.stream with
     | .error st => ch.complete s.clk a.1 0xE001 st []
     | .ok key => match ch.loadRoom q.part l m with
       | .error st => ch.complete s.clk a.1 0xE001 st []
       | .ok (ch', fs, ps, led, slot) => (List.range (mfShards m)).foldl (fun c i => c.fetchShard s.clk x.1 x.2 i)
           (ch'.loadMap q.part x.1 x.2 l m key fs ps led slot a.1.id)))

/-- MODEL_UNLOAD of an epoch with no bound request is accepted: the load it may interrupt ends, and the epoch is released. -/
def modelUnloadRow : Prop := ∀ s q, Taken s 0x0403 q → let h := beAt q.payload 0 1; let m := s.chip.mdl h; let rev := beAt q.payload 4 4
  let e := if m.ep0.st ≠ .empty ∧ m.ep0.revision = rev then 0 else 1
  h < 16 → (s.chip.pt q.part).ownsHandle h = true → Zero q 1 3 → m.valid = true → (m.ep e).st ≠ .empty → (m.ep e).revision = rev →
  (m.ep e).releasing = false → s.chip.bound h e = 0 → WorksFit s q →
  exec (.modelUnload q) s = .next (after s ((((taken s s.chip q 0x0403 (.unload h e) []).endLoad s.clk h e).releaseEpoch h e false).unloadDone s.clk h e))

/-- SWITCH_WEIGHTS to a standby or draining epoch: it is current, and the one that was current drains; to the current epoch it changes nothing. -/
def switchWeightsRow : Prop := ∀ s q h e, Taken s 0x0404 q → s.chip.findEpoch q.part (beAt q.payload 0 8) (beAt q.payload 8 4) = some (h, e) →
  let ep := (s.chip.mdl h).ep e
  ep.releasing = false →
  (ep.st = .current → exec (.switchWeights q) s = .next (after s (ok s.chip q []))) ∧
  (ep.st = .standby ∨ ep.st = .draining → exec (.switchWeights q) s = .next (after s (ok
    ((s.chip.modMdl h fun m => { (m.modEp (1 - e) fun x => if x.st = .current then { x with st := .draining } else x) with cur := e }).modEp h e
      fun x => { x with st := .current }) q []))) ∧
  (ep.st = .loading → exec (.switchWeights q) s = .next (after s (s.chip.refuse q (.notReady, some 8))))

/-- SHARD_PUT of the next bytes of an open host try; for a MISSING shard with no try open it opens an extra one. -/
def shardPutRow : Prop := ∀ s q h e, Taken s 0x0405 q → let b := q.payload; let sh := beAt b 12 2
  s.chip.findEpoch q.part (beAt b 0 8) (beAt b 8 4) = some (h, e) → s.chip.liveShard h e sh = true → Zero q 14 2 → Zero q 20 4 →
  let x := ((s.chip.mdl h).ep e).shard sh
  beAt b 16 4 + (b.length - 24) ≤ x.length + 16 →
  (x.trying = true → x.source = 3 → beAt b 16 4 = x.received.length → exec (.shardPut q) s = .next (after s (ok (s.chip.modShard h e sh fun y =>
    { y with received := y.received ++ b.drop 24, lastByte := s.clk.localNs }) q []))) ∧
  (x.trying = false → x.st = .missing → beAt b 16 4 = 0 → exec (.shardPut q) s = .next (after s (ok (s.chip.modShard h e sh fun y =>
    { y with st := .fetching, source := 3, tries := 4, trying := true, received := b.drop 24, restoring := true, lastByte := s.clk.localNs }) q [])))

/-- A try of a live shard with no byte for 200 ms fails with SHARD_UNAVAILABLE; before that nothing changes. -/
def shardTimeoutRow : Prop := ∀ s h e sh, s.chip.liveShard h e sh = true →
  let x := ((s.chip.mdl h).ep e).shard sh
  x.trying = true → x.received.length < x.length + 16 →
  (x.lastByte + 200000000 ≤ s.clk.localNs → exec (.shardTryTimeout h e sh) s = .next (after s (s.chip.tryFailed s.clk h e sh 0x0401))) ∧
  (s.clk.localNs < x.lastByte + 200000000 → exec (.shardTryTimeout h e sh) s = .next s)

/-- A try whose bytes are all there: a tag or a digest that fails ends it, anything else leaves the shard ready to be placed. -/
def shardCompleteRow : Prop := ∀ s h e sh data, s.chip.liveShard h e sh = true →
  let ep := (s.chip.mdl h).ep e
  let x := ep.shard sh
  let bytes := s.chip.tryBytes h e sh data
  x.trying = true → bytes.length = x.length + 16 →
  exec (.shardTryComplete h e sh false data) s = .next (after s
    (match Config.gcmOpen ep.modelKey x.nonce (shardAad ep.manifest sh) bytes with
     | none => s.chip.tryFailed s.clk h e sh 0x0202
     | some plain =>
       if Config.sha512 plain ≠ x.digest then
         let ch := (s.chip.modEp h e fun y => { y with digestFails := satTo 0xFFFF (y.digestFails + 1) }).modShard h e sh fun y =>
           { y with mismatches := y.mismatches ++ [(x.source, if x.source = 1 then (s.chip.peerFor ep x).getD 0 else 0)] }
         let ch := if x.source = 1 then (match ch.peerFor ep x with | some d => ch.tellPeer s.clk h e sh 7 d | none => ch) else ch
         ch.tryFailed s.clk h e sh 0x0402
       else (s.chip.modShard h e sh fun y => { y with st := .placing, trying := false, plain := plain, received := [], tries := 0, peersTried := [],
                                                      restoring := y.restoring && decide (ep.st ≠ .loading) }).modEp h e Epoch.redegrade))

/-- A verified shard with no request of its pages in flight, flash not worn out and frames for it: a weight shard's pages take their places, a
fallback shard's bytes are written to its window and become readable; it is RESIDENT, and the partition hears of one that was missing. -/
def shardPlacedRow : Prop := ∀ s h e sh, s.chip.liveShard h e sh = true →
  let m := s.chip.mdl h; let ep := m.ep e; let x := ep.shard sh
  x.st = .placing → (x.kind = false → (∀ i ∈ x.lidxs ep, (s.chip.led i).inflight = 0) ∧ (ep.stream = true → s.chip.flash.wear < 100)) →
  s.chip.framesLacking m.part ep x = 0 →
  let pages := x.pageOffsets.map (ep.fbase / 65536 + ·)
  let ch := if x.kind = true then ((s.chip.writeDva s.clk m.part (ep.fbase + x.offset) x.plain).modPt m.part fun y =>
      { y with pages := pages.foldl (fun t g => upd {} t g fun z => { z with rd := true }) y.pages }).dropTlb m.part pages
    else x.pageOffsets.foldl (fun c i => c.placePage s.clk ep.stream x.pin (ep.ledBase + i) (slice x.plain ((i - x.offset / 65536) * 65536) 65536)) s.chip
  let ch := (ch.modShard h e sh fun y => { y with st := .resident, plain := [], restoring := false, hashedAt := s.clk.localNs, hashing := false }).modEp h e Epoch.redegrade
  exec (.shardPlaced h e sh) s = .next (after s (if x.restoring = true then ch.raise s.clk m.part 0xE021 .ok 0 (shardName m.modelId ep.revision sh ++ zeros 2) else ch))

/-- LOAD_COMPLETE of an epoch with every shard resident and none missing, not to be kept in flash: it is current when the handle's other
slot is empty and else standby, its schedule's first lifts begin, and the sender hears OK. -/
def loadCompleteRow : Prop := ∀ s h e w, let m := s.chip.mdl h; let ep := m.ep e
  ep.st = .loading → ep.releasing = false → (∀ i, i < ep.nshards → (ep.shard i).st = .resident) → ep.keep = false →
  ep.work.bind s.chip.work? = some w → ep.sched = none →
  let st := if (m.ep (1 - e)).st = .empty then EpochState.current else .standby
  exec (.loadComplete h e) s = .next (after s
    (((s.chip.modMdl h fun x => { x with cur := if st = .current then e else x.cur }).modEp h e fun x => ({ x with st := st, work := none } : Epoch).redegrade).complete
      s.clk w 0xE001 .ok []))

/-- SHARD_RETRY_DUE after a re-hash interval: each MISSING shard's source order runs again; before it nothing changes. -/
def shardRetryRow : Prop := ∀ s h e, let m := s.chip.mdl h; let ep := m.ep e
  ep.st = .standby ∨ ep.st = .current ∨ ep.st = .draining → ep.releasing = false →
  (ep.lastRetry + m.rehash * 1000000000 ≤ s.clk.localNs → exec (.shardRetryDue h e) s = .next (after s
    (((List.range ep.nshards).filter fun i => decide ((ep.shard i).st = .missing)).foldl
      (fun c i => (c.modShard h e i fun x => { x with restoring := true, peersTried := [] }).fetchShard s.clk h e i)
      (s.chip.modEp h e fun x => { x with lastRetry := s.clk.localNs })))) ∧
  (s.clk.localNs < ep.lastRetry + m.rehash * 1000000000 → exec (.shardRetryDue h e) s = .next s)

/-- REHASH_DUE of a RESIDENT weight shard after its interval begins its re-hash. -/
def rehashDueRow : Prop := ∀ s h e sh, s.chip.liveShard h e sh = true → let x := ((s.chip.mdl h).ep e).shard sh
  x.st = .resident → x.kind = false → x.hashing = false → x.hashedAt + (s.chip.mdl h).rehash * 1000000000 ≤ s.clk.localNs →
  exec (.rehashDue h e sh) s = .next (after s (s.chip.modShard h e sh fun y => { y with hashing := true }))

/-- REHASH_COMPLETE: a digest that agrees restarts the interval, one that differs, or a word that is lost, makes the shard suspect; errors met
are counted either way. -/
def rehashCompleteRow : Prop := ∀ s h e sh, s.chip.liveShard h e sh = true → let ep := (s.chip.mdl h).ep e; let x := ep.shard sh
  x.hashing = true →
  let r := s.chip.readShard s.clk (s.chip.mdl h).part ep x
  exec (.rehashComplete h e sh) s = .next (after s
    (if r.1.map Config.sha512 = some x.digest then r.2.modShard h e sh fun y => { y with hashing := false, hashedAt := s.clk.localNs }
     else r.2.suspectShard s.clk h e sh))

/-- PEER_SHARD_REQUEST of a member for a shard whose package is kept in flash: its bytes go to the peer in messages of at most 2,048; for one
that is neither kept nor resident the request is refused with a message of its own kind. -/
def peerRequestRow : Prop := ∀ s job src model rev sh j h e, s.chip.peerEpoch job src model rev = some (j, h, e) →
  let ep := (s.chip.mdl h).ep e
  let kept := (s.chip.keptOf j.part model rev).bind fun kp => kp.shard sh
  sh < ep.nshards → ep.darino = false →
  (∀ b, kept = some b → b ≠ [] →
    exec (.peerShardRequest job src model rev sh) s = .next (after s ((chunks b (b.length / 2048 + 1)).foldl (fun c b =>
      match c.flowSend s.clk j src (shardFlow h e) false (flowMsg 5 0 0 0 (14 + b.length) (shardName model rev sh ++ b)) with | some y => y.2 | none => c) s.chip))) ∧
  (kept = none → (ep.shard sh).st ≠ .resident → ∀ y, s.chip.flowSend s.clk j src (shardFlow h e) false (flowMsg 6 0 0 0 14 (shardName model rev sh)) = some y →
    exec (.peerShardRequest job src model rev sh) s = .next (after s y.2))

/-- PEER_MISMATCH_REPORT of a member about a live shard of an epoch that is not loading: the shard is suspect, as after a failed re-hash. -/
def peerMismatchRow : Prop := ∀ s job src model rev sh j h e, s.chip.peerEpoch job src model rev = some (j, h, e) →
  s.chip.liveShard h e sh = true → ((s.chip.mdl h).ep e).st ≠ .loading →
  exec (.peerMismatchReport job src model rev sh) s = .next (after s (s.chip.suspectShard s.clk h e sh))

/-- EPOCH_RELEASE of a draining epoch with no bound request, or of one being released, goes on as far as requests in flight let it. -/
def epochReleaseRow : Prop := ∀ s h e, let ep := (s.chip.mdl h).ep e
  (ep.releasing = true ∨ ep.st = .draining ∧ s.chip.bound h e = 0 →
    exec (.epochRelease h e) s = .next (after s ((s.chip.releaseEpoch h e false).unloadDone s.clk h e))) ∧
  (ep.releasing = false → ep.st ≠ .draining ∨ s.chip.bound h e ≠ 0 → exec (.epochRelease h e) s = .next s)

/-! ### Codec tables (spec/09_block_codec.md R287 to R291) -/

/-- What a table command may name: own lcids whose clusters serve the partition, a slot that nothing refers to. -/
abbrev TableOk (s : State) (q : Req) : Prop :=
  let cs := tableClusters q s.chip
  BitVec.ofNat 64 (beAt q.payload 4 8) &&& ~~~(s.chip.pt q.part).lcids = 0 ∧ beAt q.payload 0 1 < 8 ∧ Zero q 1 3 ∧
  (∀ l ∈ tableLcids q, (s.chip.pcid l).isSome = true) ∧ (∀ c ∈ cs, (s.chip.cl c).svc = .owned ∧ s.chip.slotRefs c (beAt q.payload 0 1) = 0) ∧ WorksFit s q

/-- TABLE_LOAD of a valid image and TABLE_CLEAR empty the slot on the clusters named and are accepted. -/
def tableRows : Prop := ∀ s q, TableOk s q → let slot := beAt q.payload 0 1; let cs := tableClusters q s.chip
  (Taken s 0x0406 q → imgValid (q.payload.drop 12) = true →
    exec (.tableLoad q) s = .next (after s (taken s (s.chip.emptySlots cs slot) q 0x0406 (.tableLoad (tableLcids q) slot (q.payload.drop 12)) []))) ∧
  (Taken s 0x0407 q → exec (.tableClear q) s = .next (after s (taken s (s.chip.emptySlots cs slot) q 0x0407 (.tableLoad (tableLcids q) slot []) [])))

/-- TABLE_LOAD_COMPLETE: the slot holds the image on the cluster of every lcid named, or stays empty after a clear, and the sender hears OK;
with an lcid that no cluster serves any more no slot changes. -/
def tableLoadDoneRow : Prop := ∀ s id w ls slot img, s.chip.work? id = some w → w.kind = .tableLoad ls slot img → let cs := ls.filterMap s.chip.pcid
  ((∀ l ∈ ls, (s.chip.pcid l).isSome = true) → (∀ c ∈ cs, (s.chip.cl c).svc = .owned) →
    exec (.tableLoadComplete id) s = .next (after s ((cs.foldl (fun c x => c.modCl x fun y =>
      { y with codec := put {} y.codec slot (if img.isEmpty then {} else { valid := true, image := img }) }) s.chip).complete s.clk w 0xE001 .ok []))) ∧
  ((∃ l ∈ ls, s.chip.pcid l = none) → exec (.tableLoadComplete id) s = .next (after s (s.chip.complete s.clk w 0xE001 .noResource [])))

/-- TABLE_BUILD in form is accepted. -/
def tableBuildRow : Prop := ∀ s q, Taken s 0x0408 q → let b := q.payload
  beAt b 0 1 < 2 → beAt b 1 1 < 2 → Zero q 2 2 → WorksFit s q →
  exec (.tableBuild q) s = .next (after s (taken s s.chip q 0x0408 (.tableBuild (beAt b 0 1) (decide (beAt b 1 1 = 1)) (beAt b 4 4) (beAt b 8 8) (beAt b 16 8)) []))

/-- TABLE_BUILD_COMPLETE: over readable bytes and a writable target, no word of them lost, the image of the lengths built is written and the
reply tells symbols and bits; a length of 0 writes nothing; a page that cannot be read ends it with its DVA. -/
def tableBuildDoneRow : Prop := ∀ s id w width all n src dst, s.chip.work? id = some w → w.kind = .tableBuild width all n src dst →
  let ch := s.chip.touchDva s.clk w.part src n
  (n = 0 → exec (.tableBuildComplete id) s = .next (after s (s.chip.complete s.clk w 0xE001 .ok (zeros 12)))) ∧
  (n ≠ 0 → s.chip.rangeShut s.clk w.part src n = false → s.chip.rangeShut s.clk w.part dst 144 = false → s.chip.workEarlier w = false →
    ch.firstLost w.part src n false = none →
    (∀ bytes, ch.readServed w.part src n = .ok bytes → (ch.pt w.part).rangeBad dst 144 true = false → ch.firstLost w.part dst 144 true = none →
      let counts := symCounts width all bytes
      let lens := buildLens width counts
      exec (.tableBuildComplete id) s = .next (after s ((ch.writeDva s.clk w.part dst (buildImage width lens)).complete s.clk w 0xE001 .ok
        (toBe (lens.filter (· ≠ 0)).length 2 ++ zeros 2 ++ toBe (codeCost counts lens) 8)))) ∧
    (∀ a, ch.readServed w.part src n = .error a →
      exec (.tableBuildComplete id) s = .next (after s (ch.complete s.clk w 0xE001 .notPermitted (toBe a 8)))))

/-! ### Tables, runs and requests (spec/04_cluster.md R121 to R141; spec/13_host_protocol.md R392 to R397) -/

/-- What SLOT_LOAD asks of a table and its slot: an lcid of the sender whose cluster serves it, a context that is not quarantined, a readable
table of well-formed entries with no word lost, a slot that neither runs nor waits, a place in the table store that no other slot's table
overlaps. -/
abbrev SlotOk (s : State) (q : Req) (c : Nat) : Prop :=
  let x := slotReq q.payload; let p := s.chip.pt q.part; let cl := s.chip.cl c
  x.lcid < 64 ∧ p.ownsLcid x.lcid = true ∧ s.chip.pcid x.lcid = some c ∧ cl.svc = .owned ∧ p.quarantine q.ctx = false ∧
  p.rangeBad x.dva (16 * x.len) false = false ∧ s.chip.firstLost q.part x.dva (16 * x.len) false = none ∧
  x.slot < 4 ∧ x.prio < 4 ∧ Zero q 3 1 ∧ x.base < 16384 ∧ x.base + x.len ≤ 16384 ∧ tableGood (s.chip.tableAt q.part x.dva x.len) = true ∧
  (cl.slot x.slot).st.busy = false ∧
  (0 < x.len → ∀ m, m < 4 → m ≠ x.slot → 0 < (cl.slot m).len → overlaps x.base x.len (cl.slot m).base (cl.slot m).len = false)

/-- Bytes of the plans of a cluster's other slots. -/
abbrev otherPlans (c : Cluster) (n : Nat) : Nat := ((List.range 4).map fun m => if m ≠ n then planBytes (c.slot m).plan else 0).sum

/-- SLOT_LOAD completes: the table's entries, as many as it names, are in the table store from its base on, and the slot is LOADED and bound to
the header's partition and context, with the records of the plan that follows the table, when there is one. A table with CKPT entries needs a
plan with a record of each. -/
def slotLoadRow : Prop := ∀ s q c, Taken s 0x0501 q → SlotOk s q c → let x := slotReq q.payload; let es := s.chip.tableAt q.part x.dva x.len
  let done := fun plan => after s (ok ((s.chip.touchDva s.clk q.part x.dva (16 * x.len)).modCl c fun y => y.loadTable x q.part q.ctx es plan) q [])
  (s.chip.planAt q.part (x.dva + 16 * x.len) = none → ckptEntries es = [] → otherPlans (s.chip.cl c) x.slot ≤ 65536 →
    exec (.slotLoad q) s = .next (done [])) ∧
  (∀ b, s.chip.planAt q.part (x.dva + 16 * x.len) = some b → let recs := planRecords (b.drop 16) (leAt b 4 2)
    (x.len ≠ 0 → planBad b = false) → (∀ i ∈ ckptEntries es, ∃ r ∈ recs, r.key = i) → (∀ r ∈ recs, r.captured ≤ 221184) →
    planBytes recs + otherPlans (s.chip.cl c) x.slot ≤ 65536 →
    exec (.slotLoad q) s = .next (done (if x.len = 0 then [] else recs)))

/-- What SLOT_LOAD leaves in the slot and in the table store. -/
def slotLoaded : Prop := ∀ (c : Cluster) (x : SlotReq) part ctx es plan,
  let y := c.loadTable x part ctx es plan
  (y.slot x.slot).st = .loaded ∧ (y.slot x.slot).base = x.base ∧ (y.slot x.slot).len = x.len ∧ (y.slot x.slot).prio = x.prio ∧
  (y.slot x.slot).part = part ∧ (y.slot x.slot).ctx = ctx ∧ (y.slot x.slot).dva = x.dva ∧
  (∀ n, n ≠ x.slot → y.slot n = c.slot n) ∧ y.sreg = c.sreg ∧ y.vreg = c.vreg ∧ y.arr = c.arr ∧ y.spd = c.spd ∧ y.cur = c.cur

/-- What RUN_START asks: counts that agree with its length, a context that is not quarantined, a resident epoch of an own handle or none,
admitted requests bound to it, own slots that are LOADED or ENDED on clusters that serve, with no fill or copy busy and no bank coming on, own idle engines of the
regions of those slots with at most 2^20 tasks. -/
abbrev RunOk (s : State) (q : Req) : Prop :=
  let b := q.payload; let r := runReq b; let p := s.chip.pt q.part
  b.length = runLen b ∧ p.quarantine q.ctx = false ∧ Zero q 6 10 ∧ runReserved b = false ∧
  (r.handle = 0xFF ∧ r.epoch = 0 ∨ r.handle ≠ 0xFF ∧ p.ownsHandle r.handle = true ∧ r.epoch < 2 ∧ ((s.chip.mdl r.handle).ep r.epoch).st ≠ .empty) ∧
  (∀ i ∈ r.reqs, ∃ x, p.request? i = some x ∧ x.handle = r.handle ∧ x.epoch = r.epoch) ∧
  (∀ e ∈ r.slots, e.1 < 64 ∧ p.ownsLcid e.1 = true ∧ ∃ c, s.chip.pcid e.1 = some c ∧ (s.chip.cl c).svc = .owned ∧
    (((s.chip.cl c).slot e.2).st = .loaded ∨ ((s.chip.cl c).slot e.2).st = .ended) ∧ (s.chip.cl c).opBusy = none ∧ (s.chip.cl c).returning = false) ∧
  (∀ e ∈ r.engines, e.1 < 16 ∧ p.ownsEng e.1 = true ∧ e.1 ∈ r.slots.map (fun x => s.chip.regionOfLcid x.1) ∧ e.2.1 ≤ 1048576 ∧ (s.chip.rg e.1).eng.st = .idle) ∧
  r.slots.eraseDups.length = r.slots.length ∧ (r.engines.map (·.1)).eraseDups.length = r.engines.length ∧ WorksFit s q

/-- RUN_START is accepted with the run's id, and every slot and engine it names starts in the same instant. -/
def runStartRow : Prop := ∀ s q, Taken s 0x0502 q → RunOk s q →
  exec (.runStart q) s = .next (after s ((taken s s.chip q 0x0502 (.run s.chip.nextRun) (toBe s.chip.nextRun 4)).startRun s.clk q (runReq q.payload)))

/-- A slot that starts is at its table's first entry with no loop open and runs for the run; an empty table ends at once. -/
def slotBegins : Prop := ∀ (x : Slot) run,
  (x.len ≠ 0 → (x.begin run).st = .running) ∧ (x.len = 0 → (x.begin run).st = .ended) ∧
  (x.begin run).ptr = 0 ∧ (x.begin run).depth = 0 ∧ (x.begin run).wait = none ∧ (x.begin run).run = run ∧
  (x.begin run).base = x.base ∧ (x.begin run).len = x.len ∧ (x.begin run).prio = x.prio

/-- RUN_CANCEL of a run of the sender's partition and context replies OK and cancels it; of another's, or one
it does not know, it is refused. -/
def runCancelRow : Prop := ∀ s q, Taken s 0x0503 q → let id := beAt q.payload 0 4
  (∀ r, s.chip.run? id = some r → r.part = q.part → r.ctx = q.ctx → exec (.runCancel q) s = .next (after s ((ok s.chip q []).cancelRun s.clk r))) ∧
  (∀ r, s.chip.run? id = some r → r.part ≠ q.part ∨ r.ctx ≠ q.ctx → exec (.runCancel q) s = .next (after s (s.chip.refuse q (.notPermitted, some 0)))) ∧
  (s.chip.run? id = none → exec (.runCancel q) s = .next (after s (s.chip.refuse q (.badField, some 0))))

/-- A cancelled slot that waits or has yielded ends at once; a running one is marked and ends at its next wait; any other is left. -/
def cancelledSlot : Prop := ∀ (ch : Chip) (k : Clock) l n c, ch.pcid l = some c → (ch.cl c).justTaken n = none → let st := ((ch.cl c).slot n).st
  (st = .waiting ∨ st = .yielded → ch.cancelOne k l n = ch.cancelSlot k c n) ∧
  (st = .running → ch.cancelOne k l n = ch.modSlot c n fun x => { x with cancelling := true }) ∧
  (st ≠ .waiting → st ≠ .yielded → st ≠ .running → ch.cancelOne k l n = ch)

/-- REQ_ADMIT binds each request to the handle's CURRENT epoch and replies its revision. -/
def reqAdmitRow : Prop := ∀ s q, Taken s 0x0506 q → let b := q.payload; let h := beAt b 0 1; let n := beAt b 4 2; let ids := reqIds b 8 n
  let m := s.chip.mdl h; let ep := m.ep m.cur
  h < 16 → (s.chip.pt q.part).ownsHandle h = true → Zero q 1 3 → Zero q 6 2 → 0 < n → n ≤ 1024 → b.length = 8 + 4 * n → m.valid = true →
  ids.eraseDups.length = ids.length → (∀ i ∈ ids, (s.chip.pt q.part).request? i = none) → ep.st = .current → ep.releasing = false →
  (s.chip.pt q.part).requests.length + n ≤ 16384 →
  exec (.reqAdmit q) s = .next (after s (ok (s.chip.modPt q.part fun x => { x with requests := x.requests ++ ids.map fun i =>
    { id := i, handle := h, epoch := m.cur, rev := ep.revision, ctx := q.ctx, session := q.session, seqNo := q.seq, ending := false, fidelity := 0, runs := 0, served := 0 } })
    q (toBe ep.revision 4)))

/-- REQ_END of admitted requests is accepted and they are ending; those that no run names retire at once. -/
def reqEndRow : Prop := ∀ s q, Taken s 0x0507 q → let b := q.payload; let n := beAt b 0 2; let ids := reqIds b 4 n
  Zero q 2 2 → 0 < n → n ≤ 1024 → b.length = 4 + 4 * n → ids.eraseDups.length = ids.length →
  (∀ i ∈ ids, ∃ r, (s.chip.pt q.part).request? i = some r ∧ r.ending = false) → WorksFit s q →
  exec (.reqEnd q) s = .next (after s ((taken s (s.chip.modPt q.part fun x => { x with requests := x.requests.map fun (r : Request) =>
    if r.id ∈ ids then { r with ending := true, session := q.session, seqNo := q.seq, ctx := q.ctx } else r }) q 0x0507 (.reqEnd ids) []).reqCheck s.clk q.part))

/-! ### Streams (spec/06_streams_barriers.md R182 to R201; spec/07_tiers_translation.md R222; spec/09_block_codec.md R279 to R285) -/

/-- STREAM_ARM with nothing to refuse it: an idle stream takes the descriptor as its active one, an active stream as its next one. -/
def streamArmRow : Prop := ∀ s q, Taken s 0x0504 q → Clear (armChecks q s.chip) → let r := leAt q.payload 0 1; let st := leAt q.payload 1 1
  let d : Desc := { descOf (q.payload.drop 4) with ctx := q.ctx, session := q.session, seqNo := q.seq, armed := s.clk.timebase }
  (d.length ≠ 0 → (s.chip.str r st).active = none → exec (.streamArm q) s = .next (after s (ok (s.chip.activate s.clk r st d) q []))) ∧
  (d.length ≠ 0 → (s.chip.str r st).active ≠ none → exec (.streamArm q) s = .next (after s (ok (s.chip.modStr r st fun x => { x with next := some d }) q []))) ∧
  (d.length = 0 → exec (.streamArm q) s = .next (after s (ok (s.chip.notifyDesc s.clk r st d 0) q [])))

/-- STREAM_WITHDRAW of a stream of the sender's partition stops it with cause 5; an idle stream is left as it is. -/
def streamWithdrawRow : Prop := ∀ s q, Taken s 0x0505 q → let r := leAt q.payload 0 1; let st := leAt q.payload 1 1
  r < 16 → (s.chip.pt q.part).ownsStream r st = true → Zero q 2 2 →
  exec (.streamWithdraw q) s = .next (after s (ok (s.chip.stopStream s.clk r st 5) q [])) ∧
  ((s.chip.str r st).st ≠ .active → exec (.streamWithdraw q) s = .next (after s (ok s.chip q [])))

/-- WHEEL_POSITION: a position of no partition stays idle; an owned one goes to its owner's best offer; with none of the owner's it stays idle
when the owner does not lend, and else goes to the first borrower, in ascending order after the owner, that offers. -/
def wheelPositionRow : Prop := ∀ s w pos, let x := s.chip.wheelAt w pos
  (x.owner = none → exec (.wheelPosition w pos) s = .next s) ∧
  (∀ p, x.owner = some p → let ch := s.chip.makeReqs s.clk p
    (∀ o, bestOffer (ch.offers s.clk p w x.write) = some o → exec (.wheelPosition w pos) s = .next (after s (ch.grant s.clk w x.write o))) ∧
    (bestOffer (ch.offers s.clk p w x.write) = none → (ch.pt p).lends w x.write = false → exec (.wheelPosition w pos) s = .next (after s ch)) ∧
    (bestOffer (ch.offers s.clk p w x.write) = none → (ch.pt p).lends w x.write = true →
      let bs := ((List.range 7).map fun i => (p + 1 + i) % 8).filter fun b => (ch.pt b).valid && (ch.pt b).borrows w x.write
      let ch := bs.foldl (fun c b => c.makeReqs s.clk b) ch
      exec (.wheelPosition w pos) s = .next (after s (match bs.findSome? fun b => bestOffer (ch.offers s.clk b w x.write) with | some o => ch.grant s.clk w x.write o | none => ch))))

/-- Of several offers the one that goes ahead of every other takes a position: none of them goes ahead of it. -/
def bestOfferFirst : Prop := ∀ os o, bestOffer os = some o → o ∈ os ∧ ∀ o' ∈ os, o'.before o = false

/-- STREAM_REQUEST_COMPLETE: with no granted request left nothing changes; a write's bytes are in memory, a read's reach the stream's
destination, and the request is gone; of a dropped read nothing arrives, and a read whose bytes the staging buffer has no room for waits. -/
def streamRequestRow : Prop := ∀ s r st,
  ((s.chip.str r st).landable = none → exec (.streamRequestComplete r st) s = .next s) ∧
  (∀ q, (s.chip.str r st).landable = some q → s.chip.roomFor r st q = false → exec (.streamRequestComplete r st) s = .next s) ∧
  (∀ q a, (s.chip.str r st).landable = some q → s.chip.roomFor r st q = true → q.window = none → q.phys = some a → let ch := s.chip.dropReq r st q
    (q.write = true → q.drop = true → ch.lostWrite a q.len = false → exec (.streamRequestComplete r st) s = .next (after s (ch.writePhys s.clk a q.data))) ∧
    (q.write = true → q.drop = false → ch.lostWrite a q.len = false → ((ch.writePhys s.clk a q.data).str r st).st = .active →
      exec (.streamRequestComplete r st) s = .next (after s ((ch.writePhys s.clk a q.data).creditWrite s.clk r st q))) ∧
    (q.write = false → q.drop = true → exec (.streamRequestComplete r st) s = .next (after s (ch.touchPhys s.clk a q.len))) ∧
    (q.write = false → q.drop = false → exec (.streamRequestComplete r st) s = .next (after s ((ch.touchPhys s.clk a q.len).landRead s.clk r st q
      (if s.chip.lostPhys a q.len then none else some (s.chip.readPhys a q.len))))))

/-- STREAM_IDLE_RETURN: a stopped stream with nothing in flight is idle again, and a teardown that waited for it goes on; while something is,
or while it is active, nothing changes. -/
def streamIdleRow : Prop := ∀ s r st, let x := s.chip.str r st
  (x.st = .faulted ∨ x.st = .stopping → x.reqs = [] → exec (.streamIdleReturn r st) s = .next (after s
    ((s.chip.modStr r st fun y => { y with st := .idle }).tearFrames5 (s.chip.strOwner r st)))) ∧
  (x.st = .idle ∨ x.st = .active ∨ x.reqs ≠ [] → exec (.streamIdleReturn r st) s = .next s)

/-- TRANSLATION_WALK_COMPLETE: with no finished walk of the stream nothing changes; a finished one leaves the region's walks and its reads are
counted. A lost word of them stops the streams that wait for it with cause 1; else a valid entry is in the partition's ways of its set, and
the streams that wait go on with what the walk found. -/
def walkRow : Prop := ∀ s r st, let done : Walk → Bool := fun w => decide (w.stream = st) && w.reads.isEmpty
  ((s.chip.rg r).walks.find? done = none → exec (.translationWalkComplete r st) s = .next s) ∧
  (∀ w, (s.chip.rg r).walks.find? done = some w → let e := (s.chip.pt w.part).pte w.page
    let ch := w.addrs.foldl (fun c a => c.touchPhys s.clk (a / 64 * 64) 64) (s.chip.modRg r fun g => { g with walks := g.walks.filter (· ≠ w) })
    let full := ch.modRg r fun g => g.fillTlb w.part w.page e.lg (look 0 (ch.pt w.part).wayBase r) (max 1 (look 0 (ch.pt w.part).ways r))
    (w.addrs.any s.chip.lostAt = true →
      exec (.translationWalkComplete r st) s = .next (after s ((ch.waitWalk r w.part w.page).foldl (fun c x => c.stopStream s.clk r x.1 1) ch))) ∧
    (w.addrs.any s.chip.lostAt = false → e.v = true → exec (.translationWalkComplete r st) s = .next (after s
      ((full.waitWalk r w.part w.page).foldl (fun c x => c.resolve s.clk r x.1 { x.2 with walking := false }) full))) ∧
    (w.addrs.any s.chip.lostAt = false → e.v = false → exec (.translationWalkComplete r st) s = .next (after s
      ((ch.waitWalk r w.part w.page).foldl (fun c x => c.resolve s.clk r x.1 { x.2 with walking := false }) ch))))

/-- HALF_DEADLINE: of a half that the cluster holds, that has expired, or whose deadline is 0 or has not passed, nothing; else late is set, and
of an inbound weight stream every block that is not in the banks is asked of the fallback, of any other stream the owner hears. -/
def halfDeadlineRow : Prop := ∀ s r st h, let y := (s.chip.str r st).half h
  (y.desc = none → exec (.halfDeadline r st h) s = .next s) ∧
  (∀ d, y.desc = some d → let ch := s.chip.modStr r st fun x => { (x.modHalf h fun y => { y with expired := true }) with late := true }
    (y.eng = false ∨ y.expired = true ∨ d.deadline = 0 ∨ s.clk.timebase < y.handover + d.deadline → exec (.halfDeadline r st h) s = .next s) ∧
    (y.eng = true → y.expired = false → d.deadline ≠ 0 → y.handover + d.deadline ≤ s.clk.timebase →
      (d.dir ≠ 0 ∨ d.fallback = 0 → exec (.halfDeadline r st h) s = .next (after s (ch.streamLate s.clk r st d h))) ∧
      (d.dir = 0 → d.fallback ≠ 0 → exec (.halfDeadline r st h) s = .next (after s
        (ch.modStr r st fun x => (ch.blocksOut r st h d).foldl (fun x b => x.askSub h b none true []) x)))))

/-- BLOCK_EMISSION: a lane with no complete block, or whose block has not been emitted yet or finds the staging buffer full, changes nothing; a block emitted is checked, and
the lane's next may start. -/
def blockEmissionRow : Prop := ∀ s c l,
  (((s.chip.cl c).lane l).bufs = [] → exec (.blockEmission c l) s = .next s) ∧
  (∀ b bs t d, ((s.chip.cl c).lane l).bufs = b :: bs → b.complete = some t → ((s.chip.str b.region b.stream).half b.half).desc = some d →
    let e0 := max (t + 2) (((s.chip.cl c).lane l).lastEmit + 1); let n := if hdrWidth b.bytes = 0 then 128 else 64
    ((s.chip.cl c).aclk ≤ e0 + n ∨ (s.chip.cl c).stageRoom 4096 = false → exec (.blockEmission c l) s = .next s) ∧
    (e0 + n < (s.chip.cl c).aclk → (s.chip.cl c).stageRoom 4096 = true → exec (.blockEmission c l) s = .next (after s
      ((s.chip.modCl c fun y => { y with lanes := upd {} y.lanes l fun z => { z with lastEmit := e0 + n - 1 } }).laneCheck s.clk c b d))))

/-- OUTBOUND_BLOCK_CODING: with no block queued, or one not read whole, nothing changes; a block read whole is coded with the table of its stream
and goes to the start of its run, unless the table slot is empty or it is longer than its run: then the stream stops with cause 4. -/
def outboundRow : Prop := ∀ s r, let g := s.chip.rg r
  (g.encQueue = [] ∨ g.encData.length < 4096 → exec (.outboundBlockCoding r) s = .next s) ∧
  (∀ st h i rest d c, g.encQueue = (st, h, i) :: rest → 4096 ≤ g.encData.length → let ch := s.chip.modRg r fun g => { g with encQueue := rest, encData := [] }
    ((ch.str r st).half h).desc = some d → d.pcid ch = some c → let t := look {} (ch.cl c).codec d.tslot
    let stored := storeBlock t.image d.tslot g.encData
    (t.valid = false ∨ d.run < stored.length → exec (.outboundBlockCoding r) s = .next (after s (ch.stopStream s.clk r st 4))) ∧
    (t.valid = true → stored.length ≤ d.run → exec (.outboundBlockCoding r) s = .next (after s
      (ch.modStr r st fun x => { x with pieces := x.pieces ++ [{ half := h, dva := d.addr (i / 4096 * d.run), bytes := stored, credit := 4096 }] }))))

/-! ### The KV commands and the attention engine (spec/11_attention_kv.md R325 to R345) -/

/-- KV_CREATE and KV_COPY with nothing to refuse them take the lowest free id of the partition, with every list empty. -/
def kvNewRow : Prop := ∀ s q i,
  (Taken s 0x0601 q → let x := kvDescriptor q.payload
    Clear (newSeqChecks q s.chip x (decide (leAt q.payload 6 2 ≠ 0) || decide (slice q.payload 54 10 ≠ zeros 10)) 0) → s.chip.freeSeq q.part = some i →
    exec (.kvCreate q) s = .next (after s (taken s (s.chip.newSeq q i x) q 0x0601 (.kvCreate i) []))) ∧
  (Taken s 0x0604 q → let src := beAt q.payload 0 2; let x := { s.chip.sq src with kvBase := beAt q.payload 8 8, kvLen := beAt q.payload 16 8 }
    (s.chip.sq src).valid = true → (s.chip.sq src).part = q.part → Clear (newSeqChecks q s.chip x (decide (slice q.payload 2 6 ≠ zeros 6)) 8) →
    s.chip.freeSeq q.part = some i → exec (.kvCopy q) s = .next (after s (taken s (s.chip.newSeq q i x) q 0x0604 (.kvCopy src i) [])))

/-- A sequence of the sender's partition that a command names. -/
abbrev OwnSeq (s : State) (q : Req) : Prop := (s.chip.sq (beAt q.payload 0 2)).valid = true ∧ (s.chip.sq (beAt q.payload 0 2)).part = q.part

/-- KV_DESTROY, KV_TRUNCATE and KV_SET of a sequence of the partition are accepted. -/
def kvChangeRow : Prop := ∀ s q, OwnSeq s q → WorksFit s q → let b := q.payload; let i := beAt b 0 2; let x := s.chip.sq i
  (Taken s 0x0602 q → Zero q 2 2 → exec (.kvDestroy q) s = .next (after s (taken s s.chip q 0x0602 (.kvDestroy i) []))) ∧
  (Taken s 0x0603 q → Zero q 2 2 → exec (.kvTruncate q) s = .next (after s (taken s s.chip q 0x0603 (.kvTruncate i (beAt b 4 4)) []))) ∧
  (Taken s 0x0605 q → let n := beAt b 2 1; let w := beAt b 3 1; let budget := beAt b 4 4; let decay := BitVec.ofNat 32 (beAt b 12 4)
    budget % 16 = 0 → 16 ≤ budget → budget ≤ x.budget0 → budget / 16 + w ≤ x.ns → 0 < w → n + w < budget / 16 → decayBad decay = false → beAt b 8 4 ≤ 262144 →
    exec (.kvSet q) s = .next (after s (taken s s.chip q 0x0605 (.kvSet i n w budget (beAt b 8 4) decay) [])))

/-- KV_QUERY replies the committed record of a list. -/
def kvQueryRow : Prop := ∀ s q, Taken s 0x0606 q → OwnSeq s q → let b := q.payload; let x := s.chip.sq (beAt b 0 2)
  beAt b 2 1 < x.layers → beAt b 3 1 < x.heads → let l := x.list (beAt b 2 1 * x.heads + beAt b 3 1)
  exec (.kvQuery q) s = .next (after s (ok s.chip q (toBe l.blocks.length 2 ++ zeros 2 ++ toBe l.last 4 ++ toBe l.gen 4 ++ toBe l.run 4 ++ toBe l.task 4)))

/-- KV_COMMAND_CARRY_OUT: with no task past its wait, no earlier command of its context or on its sequences, and memory that serves, a command is carried out and its kv_done names
the sequence; else nothing changes. -/
def kvCarryRow : Prop := ∀ s id w, s.chip.work? id = some w → w.kind.kvSeqs ≠ [] →
  (s.chip.kvEarlier w = true ∨ s.chip.kvServes w = false ∨ w.kind.kvSeqs.any s.chip.taskInFlight = true → exec (.kvCarryOut id) s = .next s) ∧
  (s.chip.kvEarlier w = false → s.chip.kvServes w = true → w.kind.kvSeqs.any s.chip.taskInFlight = false → (w.kind.kvSeqs.any fun i => !(s.chip.sq i).valid) = false →
    exec (.kvCarryOut id) s = .next (after s ((s.chip.kvDo s.clk w.kind).1.complete s.clk w 0xE004 (s.chip.kvDo s.clk w.kind).2 (toBe w.kind.kvId 2))))

/-- ATTENTION_TASK_READY: an engine with nothing queued, parked, with a task past its wait, or whose memory does not serve changes nothing; a task whose sequence a KV
command changes holds; one whose semaphore is too low waits; one that may begin takes its count off the semaphore and begins. -/
def taskReadyRow : Prop := ∀ s e, let g := (s.chip.rg e).eng
  (g.part = none ∨ g.parked = true ∨ g.work ≠ none ∨ g.count ≤ g.index ∨ (g.st ≠ .running ∧ g.st ≠ .holding) → exec (.attentionTaskReady e) s = .next s) ∧
  (∀ p b, g.part = some p → g.st = .running ∨ g.st = .holding → g.parked = false → g.work = none → g.index < g.count →
    s.chip.rangeServes p (g.dva + 64 * g.index) 64 = true → s.chip.attnDva p (g.dva + 64 * g.index) 64 = .ok b →
    let t := attnTask b; let ch := s.chip; ch.rangeServes p (ch.sq t.seq).kvBase (ch.sq t.seq).size = true →
    (ch.kvPending t.seq = true → exec (.attentionTaskReady e) s = .next (after s (ch.modEng e fun y => { y with st := .holding }))) ∧
    (∀ c, ch.kvPending t.seq = false → ch.taskCheck e p t = some c → exec (.attentionTaskReady e) s = .next (after s (ch.attnFault s.clk e c t.seq))) ∧
    (ch.kvPending t.seq = false → ch.taskCheck e p t = none → let ch := ch.modEng e fun y => { y with st := .running }
      (g.waitDone = true ∨ t.wn = 0 → exec (.attentionTaskReady e) s = .next (after s ((ch.modEng e fun y => { y with waitDone := true }).taskBegin s.clk e p t))) ∧
      (g.waitDone = false → t.wn ≠ 0 → t.wn ≤ look 0 (ch.rg e).sems t.wsem → exec (.attentionTaskReady e) s = .next (after s
        (((ch.modRg e fun r => { r with sems := upd 0 r.sems t.wsem (· - t.wn) }).modEng e fun y => { y with waitDone := true }).taskBegin s.clk e p t))) ∧
      (g.waitDone = false → t.wn ≠ 0 → look 0 (ch.rg e).sems t.wsem < t.wn → exec (.attentionTaskReady e) s = .next (after s ch))))

/-- ATTENTION_TASK_COMPLETE: with no task past its wait, or requests of it outstanding, nothing changes; else the outputs are at their destination, every changed list is
committed, the evictions are counted, the signal is on its way, and the engine goes on. -/
def taskCompleteRow : Prop := ∀ s e, let g := (s.chip.rg e).eng
  (g.work = none → exec (.attentionTaskComplete e) s = .next s) ∧
  (∀ w p, g.work = some w → g.part = some p → w.reqs ≠ [] → exec (.attentionTaskComplete e) s = .next s) ∧
  (∀ w p, g.work = some w → g.part = some p → g.st = .running → g.parked = false → w.reqs = [] → let t := w.task
    s.chip.attnDest p t ((w.outs.map fun o => o.2.length).sum) = none →
    (w.lists.any fun l => (s.chip.rangeFault p ((s.chip.sq t.seq).tableDva l.1 (optBool !((s.chip.sq t.seq).list l.1).active)) (s.chip.sq t.seq).tsz true).isSome) = false →
    (w.lists.any fun l => (s.chip.firstLost p ((s.chip.sq t.seq).tableDva l.1 (optBool !((s.chip.sq t.seq).list l.1).active)) (32 + 16 * l.2.blocks.length) true).isSome) = false →
    let done := (w.lists.foldl (fun c l => c.commitList s.clk t.seq l.1 l.2) (w.outs.foldl (fun c o => c.writeOuts s.clk p t o.2) s.chip)).modEng e fun y =>
      { y with evict := satTo 0xFFFFFFFF (y.evict + w.evicted) }
    exec (.attentionTaskComplete e) s = .next (after s ((if t.sn = 0 then done else
      done.modRg e fun r => { r with sigFlight := r.sigFlight ++ [(t.ssem, t.sn, s.clk.localNs + ceilDiv (3 * done.period (dieOfRegion e)) 42)] }).engineNext s.clk e)))

/-! ### Tiers, sectors, zeroing and DRAM (spec/07_tiers_translation.md R226 to R236; spec/08_dram_flash.md R244 to R263) -/

/-- LIFT_COMPLETE: a page whose 16 sectors are written is read from its frame from then on; before that nothing changes. -/
def liftRow : Prop := ∀ s i, let e := s.chip.led i
  (e.st = .lifting → e.sectors.length = 16 →
    exec (.liftComplete i) s = .next (after s ((s.chip.modLed i fun x => { x with st := .hbm }).pteTo e.part e.dpage (some e.frame)))) ∧
  (e.st ≠ .lifting ∨ e.sectors.length ≠ 16 → exec (.liftComplete i) s = .next s)

/-- DROP_COMPLETE: a DROPPING page with no request in flight is FLASH and its frame is back; the lift held on it, then the other held lifts
of the partition, are tried. -/
def dropRow : Prop := ∀ s i, let e := s.chip.led i
  (e.st = .dropping → e.inflight = 0 → let ch := (s.chip.modLed i fun x => { x with st := .flash, frame := 0 }).poolReturn e.part i e.frame
    exec (.dropComplete i) s = .next (after s
      (((if e.liftHeld then [i] else []) ++ (ch.pagesIn e.part .flash true).filter (· ≠ i)).foldl (fun c j => c.heldLift e.part j) ch))) ∧
  (e.st ≠ .dropping ∨ e.inflight ≠ 0 → exec (.dropComplete i) s = .next s)

/-- FLASH_SECTOR_READ_COMPLETE of a page slot: a lift or a stream request takes a sector that is in service and in its place; an uncorrectable
one, as one out of service or out of place is read, is counted and makes its page suspect. Where no page is, nothing changes. -/
def sectorReadRow : Prop := ∀ s slot sector,
  (∀ o, 16 ≤ sector ∨ (slot < otherSlot ∧ s.chip.slotPage slot = none) → exec (.flashSectorReadComplete slot sector o) s = .next s) ∧
  (∀ i, sector < 16 → slot < otherSlot → s.chip.slotPage slot = some i →
    (∀ j e n, s.chip.sectorReqs slot sector = [] → s.chip.flash.readable slot sector = true → s.chip.sectorLift slot sector = some (j, e) →
      n ≤ s.chip.flash.threshold → let ch := { s.chip with flash := { s.chip.flash with report := some (slot, sector, .hard n) } }
      exec (.flashSectorReadComplete slot sector (.hard n)) s = .next (after s
        ((ch.writePhys s.clk (e.frame * 65536 + sector * 4096) (s.chip.flash.sector slot sector)).modLed j fun x => { x with sectors := x.sectors ++ [sector] }))) ∧
    (∀ x n, s.chip.sectorReqs slot sector = [x] → s.chip.roomFor x.1 x.2.1 x.2.2 = true → s.chip.flash.readable slot sector = true →
      s.chip.sectorLift slot sector = none → 1 ≤ n → n ≤ 7 →
      exec (.flashSectorReadComplete slot sector (.soft n)) s = .next (after s ((s.chip.countSector slot sector (.soft n)).reqDoneAt s.clk x.1 x.2.1 x.2.2
        (some (slice (s.chip.flash.sector slot sector) (x.2.2.dva % 4096) x.2.2.len))))) ∧
    (∀ o, s.chip.sectorReqs slot sector = [] → o = .uncorrectable ∨ s.chip.flash.readable slot sector = false →
      exec (.flashSectorReadComplete slot sector o) s = .next (after s ((s.chip.countSector slot sector .uncorrectable).setSuspect i))))

/-- FLASH_SECTOR_READ_COMPLETE outside the page slots: what is there is counted, and lost when the sector is uncorrectable. -/
def otherSectorRow : Prop := ∀ s slot sector o, sector < 16 → otherSlot ≤ slot →
  (s.chip.flash.hasOther (slot - otherSlot) = false → exec (.flashSectorReadComplete slot sector o) s = .next s) ∧
  (s.chip.flash.hasOther (slot - otherSlot) = true → let ch := s.chip.countSector slot sector o
    exec (.flashSectorReadComplete slot sector o) s = .next (after s
      (if o = .uncorrectable then { ch with flash := ch.flash.losesOther (slot - otherSlot) } else ch)))

/-- A sector read whose corrections pass the threshold asks for one rewrite; soft corrections and uncorrectable sectors are counted. -/
def sectorCounts : Prop := ∀ (ch : Chip) slot sector, let f := ch.flash
  (∀ n, f.threshold < n → (slot, sector) ∉ f.rewrites → (ch.countSector slot sector (.hard n)).flash.rewrites = f.rewrites ++ [(slot, sector)]) ∧
  (∀ n, n ≤ f.threshold → ch.countSector slot sector (.hard n) = { ch with flash := { f with report := some (slot, sector, .hard n) } }) ∧
  (∀ o, (ch.countSector slot sector o).flash.report = some (slot, sector, o)) ∧
  (∀ n, (ch.countSector slot sector (.soft n)).flash.soft = satTo 0xFFFFFFFF (f.soft + 1)) ∧
  (ch.countSector slot sector .uncorrectable).flash.ue = satTo 0xFFFF (f.ue + 1)

/-- SECTOR_REFRESH_REWRITE_COMPLETE: a rewrite that is due is done, counted and worn, under the next write sequence; one that is not changes
nothing. -/
def rewriteRow : Prop := ∀ s slot sector, let f := s.chip.flash
  ((slot, sector) ∈ f.rewrites → exec (.sectorRefreshRewriteComplete slot sector) s = .next (after s (({ s.chip with
    flash := { f with rewrites := f.rewrites.filter (· ≠ (slot, sector)), rewritten := satTo 0xFFFFFFFF (f.rewritten + 1),
                      heads := if slot < otherSlot then upd {} f.heads (slot * 16 + sector) fun h => { h with seq := f.written + 1 } else f.heads } } :
    Chip).flashWrote s.clk 1))) ∧
  ((slot, sector) ∉ f.rewrites → exec (.sectorRefreshRewriteComplete slot sector) s = .next s)

/-- FRAME_ZEROED: a frame under zeroing, for which the engine has a position of its stack, is free, or retired when it is marked; its bytes
read 0 and its errors are gone. Any other frame is left. -/
def zeroedRow : Prop := ∀ s f,
  (∀ p t, (s.chip.fr f).use = .zeroing p t →
    (s.chip.mayZero s.clk (stackOfFrame f) p t = true → (s.chip.fr f).marked = false →
      exec (.frameZeroed f) s = .next (after s
        (((s.chip.zeroFrame f).modFr f fun x => { x with use := if x.marked then .retired else .free, ces := [] }).zeroPositions (stackOfFrame f)))) ∧
    (s.chip.mayZero s.clk (stackOfFrame f) p t = true → (s.chip.fr f).marked = true → let ch := { s.chip with boot := { s.chip.boot with retireDirty := true } }
      exec (.frameZeroed f) s = .next (after s
        (((ch.zeroFrame f).modFr f fun x => { x with use := if x.marked then .retired else .free, ces := [] }).zeroPositions (stackOfFrame f)))) ∧
    (s.chip.mayZero s.clk (stackOfFrame f) p t = false → exec (.frameZeroed f) s = .next s)) ∧
  ((∀ p t, (s.chip.fr f).use ≠ .zeroing p t) → exec (.frameZeroed f) s = .next s)

/-- Every byte of a zeroed frame reads 0 and every byte of another frame reads as before. -/
def zeroedBytes : Prop := ∀ (ch : Chip) f a,
  look 0 (ch.zeroFrame f).hbm a = if a / 65536 = f then 0 else look 0 ch.hbm a

/-- HBM_REFRESH_DUE: a group's due time, once, is met: with postponing enabled on a stack of one partition, a request at risk and less owed
than the limit, the refresh is owed; else it is made, and closes the group's rows. A due time that was met, or an operand that names no
group of a stack that refreshes, changes nothing. -/
def refreshRow : Prop := ∀ s st pch g, let x := s.chip.sk st; let key := groupKey pch g
  (lastDue (s.chip.refInterval st) g s.clk.timebase = none → exec (.hbmRefreshDue st pch g) s = .next s) ∧
  (∀ t, lastDue (s.chip.refInterval st) g s.clk.timebase = some t →
    (s.chip.refreshes st = false ∨ 32 ≤ pch ∨ 12 ≤ g ∨ t < look 0 x.refAt key → exec (.hbmRefreshDue st pch g) s = .next s) ∧
    (s.chip.refreshes st = true → pch < 32 → g < 12 → look 0 x.refAt key ≤ t →
      let ch := s.chip.modSk st fun y => { y with refAt := put 0 y.refAt key (t + 1) }
      let may := (ch.sk st).postEn && !ch.stackShared st && ch.atRisk s.clk st pch g && decide (look 0 (ch.sk st).owed key < ch.owedLimit st)
      (may = true → exec (.hbmRefreshDue st pch g) s = .next (after s (ch.modSk st fun y =>
        { y with owed := put 0 y.owed key (look 0 x.owed key + 1), owedPeak := max y.owedPeak (look 0 x.owed key + 1) }))) ∧
      (may = false → exec (.hbmRefreshDue st pch g) s = .next (after s (ch.modSk st fun y => y.closeGroup pch g)))))

/-- REFRESH_MAKEUP_BURST: a group with no request at risk makes up all it owes; above 85 °C one at risk makes up what it owes over 4; one that
owes nothing, or may still wait, changes nothing. -/
def makeupRow : Prop := ∀ s st pch g, let n := look 0 (s.chip.sk st).owed (groupKey pch g)
  let left_ := fun m => s.chip.modSk st fun y => { y.closeGroup pch g with owed := put 0 y.owed (groupKey pch g) m, makeups := satTo 0xFFFF (y.makeups + 1) }
  (n = 0 ∨ s.chip.refreshes st = false → exec (.refreshMakeupBurst st pch g) s = .next s) ∧
  (n ≠ 0 → s.chip.refreshes st = true → s.chip.atRisk s.clk st pch g = false → exec (.refreshMakeupBurst st pch g) s = .next (after s (left_ 0))) ∧
  (n ≠ 0 → s.chip.refreshes st = true → s.chip.atRisk s.clk st pch g = true → s.chip.stackHot st = true → 4 < n →
    exec (.refreshMakeupBurst st pch g) s = .next (after s (left_ 4))) ∧
  (n ≠ 0 → s.chip.atRisk s.clk st pch g = true → s.chip.stackHot st = false ∨ n ≤ 4 → exec (.refreshMakeupBurst st pch g) s = .next s)

/-- MAINTENANCE_WINDOW: a pseudo-channel's window begins where its grid places one; in it the patrol reads its next chunk once that is due,
and goes on. Where no window begins nothing changes. -/
def maintenanceRow : Prop := ∀ s st pch,
  ((s.chip.sk st).newWindow s.clk pch = none ∨ s.chip.refreshes st = false ∨ 32 ≤ pch → exec (.maintenanceWindow st pch) s = .next s) ∧
  (∀ t, (s.chip.sk st).newWindow s.clk pch = some t → s.chip.refreshes st = true → pch < 32 →
    let ch := s.chip.modSk st fun y => { y with windows := put 0 y.windows pch (t + 1) }; let x := ch.sk st
    (x.patrol % 32 ≠ pch ∨ s.clk.localNs < x.patrolDue → exec (.maintenanceWindow st pch) s = .next (after s ch)) ∧
    (x.patrol % 32 = pch → x.patrolDue ≤ s.clk.localNs →
      exec (.maintenanceWindow st pch) s = .next (after s ((ch.patrolChunk s.clk (st * 2 ^ 35 + x.patrol * 512)).modSk st fun y =>
        if y.patrol + 1 < stackChunks then { y with patrol := y.patrol + 1 }
        else { y with patrol := 0, patrolFrom := y.patrolFrom + patrolDay, passes := satTo 0xFFFF (y.passes + 1) }))))

/-- DRIVE_STRENGTH_CALIBRATION: in a maintenance window, due 100 ms after the last; nothing but its instant changes. -/
def calibrationRow : Prop := ∀ s st, let inside := (List.range 32).any ((s.chip.sk st).inWindow s.clk)
  (s.chip.refreshes st = true → inside = true → (s.chip.sk st).calAt + 100000000 ≤ s.clk.localNs →
    exec (.driveStrengthCalibration st) s = .next (after s (s.chip.modSk st fun y => { y with calAt := s.clk.localNs }))) ∧
  (s.chip.refreshes st = false ∨ inside = false ∨ s.clk.localNs < (s.chip.sk st).calAt + 100000000 → exec (.driveStrengthCalibration st) s = .next s)

/-- HBM_POINT of a point whose delays are in the shadow registers is accepted, and the stack begins to change. -/
def hbmPointRow : Prop := ∀ s q, Taken s 0x0703 q → let st := beAt q.payload 0 1; let point := beAt q.payload 1 1; let x := (s.chip.sk st).loadShadow point
  st < 4 → point < 4 → Zero q 2 2 → x.shadow = some point → x.failed = false → x.selfRefresh = false → x.changing = none → WorksFit s q →
  exec (.hbmPoint q) s = .next (after s (taken s (s.chip.modSk st fun _ => { x with changing := some point }) q 0x0703 (.hbmPoint st point) []))

/-- HBM_POINT_CHANGE_COMPLETE: once no granted request waits for the stack it runs at the new point with its delays
written again, owes no refresh and has no row open; the command is done. -/
def pointDoneRow : Prop := ∀ s st,
  ((s.chip.sk st).changing = none → exec (.hbmPointChangeComplete st) s = .next s) ∧
  (∀ p, (s.chip.sk st).changing = some p →
    (s.chip.inFlightOn st = true → exec (.hbmPointChangeComplete st) s = .next s) ∧
    (s.chip.inFlightOn st = false → let ch := (s.chip.reloadDelays st).modSk st fun x => { x with point := p, setPoint := p, changing := none, shadow := none, owed := [], rows := [] }
      exec (.hbmPointChangeComplete st) s = .next (after s
        (match s.chip.works.find? fun w => decide (w.kind = .hbmPoint st p) with | some w => ch.complete s.clk w 0xE001 .ok [] | none => ch))))

/-! ### Power (spec/15_power_clocks_thermal.md R426 to R446) -/

/-- PWR_CAP: a cap of 45 W to 480 W is in force from the next boundary; a lower one is held at 45 W with CAP_CLAMPED; a higher one is refused. -/
def pwrCapRow : Prop := ∀ s q, Taken s 0x0701 q → let w := beAt q.payload 0 2
  (45 ≤ w → w ≤ 480 → Zero q 2 2 → exec (.pwrCap q) s = .next (after s (ok { s.chip with power := { s.chip.power with capNext := w } } q []))) ∧
  (w < 45 → Zero q 2 2 → exec (.pwrCap q) s = .next (after s ({ s.chip with power := { s.chip.power with capNext := 45 } }.reply q .capClamped []))) ∧
  (480 < w → exec (.pwrCap q) s = .next (after s (s.chip.refuse q (.badField, some 0))))

/-- PWR_QUERY replies the partition's power fields. -/
def pwrQueryRow : Prop := ∀ s q, Taken s 0x0702 q → exec (.pwrQuery q) s = .next (after s (ok s.chip q (s.chip.powerFields q.part)))

/-- POWER_SAMPLE with the rails on keeps the readings, counts the energy and follows the requests; with them off it changes nothing. -/
def powerSampleRow : Prop := ∀ s rails temps,
  (s.mod.st = .on → exec (.powerSample rails temps) s = .next { s with mod := s.mod.sample rails, chip := s.chip.powerSample s.clk temps }) ∧
  (s.mod.st ≠ .on → exec (.powerSample rails temps) s = .next s)

/-- LOOP_BOUNDARY at a new multiple of 1 ms: with nothing to park or unpark the cap commanded is in force, every die's thermal limit and every
partition's step are those of the rules, and every die aims at its operating point. -/
def loopBoundaryRow : Prop := ∀ s m, s.chip.ready = true →
  (s.clk.timebase / 1000000 ≤ s.chip.power.lastBoundary → exec (.loopBoundary m) s = .next s) ∧
  (s.chip.power.lastBoundary < s.clk.timebase / 1000000 →
    let len := max 1 (s.clk.localNs - s.chip.power.lastBoundaryLocal)
    let ch := s.chip.settleAll
    let preg := pregOf ch.power.capNext ch.fixedReserve
    let passed := decide (s.chip.power.cap * 10 < m)
    let ch := { ch with power := { ch.power with
      cap := ch.power.capNext, preg := preg, meanVin := satTo 0xFFFF m, overCap := ch.power.overCap || passed,
      overCount := if passed then satTo 0xFFFF (ch.power.overCount + 1) else ch.power.overCount, lastBoundary := s.clk.timebase / 1000000, lastBoundaryLocal := s.clk.localNs } }
    let ch := (List.range 4).foldl (fun c d => c.modDie d Die.thermal) ch
    let ch := (List.range 8).foldl (fun c p => if (c.pt p).valid then c.modPt p fun x => x.boundary preg len else c) ch
    ch.parkChoice = none → ch.unparkChoice = none →
    exec (.loopBoundary m) s = .next (after s ((List.range 4).foldl (fun c d => c.aimDie s.clk d) ch)))

/-- The ladder rule: above its allowance a partition goes to the highest step whose predicted power lies within it; within it, it never goes
down, and goes up only while the next step is predicted at most 0.9 of it. -/
def ladderRule : Prop := ∀ e a s0, s0 ≤ 22 →
  (a < e → ∀ k, nextStep e a s0 = some k → k ≤ 22 ∧ e * stepPower k ≤ a * stepPower s0 ∧ ∀ j, k < j → j ≤ 22 → a * stepPower s0 < e * stepPower j) ∧
  (a < e → nextStep e a s0 = none → ∀ j, j ≤ 22 → a * stepPower s0 < e * stepPower j) ∧
  (e ≤ a → ∃ k, nextStep e a s0 = some k ∧ s0 ≤ k ∧ k ≤ 22 ∧ (∀ j, s0 < j → j ≤ k → 10 * (e * stepPower j) ≤ 9 * (a * stepPower s0)) ∧
    (k < 22 → 9 * (a * stepPower s0) < 10 * (e * stepPower (k + 1))))

/-- OPP_SWITCH of a die with no target, or before its voltage stands, changes nothing; else the energy counted so far is settled, the die
runs at its target from the next edge on, 40 ns later, and a rise ends the transition. -/
def oppSwitchRow : Prop := ∀ s d, let x := s.chip.die d
  (x.target = none ∨ x.switchDone = true ∨ s.clk.localNs < x.switchAt → exec (.oppSwitch d) s = .next s) ∧
  (∀ o, x.target = some o → x.switchDone = false → x.switchAt ≤ s.clk.localNs → exec (.oppSwitch d) s = .next (after s
    (((s.chip.settle d).modDie d fun y =>
      let z := { y with opp := o, gap := true, switchDone := true, endAt := s.clk.localNs + 200 * (oppMv y.opp - oppMv o) }
      if y.opp < o then z.ended s.clk.localNs else z).redryDie s.clk d)))

/-- OPP_TRANSITION_END: a switch down is over once the voltage has ramped; before that nothing changes. -/
def oppEndRow : Prop := ∀ s d, let x := s.chip.die d
  (x.target ≠ none → x.switchDone = true → x.endAt ≤ s.clk.localNs → exec (.oppTransitionEnd d) s = .next (after s (s.chip.modDie d fun y => y.ended s.clk.localNs))) ∧
  (x.target = none ∨ x.switchDone = false ∨ s.clk.localNs < x.endAt → exec (.oppTransitionEnd d) s = .next s)

/-! ### Telemetry, events, time and the host ports (spec/13_host_protocol.md R377, R399; spec/15_power_clocks_thermal.md R447) -/

/-- TEL_SET of groups the partition may have. -/
def telSetRow : Prop := ∀ s q, Taken s 0x0801 q → let n := beAt q.payload 0 4; let m := beAt q.payload 4 4
  n ≤ 60000 → m < 64 → (q.part = 0 ∨ (bitAt m 2 = false ∧ bitAt m 5 = false)) →
  exec (.telSet q) s = .next (after s (ok (s.chip.modPt q.part fun x => { x with telPeriod := n, telMask := BitVec.ofNat 32 m, telLast := s.clk.localNs }) q []))

/-- TELEMETRY_PERIOD: a valid partition whose period has passed hears of the groups it chose; else nothing changes. -/
def telemetryRow : Prop := ∀ s p, let x := s.chip.pt p
  (x.valid = true → x.telPeriod ≠ 0 → x.telLast + x.telPeriod * 1000000 ≤ s.clk.localNs → let ch := s.chip.modPt p fun y => { y with telLast := s.clk.localNs }
    exec (.telemetryPeriod p) s = .next (after s (ch.raise s.clk p 0xE040 .ok 0
      (toBe x.telMask.toNat 4 ++ (List.range 6).flatMap fun g => if x.telMask.getLsbD g then s.chip.telGroup s.mod p g else [])))) ∧
  (x.valid = false ∨ x.telPeriod = 0 ∨ s.clk.localNs < x.telLast + x.telPeriod * 1000000 → exec (.telemetryPeriod p) s = .next s)

/-- EVT_ACK takes the events it names from the ring of the partition once every session they were sent in has acknowledged them. -/
def evtAckRow : Prop := ∀ s q, Taken s 0x0802 q → let n := beAt q.payload 0 2; let ids := (List.range n).map fun i => beAt q.payload (4 + 4 * i) 4
  Zero q 2 2 → n ≤ 256 → q.payload.length = 4 + 4 * n →
  exec (.evtAck q) s = .next (after s ((ok (s.chip.modPt q.part fun x => ids.foldl (fun y i => y.ack q.session i) x) q []).reportLost s.clk q.part))

/-- EVENT_RESEND: an event sent and not acknowledged goes again 1 ms after its last sending, up to 16 times more; else nothing changes. -/
def resendRow : Prop := ∀ s p n,
  (((s.chip.pt p).ring.find? fun e => e.id = n) = none → exec (.eventResend p n) s = .next s) ∧
  (∀ e, ((s.chip.pt p).ring.find? fun e => e.id = n) = some e →
    (e.due = [] ∨ 17 ≤ e.sends ∨ e.sends = 0 ∨ s.clk.localNs < e.last + 1000000 → exec (.eventResend p n) s = .next s) ∧
    (e.due ≠ [] → e.sends < 17 → e.sends ≠ 0 → e.last + 1000000 ≤ s.clk.localNs → exec (.eventResend p n) s = .next (after s
      (e.due.foldl (fun c d => c.send (.event d.1 d.2 e.ev))
        (s.chip.modPt p fun x => { x with ring := x.ring.map fun y => if y.id = n then { y with sends := y.sends + 1, last := s.clk.localNs } else y })))))

/-- TIME_SYNC_MESSAGE: a timebase behind by more than 1 ms steps forward to the grandmaster's; in every other case it stands and is slewed. -/
def timeSyncRow : Prop := ∀ s port g, let r := syncTo true port s.clk s.chip; let t := g % 2 ^ 64
  (s.clk.timebase + 1000000 < t → exec (.timeSyncMessage port g) s = .next { s with clk := { r.1 with timebase := t, slew := 0 }, chip := r.2 }) ∧
  (t ≤ s.clk.timebase + 1000000 → exec (.timeSyncMessage port g) s = .next { s with clk := { r.1 with slew := (t : Int) - s.clk.timebase }, chip := r.2 })

/-- TIME_SYNC_LOSS: the timebase goes on by itself with no slew; what was synchronised is in holdover and every partition hears of it. -/
def timeLossRow : Prop := ∀ s port, let r := syncTo false port s.clk s.chip
  exec (.timeSyncLoss false port) s = .next { s with clk := { r.1 with slew := 0 }, chip := r.2 } ∧
  exec (.timeSyncLoss true port) s = .next { s with clk := (syncTo true port s.clk s.chip).1, chip := (syncTo true port s.clk s.chip).2 }

/-- HOST_PORT_LINK_CHANGE: the port's link is as the operand says, and nothing else changes. -/
def linkChangeRow : Prop := ∀ s up, exec (.hostPortLinkChange 0 up) s = .next (after s { s.chip with host := { s.chip.host with link0 := up } }) ∧
  exec (.hostPortLinkChange 1 up) s = .next (after s { s.chip with host := { s.chip.host with link1 := up } })

/-! ### Checkpoints, dumps and flash (spec/16_faults_recovery.md R473 to R480; spec/08_dram_flash.md R263 to R265; spec/17_boot_configuration.md R491) -/

/-- CKPT_WRITE and CKPT_READ of ranges the partition may read, or write, are accepted. -/
def ckptRows : Prop := ∀ s q, WorksFit s q → let c := ckptReq q.payload
  Zero q 4 4 → c.dva % 65536 = 0 → c.len % 65536 = 0 → c.len ≤ 2 ^ 40 → (s.chip.pt q.part).ckptKey ≠ none →
  (Taken s 0x0902 q → c.denied (s.chip.pt q.part) false = false → s.chip.power.flashHold = false → s.chip.flash.wear < 100 →
    exec (.ckptWrite q) s = .next (after s (taken s s.chip q 0x0902 (.ckptWrite c.id c.dva c.len) []))) ∧
  (Taken s 0x0903 q → c.denied (s.chip.pt q.part) true = false → s.chip.flash.ckpt? q.part c.id ≠ none →
    exec (.ckptRead q) s = .next (after s (taken s s.chip q 0x0903 (.ckptRead c.id c.dva c.len) [])))

/-- CKPT_TRANSFER_COMPLETE, once no earlier command is in its way and its range is served: a range written is in flash, sealed under the
partition's checkpoint key, in place of an older one of its number; worn flash takes none; one read back is in memory, or free bytes and
AUTH_FAILED when it does not open. -/
def ckptDoneRow : Prop := ∀ s id w, s.chip.work? id = some w →
  (∀ i dva len, w.kind = .ckptWrite i dva len ∨ w.kind = .ckptRead i dva len → s.chip.workEarlier w = true ∨ s.chip.rangeServes w.part dva len = false →
    exec (.ckptTransferComplete id) s = .next s) ∧
  (s.chip.workEarlier w = false →
  (∀ i dva len key plain, w.kind = .ckptWrite i dva len → s.chip.rangeServes w.part dva len = true → (s.chip.pt w.part).ckptKey = some key →
    (100 ≤ s.chip.flash.wear → exec (.ckptTransferComplete id) s = .next (after s (s.chip.complete s.clk w 0xE001 .noResource []))) ∧
    (s.chip.flash.wear < 100 → s.chip.readServed w.part dva len = .ok plain →
    s.chip.firstLost w.part dva len false = none → let nonce := Config.random s.chip.sec.randoms 12
    let x : FlashCkpt := { part := w.part, id := i, len := len, sealed := nonce ++ Config.gcmSeal key nonce (ckptAad w.part i) plain, good := true }
    let ch := (s.chip.touchDva s.clk w.part dva len).flashWrote s.clk (ceilDiv len 4096)
    exec (.ckptTransferComplete id) s = .next (after s
      ({ ch with sec := { ch.sec with randoms := ch.sec.randoms + 1 }, flash := { ch.flash with ckpts := (s.chip.flash.ckpts.filter fun (y : FlashCkpt) => !(decide (y.part = w.part) && decide (y.id = i))) ++ [x] } }.complete
        s.clk w 0xE001 .ok [])))) ∧
  (∀ i dva len key x, w.kind = .ckptRead i dva len → s.chip.rangeServes w.part dva len = true →
    s.chip.flash.ckpt? w.part i = some x → (s.chip.pt w.part).ckptKey = some key → x.good = true → x.len = len →
    exec (.ckptTransferComplete id) s = .next (after s
      (match Config.gcmOpen key (x.sealed.take 12) (ckptAad w.part i) (x.sealed.drop 12) with
       | some bytes => (s.chip.writeDva s.clk w.part dva (bytes.take len)).complete s.clk w 0xE001 .ok []
       | none => ((s.chip.freeBytes len).2.writeDva s.clk w.part dva (s.chip.freeBytes len).1).complete s.clk w 0xE001 .authFailed []))))

/-- DUMP_READ replies bytes of the partition's dump area, or, for the management partition, of the device's. -/
def dumpReadRow : Prop := ∀ s q, Taken s 0x0904 q → let b := q.payload; let off := beAt b 4 4; let n := beAt b 8 4; let x := s.chip.pt q.part
  Zero q 1 3 → n ≤ s.chip.maxPayload q.port →
  (beAt b 0 1 = 1 → q.part = 0 → off + n ≤ mgmtAreaSize → exec (.dumpRead q) s = .next (after s (ok s.chip q (readBytes s.chip.rcv.mgmtArea off n)))) ∧
  (beAt b 0 1 = 0 → off + n ≤ x.dumpLen * 65536 → x.rangeBad (x.dumpDva + off) n false = false → s.chip.firstLost q.part (x.dumpDva + off) n false = none →
    exec (.dumpRead q) s = .next (after s (ok (s.chip.touchDva s.clk q.part (x.dumpDva + off) n) q (s.chip.readDva q.part (x.dumpDva + off) n))))

/-- FLASH_UPDATE stages a chunk; the chunk that completes the image is accepted and the image's check begins. -/
def flashUpdateRow : Prop := ∀ s q, Taken s 0x0905 q → Clear (updateChecks q s.chip) → let b := q.payload
  let buf := (if beAt b 4 4 = 0 then [] else s.chip.flash.updBuf) ++ b.drop 16; let total := beAt b 8 4
  (buf.length ≠ total → exec (.flashUpdate q) s = .next (after s (ok { s.chip with flash := { s.chip.flash with updBuf := buf, updTotal := total, writing := none } } q []))) ∧
  (buf.length = total → WorksFit s q → exec (.flashUpdate q) s = .next (after s (taken s
    { s.chip with flash := { s.chip.flash with updBuf := buf, updTotal := total, writing := some s.chip.nextWork } } q 0x0905 (.flashImage (beAt b 0 2)) [])))

/-- FLASH_WRITE_COMPLETE of an update: an image that verifies and is in form is written, firmware to both copies and a record to the copy not in
use; one that does not verify leaves flash as it was and the completion says AUTH_FAILED. -/
def flashDoneRow : Prop := ∀ s id w type, s.chip.work? id = some w → w.kind = .flashImage type →
  let bs := s.chip.flash.updBuf; let ident := if s.chip.sec.idOk then some s.chip.sec.idPub else none
  let ch : Chip := { s.chip with flash := { s.chip.flash with writing := none, updBuf := [], updTotal := 0 } }
  exec (.flashWriteComplete id) s = .next (after s
    (match recKey type s.chip.boot.owner ident with
     | none => ch.complete s.clk w 0xE001 .authFailed []
     | some key =>
       if recSigned key bs = false then ch.complete s.clk w 0xE001 .authFailed []
       else if recGood type s.chip.boot.owner ident bs = false then ch.complete s.clk w 0xE001 .badField []
       else { ch with flash := if type = 0 then (ch.flash.setCopy 0 true bs).setCopy 0 false bs else ch.flash.setCopy type (!s.chip.boot.inB.getLsbD type) bs }.complete s.clk w 0xE001 .ok []))

/-- REPAIR_RECORD_WRITE: with nothing gathered, or before the device is ready, nothing is written. -/
def repairWriteRow : Prop := ∀ s,
  (s.chip.ready = false → exec .repairRecordWrite s = .next s) ∧
  (s.chip.ready = true → s.chip.boot.repairDirty = true → s.chip.boot.retireDirty = false → exec .repairRecordWrite s = .next (after s
    (let ch := s.chip.writeOwn 11 s.chip.repairBody; { ch with boot := { ch.boot with repairDirty := false, retireDirty := false } })))

/-! ### The module's pins and the sideband (spec/18_module.md R499 to R511) -/

/-- The module with its pins changed, the block as it was. -/
def pins (s : State) (m : ModulePins) : State := { s with mod := m }

/-- The module with its pins and the block changed. -/
def both (s : State) (m : ModulePins) (ch : Chip) : State := { s with mod := m, chip := ch }

/-- The block as a rise of PWR_EN lets it start boot: cleared, at step 1. -/
def coldStart (s : State) : Chip := { s.chip.cleared with boot := { phase := 0, cold := true, startNs := s.clk.localNs } }

/-- PWR_EN_RISE with VAUX, VIN in range, no hold running and the rails off starts boot at step 1 of a cold block; during trip-hold or without VAUX
it starts nothing; a line that is high cannot rise. -/
def pwrRiseRow : Prop := ∀ s,
  (s.mod.pwrEn = false → s.mod.vaux = true → s.mod.st = .off → s.mod.offHoldEnd = none → vinInRange s.mod.vinVolts = true →
    exec .pwrEnRise s = .next (both s { s.mod with pwrEn := true, armed := false, st := .sequencing } (coldStart s))) ∧
  (s.mod.pwrEn = false → s.mod.st = .tripHold ∨ s.mod.vaux = false → exec .pwrEnRise s = .next (pins s { s.mod with pwrEn := true, armed := false })) ∧
  (s.mod.pwrEn = true → exec .pwrEnRise s = .next s)

/-- PWR_EN_FALL with the rails up takes them down, lets THERMTRIP_N rise, begins the hold of 500 ms and clears all but what needs no power;
trip-hold stays; a line that is low cannot fall. -/
def pwrFallRow : Prop := ∀ s,
  (s.mod.pwrEn = true → s.mod.powered = true → exec .pwrEnFall s = .next (both s
    { s.mod.downTo .off with pwrEn := false, thermtripN := true, offHoldEnd := some (s.clk.localNs + 500000000) } s.chip.cleared)) ∧
  (s.mod.pwrEn = true → s.mod.st = .tripHold → exec .pwrEnFall s = .next (pins s { s.mod.downTo .tripHold with
    pwrEn := false, thermtripN := true, offHoldEnd := some (s.clk.localNs + 500000000) })) ∧
  (s.mod.pwrEn = false → exec .pwrEnFall s = .next s)

/-- POWER_OFF_HOLD_END before the hold has run changes nothing; after it, a PWR_EN that has risen meanwhile starts boot. -/
def offHoldRow : Prop := ∀ s,
  (s.mod.offHoldEnd = none → exec .powerOffHoldEnd s = .next s) ∧
  (∀ t, s.mod.offHoldEnd = some t →
    (s.clk.localNs < t → exec .powerOffHoldEnd s = .next s) ∧
    (t ≤ s.clk.localNs → s.mod.armed = false → exec .powerOffHoldEnd s = .next (pins s { s.mod with offHoldEnd := none })) ∧
    (t ≤ s.clk.localNs → s.mod.vaux = true → s.mod.pwrEn = true → s.mod.armed = true → s.mod.st = .off → vinInRange s.mod.vinVolts = true →
      exec .powerOffHoldEnd s = .next (both s { s.mod with offHoldEnd := none, st := .sequencing, armed := false } (coldStart s))))

/-- VIN_ENTERS_RANGE: a voltage of 36 V to 60 V is kept, and starts a boot that waited for it; another changes nothing. -/
def vinRangeRow : Prop := ∀ s v,
  (vinInRange v = false → exec (.vinEntersRange v) s = .next s) ∧
  (vinInRange v = true → s.mod.armed = false → exec (.vinEntersRange v) s = .next (pins s { s.mod with vinVolts := v })) ∧
  (vinInRange v = true → s.mod.vaux = true → s.mod.pwrEn = true → s.mod.armed = true → s.mod.st = .off → s.mod.offHoldEnd = none →
    exec (.vinEntersRange v) s = .next (both s { s.mod with vinVolts := v, st := .sequencing, armed := false } (coldStart s)))

/-- VIN_LOCKOUT: below 33.0 V for more than 100 µs, or above 62.0 V for more than 1 ms, the rails go down with their flag and ALERT_N follows; a
shorter excursion leaves them up. -/
def lockoutRow : Prop := ∀ s v t,
  (s.mod.powered = true → v < 3300 → 100000 < t → exec (.vinLockout v t) s = .next (both s { s.mod.downTo .faultOff with uvlo := true, vinVolts := v } s.chip.cleared)) ∧
  (s.mod.powered = true → 6200 < v → 1000000 < t → exec (.vinLockout v t) s = .next (both s { s.mod.downTo .faultOff with ovlo := true, vinVolts := v } s.chip.cleared)) ∧
  ((3300 ≤ v ∨ t ≤ 100000) → (v ≤ 6200 ∨ t ≤ 1000000) → exec (.vinLockout v t) s = .next (pins s { s.mod with vinVolts := v }))

/-- VAUX_CHANGE: VAUX applied changes only itself; without it the power controller holds nothing, and the rails stay as they are. -/
def vauxRow : Prop := ∀ s, exec (.vauxChange true) s = .next (pins s { s.mod with vaux := true }) ∧
  exec (.vauxChange false) s = .next (pins s s.mod.noAux)

/-- THERMAL_TRIP at 115 °C or more with the rails up: THERMTRIP_N goes low, the rails drop, trip-hold runs for 10 s, and the record and count of
trips are kept; below that, or with the rails down, nothing changes. -/
def tripRow : Prop := ∀ s n t,
  (s.mod.powered = true → n < 40 → 115 ≤ t → exec (.thermalTrip n t) s = .next (both s
    { s.mod.downTo .tripHold with thermtripN := false, trip := true, tripHoldEnd := some (s.clk.localNs + 10000000000), tripTemp := t, tripSensor := n,
                                  tripCount := satTo 0xFFFF (s.mod.tripCount + 1), tripReported := false }
    (s.chip.announceTrip s.clk n).cleared)) ∧
  (s.mod.powered = false ∨ 40 ≤ n ∨ t < 115 → exec (.thermalTrip n t) s = .next s)

/-- TRIP_HOLD_END 10 s after a trip: the module is off and a PWR_EN that is high starts nothing; before that nothing changes. -/
def tripEndRow : Prop := ∀ s t, s.mod.tripHoldEnd = some t →
  (s.clk.localNs < t → exec .tripHoldEnd s = .next s) ∧
  (t ≤ s.clk.localNs → s.mod.st = .tripHold → exec .tripHoldEnd s = .next (pins s { s.mod with st := .off, tripHoldEnd := none }))

/-- RESET_N low for 10 µs or more with the rails up resets the package; shorter it has no effect; released, boot may go on. -/
def resetNRow : Prop := ∀ s t,
  (t < 10000 → exec (.resetNAssert t) s = .next s) ∧
  (10000 ≤ t → s.mod.pwrEn = true → s.mod.st = .on → exec (.resetNAssert t) s = .next { s with
    clk := s.clk.afterReset, mod := { s.mod with resetN := false }, chip := s.chip.packageReset s.clk 0 0 }) ∧
  (10000 ≤ t → s.mod.pwrEn = false ∨ s.mod.st ≠ .on → exec (.resetNAssert t) s = .next (pins s { s.mod with resetN := false })) ∧
  exec .resetNRelease s = .next (pins s { s.mod with resetN := true })

/-- SMBUS_WRITE of the status register with a right PEC clears the flags written as 1; every other write changes nothing. -/
def smbusRow : Prop := ∀ s v,
  (s.mod.vaux = true → exec (.smbusWrite 0 v true) s = .next (pins s { s.mod with
    pcReq := s.mod.pcReq && !v.getLsbD 28, trip := s.mod.trip && !v.getLsbD 27, uvlo := s.mod.uvlo && !v.getLsbD 26, ovlo := s.mod.ovlo && !v.getLsbD 25,
    railFail := s.mod.railFail && !v.getLsbD 24 })) ∧
  (∀ c ok, s.mod.vaux = false ∨ ok = false ∨ c ≠ 0 → exec (.smbusWrite c v ok) s = .next s)

/-- SMBUS_ALERT_RESPONSE: while ALERT_N is low the module answers with its own address, and its state is unchanged; else it does not answer. -/
def alertRow : Prop := ∀ s,
  (s.mod.vaux = true → s.mod.alert = true → exec .smbusAlertResponse s = .next (after s (s.chip.send (.alertAddress (0x28 + s.mod.sbAddr.toNat))))) ∧
  (s.mod.vaux = false ∨ s.mod.alert = false → exec .smbusAlertResponse s = .next s)

/-- DEBUG_SCAN_ACCESS: with the port closed only boundary scan is served; a scan served changes only the answer on the wire and the count of
free values. -/
def scanRow : Prop := ∀ s boundary tdi,
  (s.mod.powered = true → boundary = true ∨ s.chip.sec.dbgOpen = true → ∃ bits : List Bool, bits.length = tdi.length ∧
    exec (.debugScanAccess boundary tdi) s = .next (after s { s.chip with free := s.chip.free + tdi.length, wire := s.chip.wire ++ [.scanOut bits] })) ∧
  (s.mod.powered = false ∨ (boundary = false ∧ s.chip.sec.dbgOpen = false) → exec (.debugScanAccess boundary tdi) s = .next s)

/-! ### Boot (spec/17_boot_configuration.md R486 to R494) -/

/-- BOOT_SEQUENCE: rails that fail leave the module in fault-off with rail_fail; with RESET_N low boot waits at step 2; else steps 2 to 9 run; with
the rails off, or once boot is past, it changes nothing. -/
def bootRow : Prop := ∀ s r,
  (s.mod.st = .sequencing → r.railsOk = false → exec (.bootSequence r) s = .next { s with mod := { s.mod.downTo .faultOff with railFail := true }, chip := s.chip.cleared }) ∧
  ((s.mod.st = .sequencing ∧ r.railsOk = true) ∨ (s.mod.st = .on ∧ s.chip.boot.phase = 1) → s.mod.resetN = false →
    exec (.bootSequence r) s = .next { s with mod := { s.mod with st := .on, rails := true }, chip := { s.chip with boot := { s.chip.boot with phase := 1 } } }) ∧
  ((s.mod.st = .sequencing ∧ r.railsOk = true) ∨ (s.mod.st = .on ∧ s.chip.boot.phase = 1) → s.mod.resetN = true →
    let c := s.chip.bootRest s.clk { s.mod with st := .on, rails := true } r
    exec (.bootSequence r) s = .next { s with mod := { s.mod with st := .on, rails := true, tripReported := s.mod.tripReported || c.sec.idOk }, chip := c }) ∧
  (s.mod.st ≠ .sequencing → s.mod.st ≠ .on ∨ s.chip.boot.phase ≠ 1 → exec (.bootSequence r) s = .next s)

/-- Boot with no identity ends in recovery mode with cause 3, with no firmware with cause 1, with a record type missing with cause 2. -/
def recoveryCause : Prop := ∀ b : BootFind,
  (b.sec.idOk = false → b.cause = 3) ∧ (b.sec.idOk = true → b.pick 0 = none → b.cause = 1) ∧
  (b.sec.idOk = true → b.pick 0 ≠ none → (b.picks.any Option.isNone) = true → b.cause = 2) ∧
  (b.sec.idOk = true → b.pick 0 ≠ none → (b.picks.any Option.isNone) = false → b.cause = 0)

/-- BOOT_READY: once BIST and the stacks are done and a host port is up the device is ready, with every region's lcids mapped; before that
nothing changes. -/
def bootReadyRow : Prop := ∀ s, let may := decide (s.mod.st = .on) && decide (s.chip.boot.phase = 5) && s.chip.boot.bistDone && s.chip.boot.hbmDone && (s.chip.host.link0 || s.chip.host.link1)
  (may = true → exec .bootReady s = .next (after s (s.chip.becomeReady s.clk))) ∧ (may = false → exec .bootReady s = .next s)

/-! ### The fabric's ports and links (spec/14_fabric.md R401 to R410, R416) -/

/-- PORT_BRING_UP: a training port with lock measures and one without fails with cause 1; loss, correctable codewords and length in bounds lead a
measuring port to the hello exchange, with its own hello sent, else it fails with the cause of the step; an exchange without a hello for 5 ms fails with
cause 5; any other port is left. -/
def bringUpRow : Prop := ∀ s p m, let x := s.chip.prt p
  (x.st = .training → exec (.portBringUp p m) s = .next (after s (s.chip.modPort p fun y =>
    if m.lock then { y with st := .measuring, cause := 0 } else { y with st := .failed, cause := 1, failedAt := s.clk.localNs }))) ∧
  (x.st = .measuring → let y := { x with loss := satTo 511 m.loss, length := satTo 255 ((m.medianRtt - 310) / 10) }
    exec (.portBringUp p m) s = .next (after s (match linkBad m with
      | some c => s.chip.modPort p fun _ => { y with st := .failed, cause := c, failedAt := s.clk.localNs }
      | none => (s.chip.modPort p fun _ => { y with st := .hello, cause := 0, helloAt := s.clk.localNs }).send (.hello p s.chip.ownHello)))) ∧
  (x.st = .hello → x.helloAt + 5000000 ≤ s.clk.localNs →
    exec (.portBringUp p m) s = .next (after s (s.chip.modPort p fun y => { y with st := .failed, cause := 5, failedAt := s.clk.localNs }))) ∧
  (x.st = .hello → s.clk.localNs < x.helloAt + 5000000 → exec (.portBringUp p m) s = .next s) ∧
  (x.st ≠ .training → x.st ≠ .measuring → x.st ≠ .hello → exec (.portBringUp p m) s = .next s)

/-- PORT_BRING_UP_RETRY: a failed, enabled port with a cable trains again 1 s after it failed; any other is left. -/
def retryRow : Prop := ∀ s p, let x := s.chip.prt p
  (x.st = .failed → s.chip.portEnabled p = true → x.cable = true → x.failedAt + 1000000000 ≤ s.clk.localNs →
    exec (.portBringUpRetry p) s = .next (after s (s.chip.modPort p fun x => { x with st := .training, cause := 0 }))) ∧
  (x.st ≠ .failed ∨ s.chip.portEnabled p = false ∨ x.cable = false ∨ s.clk.localNs < x.failedAt + 1000000000 → exec (.portBringUpRetry p) s = .next s)

/-- HELLO at a port in the exchange: one of this shape from the device its direction leads to, signed by its own key, brings the port up and its
epoch is learned; any other fails the port with cause 5. -/
def helloRow : Prop := ∀ s p h, let f := s.chip.fabric
  ((s.chip.prt p).st = .hello →
    exec (.hello p h) s = .next (after s
      (if (Config.ed25519Verify h.idPub (helloSigned h) h.sig && decide (h.xs = f.xs) && decide (h.ys = f.ys) && decide (h.zs = f.zs) && decide (h.self = f.partnerOf p)) = true then
        let ch := s.chip.modPort p fun x =>
          { x with st := .up, cause := 0, partner := h.self, partnerPub := h.idPub, txHseq := 0, rxHseq := 0, replay := [], ueTimes := [],
                   lastCtl := s.clk.localNs, creditAt := [(0, s.clk.localNs), (1, s.clk.localNs)] }
        ({ ch with fabric := { ch.fabric with srcEpochs := put none ch.fabric.srcEpochs h.self (some h.epoch) } }).barriersAgain
       else s.chip.modPort p fun x => { x with st := .failed, cause := 5, failedAt := s.clk.localNs }))) ∧
  ((s.chip.prt p).st ≠ .hello → exec (.hello p h) s = .next s)

/-- CABLE_PRESENCE_CHANGE: a cable put into an enabled port begins bring-up; one pulled from a link that is up fails it with cause 6, and ends a
bring-up with cause 1; there are 8 ports. -/
def cableRow : Prop := ∀ s p, let x := s.chip.prt p
  (8 ≤ p → ∀ there, exec (.cablePresenceChange p there) s = .next s) ∧ (p < 8 →
  (s.chip.portEnabled p = true → x.st = .disabled ∨ x.st = .failed → s.chip.ready = true ∨ s.chip.inRecoveryMode = true →
    exec (.cablePresenceChange p true) s = .next (after s ((s.chip.modPort p fun x => { x with cable := true }).modPort p fun x => { x with st := .training, cause := 0 }))) ∧
  (x.st = .up → exec (.cablePresenceChange p false) s = .next (after s ((s.chip.modPort p fun x => { x with cable := false }).linkFail s.clk p 6))) ∧
  (s.chip.portEnabled p = false ∨ (x.st ≠ .disabled ∧ x.st ≠ .failed) ∨ (s.chip.ready = false ∧ s.chip.inRecoveryMode = false) →
    exec (.cablePresenceChange p true) s = .next (after s (s.chip.modPort p fun x => { x with cable := true }))) ∧
  (x.st = .training ∨ x.st = .measuring ∨ x.st = .hello →
    exec (.cablePresenceChange p false) s = .next (after s ((s.chip.modPort p fun x => { x with cable := false }).modPort p fun x => { x with st := .failed, cause := 1, failedAt := s.clk.localNs }))) ∧
  (x.st = .disabled ∨ x.st = .failed → exec (.cablePresenceChange p false) s = .next (after s (s.chip.modPort p fun x => { x with cable := false }))))

/-- HOP_ACKNOWLEDGE: every frame to hseq leaves the replay buffer; a port that is not up is left. -/
def hopAckRow : Prop := ∀ s p n,
  (s.chip.portUp p = true → exec (.hopAcknowledge p n) s = .next (after s (s.chip.modPort p fun x =>
    { x with lastCtl := s.clk.localNs, creditAt := [(0, s.clk.localNs), (1, s.clk.localNs)], replay := x.replay.filter fun f => decide (n < f.1) }))) ∧
  (s.chip.portUp p = false → exec (.hopAcknowledge p n) s = .next s)

/-- HOP_REPLAY_REQUEST: every frame from hseq on goes again, in order, and is counted; one that goes for the 8th time fails the link. -/
def hopReplayRow : Prop := ∀ s p n, let x := (s.chip.prt p).heard s.clk; let again := x.replay.filter fun f => decide (n ≤ f.1)
  let ch := s.chip.modPort p fun _ => { x with
    replay := x.replay.map fun f => if n ≤ f.1 then (f.1, f.2.1 + 1, f.2.2) else f, replays := satTo 0xFFFF (x.replays + again.length) }
  (s.chip.portUp p = true → (∀ f ∈ again, f.2.1 < 7) → exec (.hopReplayRequest p n) s = .next (after s (again.foldl (fun c f => c.send (.frame p f.2.2)) ch))) ∧
  (s.chip.portUp p = true → (∃ f ∈ again, 7 ≤ f.2.1) → exec (.hopReplayRequest p n) s = .next (after s (ch.linkFail s.clk p 6))) ∧
  (s.chip.portUp p = false → exec (.hopReplayRequest p n) s = .next s)

/-- FEC_UNCORRECTABLE_CODEWORD: counted and a replay asked for from the first frame not received whole; the 16th within 1 ms fails the link. -/
def fecRow : Prop := ∀ s p, let ts := ((s.chip.prt p).ueTimes.filter fun t => decide (s.clk.localNs < t + 1000000)) ++ [s.clk.localNs]
  let ch := s.chip.modPort p fun x => { x with fecUe := satTo 0xFFFF (x.fecUe + 1), ueTimes := ts }
  (s.chip.portUp p = true → ts.length < 16 → exec (.fecUncorrectable p) s = .next (after s (ch.send (.control p 1 (ch.prt p).rxHseq)))) ∧
  (s.chip.portUp p = true → 16 ≤ ts.length → exec (.fecUncorrectable p) s = .next (after s (ch.linkFail s.clk p 6))) ∧
  (s.chip.portUp p = false → exec (.fecUncorrectable p) s = .next s)

/-- LINK_CREDIT_TIMEOUT and LINK_SILENCE_TIMEOUT: 10 µs without credit while frames wait, 10 µs without a control block, or a lost lock, fail a link
that is up; else nothing changes. -/
def linkTimeoutRows : Prop := ∀ s p, let x := s.chip.prt p
  (∀ vc, s.chip.portUp p = true → (∃ f ∈ x.queue, f.vc = vc) → look 0 x.creditAt vc + 10000 ≤ s.clk.localNs →
    exec (.linkCreditTimeout p vc) s = .next (after s (s.chip.linkFail s.clk p 6))) ∧
  (∀ vc, s.chip.portUp p = false ∨ (∀ f ∈ x.queue, f.vc ≠ vc) ∨ s.clk.localNs < look 0 x.creditAt vc + 10000 → exec (.linkCreditTimeout p vc) s = .next s) ∧
  (∀ lost, s.chip.portUp p = true → lost = true ∨ x.lastCtl + 10000 ≤ s.clk.localNs → exec (.linkSilenceTimeout p lost) s = .next (after s (s.chip.linkFail s.clk p 6))) ∧
  (∀ lost, s.chip.portUp p = false ∨ (lost = false ∧ s.clk.localNs < x.lastCtl + 10000) → exec (.linkSilenceTimeout p lost) s = .next s)

/-- PORT_FRAME_SEND: a waiting barrier frame goes before every other, numbered, kept for replay and taken from the queue; with nothing waiting, or
the port not up, nothing changes. -/
def frameSendRow : Prop := ∀ s p,
  (s.chip.portUp p = false ∨ s.chip.nextFrame p = none → exec (.portFrameSend p) s = .next s) ∧
  (∀ f d, s.chip.portUp p = true → s.chip.nextFrame p = some (f, d) → let n := (s.chip.prt p).txHseq
    let bytes := f.bytes.take 20 ++ toBe n 4 ++ f.bytes.drop 24
    let rest := (s.chip.prt p).queue.erase f
    exec (.portFrameSend p) s = .next (after s ((s.chip.modPort p fun x =>
      { x with queue := rest, deficits := if rest.any fun g => decide (g.job = f.job) then d else put 0 d f.job 0, txHseq := (n + 1) % 2 ^ 32,
               replay := x.replay ++ [(n, 0, bytes)] }).send (.frame p bytes))))

/-- A barrier frame that waits at a port is the next one it sends. -/
def barrierFirst : Prop := ∀ (ch : Chip) p f, (ch.prt p).queue.find? (·.barrier) = some f → ch.nextFrame p = some (f, (ch.prt p).deficits)

/-- DATA_FRAME and EPOCH_NOTICE: a frame received before is acknowledged again and dropped, one past a frame not received whole is dropped; the one
the receiver waits for is acknowledged at the hop and then forwarded by its destination alone, or taken when it is for this device; one for this device of no type the row names goes no further. -/
def frameInRow : Prop := ∀ s p bs, let h := frameHdr bs; let heard := s.chip.modPort p fun y => y.heard s.clk
  let acked := (heard.modPort p fun y => { y with rxHseq := (h.hseq + 1) % 2 ^ 32 }).send (.control p 0 h.hseq)
  (s.chip.portUp p = false ∨ bs.length < 32 → exec (.dataFrame p bs) s = .next s ∧ exec (.epochNotice p bs) s = .next s) ∧
  (s.chip.portUp p = true → 32 ≤ bs.length → h.hseq < (s.chip.prt p).rxHseq → let again := after s (heard.send (.control p 0 ((s.chip.prt p).rxHseq - 1)))
    exec (.dataFrame p bs) s = .next again ∧ exec (.epochNotice p bs) s = .next again) ∧
  (s.chip.portUp p = true → 32 ≤ bs.length → (s.chip.prt p).rxHseq = h.hseq → h.dst ≠ s.chip.fabric.selfId →
    exec (.dataFrame p bs) s = .next (after s (acked.forwardFrame p bs)) ∧ exec (.epochNotice p bs) s = .next (after s (acked.forwardFrame p bs))) ∧
  (s.chip.portUp p = true → 32 ≤ bs.length → (s.chip.prt p).rxHseq = h.hseq → h.dst = s.chip.fabric.selfId →
    exec (.dataFrame p bs) s = .next (after s (if h.type = 0 then acked.dataHere s.clk p bs else acked)) ∧
    exec (.epochNotice p bs) s = .next (after s (if h.type = 4 then acked.noticeHere s.clk bs else acked))) ∧
  (s.chip.portUp p = true → 32 ≤ bs.length → (s.chip.prt p).rxHseq < h.hseq →
    exec (.dataFrame p bs) s = .next (after s heard) ∧ exec (.epochNotice p bs) s = .next (after s heard))

/-! ### Jobs, flows, barriers across packages and collectives (spec/14_fabric.md R405 to R422) -/

/-- JOB_SETUP with nothing to refuse it takes the lowest free job slot. -/
def jobSetupRow : Prop := ∀ s q n, Taken s 0x0A01 q → Clear (jobChecks q s.chip) → s.chip.fabric.freeJob = some n →
  exec (.jobSetup q) s = .next (after s (ok (s.chip.setupJob q n) q []))

/-- JOB_END of a job of the sender's partition ends it and is done at once; of a job not set up it is refused. -/
def jobEndRow : Prop := ∀ s q, Taken s 0x0A02 q → let job := beAt q.payload 0 2
  (∀ n j, s.chip.jobSlot job = some (n, j) → j.part = q.part → Zero q 2 2 → WorksFit s q →
    exec (.jobEnd q) s = .next (after s (((taken s s.chip q 0x0A02 (.jobEnd job) []).endJob s.clk n j).complete s.clk (work s q 0x0A02 (.jobEnd job)) 0xE001 .ok []))) ∧
  (s.chip.jobSlot job = none → exec (.jobEnd q) s = .next (after s (s.chip.refuse q (.badField, some 0))))

/-- FAB_STATUS replies the fabric's configuration and the status of the 8 ports. -/
def fabStatusRow : Prop := ∀ s q, Taken s 0x0A03 q →
  exec (.fabStatus q) s = .next (after s (ok s.chip q (toBe s.chip.fabric.cfg 4 ++ (List.range 8).flatMap fun n => toBe (s.chip.prt n).status 4)))

/-- FLOW_ACKNOWLEDGE: every frame to fseq leaves what the flow keeps, and a stream's writes it covers have landed; for an unknown or failed flow, or
a number not sent yet, nothing changes. -/
def flowAckRow : Prop := ∀ s job dst flow n,
  (s.chip.flow? job dst flow true = none → exec (.flowAcknowledge job dst flow n) s = .next s) ∧
  (∀ f, s.chip.flow? job dst flow true = some f →
    (f.failed = true ∨ f.nextSeq ≤ n → exec (.flowAcknowledge job dst flow n) s = .next s) ∧
    (f.failed = false → n < f.nextSeq → 1024 ≤ flow → exec (.flowAcknowledge job dst flow n) s = .next (after s
      (s.chip.modFlow job dst flow true fun g => { g with kept := g.kept.filter fun x => decide (n < x.fseq) }))) ∧
    (f.failed = false → n < f.nextSeq → flow < 1024 → exec (.flowAcknowledge job dst flow n) s = .next (after s
      ((s.chip.modFlow job dst flow true fun g => { g with kept := g.kept.filter fun x => decide (n < x.fseq) }).modStr (flow / 64) (flow % 64) fun x =>
        { x with reqs := x.reqs.map fun q => if q.write && s.chip.toDevice job dst q && decide (q.await ≤ n + 1) && q.granted then { q with await := 0 } else q }))))

/-- FLOW_NEGATIVE_ACKNOWLEDGE and FLOW_RESEND_TIMER: a kept frame goes again over the route in force, after a notice to that member in the first
case, and 50 µs after it was sent in the second; after five sendings its flow fails; with nothing kept nothing changes. -/
def flowResendRows : Prop := ∀ s job dst flow n,
  (∀ m j f, s.chip.jobSlot job = some (m, j) → s.chip.flow? job dst flow true = some f →
    ((f.kept.any fun x => decide (x.fseq = n)) = true → exec (.flowNegativeAcknowledge job dst flow n) s = .next (after s ((s.chip.sendNotice j dst).resendKept s.clk job dst flow n))) ∧
    ((f.kept.any fun x => decide (x.fseq = n)) = false → exec (.flowNegativeAcknowledge job dst flow n) s = .next s)) ∧
  (s.chip.flow? job dst flow true = none → exec (.flowNegativeAcknowledge job dst flow n) s = .next s ∧ exec (.flowResendTimer job dst flow n) s = .next s) ∧
  (∀ f x, s.chip.flow? job dst flow true = some f → f.kept.find? (fun x => decide (x.fseq = n)) = some x →
    (x.sentAt + 50000 ≤ s.clk.localNs → exec (.flowResendTimer job dst flow n) s = .next (after s (s.chip.resendKept s.clk job dst flow n))) ∧
    (s.clk.localNs < x.sentAt + 50000 → exec (.flowResendTimer job dst flow n) s = .next s))

/-- BARRIER_FRAME: one for another device is forwarded; one for this device of a job not set up is refused, and the management partition hears
of it; one of another generation or from a child counted already is absorbed; a new arrival is counted; a release goes to the children of the tree and raises the generation to be released; a
port that is not up takes none. -/
def barrierFrameRow : Prop := ∀ s port job bar gen src rel,
  (s.chip.portUp port = false → ∀ dst, exec (.barrierFrame port job bar gen src dst rel) s = .next s) ∧ (s.chip.portUp port = true →
  (∀ dst, dst ≠ s.chip.fabric.selfId → exec (.barrierFrame port job bar gen src dst rel) s = .next (after s (s.chip.forwardFrame port
    (({ type := 3, srcEpoch := (look none s.chip.fabric.srcEpochs src).getD 0, src := src, dst := dst, job := job, length := 4 } : FrameHdr).bytes ++ barPayload bar gen rel)))) ∧
  (s.chip.jobSlot job = none → exec (.barrierFrame port job bar gen src s.chip.fabric.selfId rel) s = .next (after s (s.chip.refuseJob s.clk job))) ∧
  (∀ n j, s.chip.jobSlot job = some (n, j) → let x := (s.chip.pt j.part).bar bar
    (x.job ≠ some job ∨ x.arrGen.toNat ≠ gen ∨ (rel = false ∧ src ∈ x.children) → exec (.barrierFrame port job bar gen src s.chip.fabric.selfId rel) s = .next s) ∧
    (x.job = some job → x.arrGen.toNat = gen → rel = false → src ∉ x.children → exec (.barrierFrame port job bar gen src s.chip.fabric.selfId rel) s = .next (after s
      ((s.chip.modBar j.part bar fun y => { y with children := y.children ++ [src] }).barrierUp j.part bar))) ∧
    (x.job = some job → x.arrGen.toNat = gen → rel = true → exec (.barrierFrame port job bar gen src s.chip.fabric.selfId rel) s = .next (after s
      ((s.chip.fabric.childMembers j s.chip.fabric.selfId).foldl (fun c d => c.sendBarrier j d bar gen true) (s.chip.modBar j.part bar (Barrier.release (s.chip.pt j.part).fill none)))))))

/-- JOB_BARRIER_TIMEOUT: once per generation, a job's timeout after its own clusters arrived, its partition hears of cause 15; else nothing changes. -/
def jobTimeoutRow : Prop := ∀ s p b, let x := (s.chip.pt p).bar b
  (∀ n j t, x.job.bind s.chip.jobSlot = some (n, j) → x.localDone = some t →
    (j.timeout ≠ 0 → x.timedOut = false → t + j.timeout * 1000 ≤ s.clk.localNs →
      exec (.jobBarrierTimeout p b) s = .next (after s ((s.chip.modBar p b fun y => { y with timedOut := true }).fabEvent s.clk p 15 b))) ∧
    (j.timeout = 0 ∨ x.timedOut = true ∨ s.clk.localNs < t + j.timeout * 1000 → exec (.jobBarrierTimeout p b) s = .next s)) ∧
  (x.localDone = none → exec (.jobBarrierTimeout p b) s = .next s)

/-- COLLECTIVE_COMPLETE: with every member's data here the result is in memory and the semaphore rises; a failed one is reported with cause 16; before
either nothing changes. -/
def collectiveRow : Prop := ∀ s id c n j, (s.chip.fabric.colls.find? fun c => c.id = id) = some c → s.chip.jobSlot c.job = some (n, j) →
  let others := j.members.filter fun d => d ≠ s.chip.fabric.selfId; let got := others.map fun d => (d, s.chip.chunksFrom c d)
  let chunks := c.entry.len / 4096
  (c.started = false → ∀ ok, exec (.collectiveComplete id ok) s = .next s) ∧
  (c.started = true → c.failed = true → exec (.collectiveComplete id false) s = .next (after s ((s.chip.fabEvent s.clk c.part 16 c.idx).endColl s.clk c others))) ∧
  (c.started = true → c.failed = true ∨ (∃ g ∈ got, g.2.length < chunks) → exec (.collectiveComplete id true) s = .next s) ∧
  (∀ src, c.started = true → c.failed = false → (∀ g ∈ got, chunks ≤ g.2.length) → s.chip.readServed c.part c.entry.src c.entry.len = .ok src →
    let out := collResult c.entry j.root ((s.chip.fabric.selfId, src) :: got.map fun g => (g.1, (g.2.take chunks).flatMap fun b => b))
    (∀ o ∈ out, (s.chip.pt c.part).rangeBad (c.entry.dst + o.1) o.2.length true = false) →
    exec (.collectiveComplete id true) s = .next (after s (((out.foldl (fun m o => m.writeDva s.clk c.part (c.entry.dst + o.1) o.2) s.chip).raiseSem s.clk
      c.entry.region c.entry.sem c.entry.n).endColl s.clk c others)))

/-! ### Recovery (spec/16_faults_recovery.md R449 to R481; spec/01_architecture.md R24 to R28; spec/12_partitions_security.md R371) -/

/-- A step on a unit may start: its fault is at the head of a queue that is free. -/
abbrev Starts (s : State) (u : RecUnit) (cause : Nat) (f : FaultRec) (pkg : Bool) (c : Chip) : Prop :=
  s.chip.ready = true ∧ s.chip.takeFault u cause = some (f, pkg, c)

/-- No step on a unit may start: nothing with this unit and cause heads a free queue, or the device is not ready. -/
abbrev NotStarts (s : State) (u : RecUnit) (cause : Nat) : Prop := s.chip.ready = false ∨ s.chip.takeFault u cause = none

/-- CONTEXT_RESET, ATTENTION_ENGINE_RESET and PARTITION_RESET: a step that may start begins, with its record, and resets its unit; with none to
start nothing changes, but that an engine's parity error is detected at the engine itself. -/
def resetRows : Prop := ∀ s f pkg c,
  (∀ p ctx cause, Starts s (.ctx p ctx) cause f pkg c →
    exec (.contextReset p ctx cause) s = .next (after s ((c.beginStep s.clk f pkg).contextReset s.clk p ctx f.quar))) ∧
  (∀ p ctx cause, NotStarts s (.ctx p ctx) cause → exec (.contextReset p ctx cause) s = .next s) ∧
  (∀ e cause, Starts s (.engine e) cause f pkg c →
    exec (.attentionEngineReset e cause) s = .next (after s ((c.beginStep s.clk f pkg).modEng e fun y => { y with st := .resetting, work := none }))) ∧
  (∀ e cause, NotStarts s (.engine e) cause → cause ≠ 8 ∨ 16 ≤ e → exec (.attentionEngineReset e cause) s = .next s) ∧
  (∀ p cause, Starts s (.part p) cause f pkg c → exec (.partitionReset p cause) s = .next (after s ((c.beginStep s.clk f pkg).partitionReset s.clk p))) ∧
  (∀ p cause, NotStarts s (.part p) cause → exec (.partitionReset p cause) s = .next s)

/-- CLUSTER_SUBSTITUTION, STREAM_ENGINE_RESET and DIE_RESET: a step that may start begins and acts; with none to start, and nothing for the row to
detect, nothing changes. -/
def stepRows : Prop := ∀ s f pkg c,
  (∀ n cause, Starts s (.cluster n) cause f pkg c → exec (.clusterSubstitution n cause) s = .next (after s ((c.beginStep s.clk f pkg).replaceCluster s.clk n f))) ∧
  (∀ n cause, NotStarts s (.cluster n) cause → cause ≠ 6 ∨ 80 ≤ n ∨ (s.chip.cl n).beats = false → exec (.clusterSubstitution n cause) s = .next s) ∧
  (∀ r cause, Starts s (.streamEng r) cause f pkg c → exec (.streamEngineReset r cause) s = .next (after s ((c.beginStep s.clk f pkg).streamEngineReset s.clk r f))) ∧
  (∀ r cause, NotStarts s (.streamEng r) cause → cause ≠ 9 ∨ 16 ≤ r → exec (.streamEngineReset r cause) s = .next s) ∧
  (∀ d cause sr pats bad, Starts s (.die d) cause f pkg c →
    exec (.dieReset d cause sr pats bad) s = .next (after s ((c.beginStep s.clk f pkg).dieResets s.clk d f sr pats bad))) ∧
  (∀ d cause sr pats bad, NotStarts s (.die d) cause → cause ≠ 12 ∨ 4 ≤ d → exec (.dieReset d cause sr pats bad) s = .next s)

/-- What the rows detect themselves: a parity error of an engine, a lost heartbeat, a stream engine's or a die's failure. The fault is queued, and
its step begins at once when it then heads a free queue. -/
def detections : Prop := ∀ s, s.chip.ready = true →
  (∀ e f pkg c, e < 16 → s.chip.takeFault (.engine e) 8 = none → (s.chip.fault s.clk 8 (.engine e) 0).takeFault (.engine e) 8 = some (f, pkg, c) →
    exec (.attentionEngineReset e 8) s = .next (after s ((c.beginStep s.clk f pkg).modEng e fun y => { y with st := .resetting, work := none }))) ∧
  (∀ n f pkg c, n < 80 → (s.chip.cl n).beats = true → s.chip.takeFault (.cluster n) 6 = none → (s.chip.fault s.clk 6 (.cluster n) 0).takeFault (.cluster n) 6 = some (f, pkg, c) →
    exec (.clusterSubstitution n 6) s = .next (after s ((c.beginStep s.clk f pkg).replaceCluster s.clk n f))) ∧
  (∀ r f pkg c, r < 16 → s.chip.takeFault (.streamEng r) 9 = none → (s.chip.fault s.clk 9 (.streamEng r) 0).takeFault (.streamEng r) 9 = some (f, pkg, c) →
    exec (.streamEngineReset r 9) s = .next (after s ((c.beginStep s.clk f pkg).streamEngineReset s.clk r f))) ∧
  (∀ d f pkg c sr pats bad, d < 4 → s.chip.takeFault (.die d) 12 = none → (s.chip.fault s.clk 12 (.die d) 0).takeFault (.die d) 12 = some (f, pkg, c) →
    exec (.dieReset d 12 sr pats bad) s = .next (after s ((c.beginStep s.clk f pkg).dieResets s.clk d f sr pats bad)))

/-- Substitution: the failed cluster is fenced; without a clean reserve, or with it in use already, the step gives way to the next; with a log that
overflowed, or a lost word among what the restore reads, it gives way with the reserve in the lcid's place; else the reserve is restored in its
place. -/
def substitution : Prop := ∀ (ch : Chip) (k : Clock) c f l, ((ch.fence k c).cl c).lcid = some l → let h := ch.fence k c; let r := regionOf c; let mir := (h.rg r).mir l
  let lost := (restoreReads ((h.ownerOf l).getD 0) (h.cl c) mir).any fun x => (h.firstLost x.1 x.2.1 x.2.2 false).isSome
  ((h.rg r).inUse = true ∨ h.reserveOf r = none → ch.replaceCluster k c f = h.escalateLast k f) ∧
  (∀ n, (h.rg r).inUse = false → h.reserveOf r = some n →
    (mir.overflow = true ∨ lost = true → ch.replaceCluster k c f = (h.useReserve k l c).escalateLast k f) ∧
    (mir.overflow = false → lost = false → ch.replaceCluster k c f = h.substituteBy k l c n mir))

/-- A region's clean reserve takes an lcid over: the repair map says so, the region has no reserve left and the lcid's owner is served by it; with
no clean reserve the lcid has no cluster. -/
def reserveRule : Prop := ∀ (ch : Chip) (k : Clock) l c,
  (ch.reserveOf (regionOf c) = none → ch.useReserve k l c = ch.moveLcid l c none) ∧
  (∀ n, ch.reserveOf (regionOf c) = some n → let h := (ch.moveLcid l c (some n)).modRg (regionOf c) fun g => { g with reserve := none, inUse := true }
    ((h.ownerOf l).isSome = true → ch.useReserve k l c = h.modCl n fun x => { x with svc := .owned, lastBeat := k.localNs }) ∧
    ((h.ownerOf l).isSome = false → ch.useReserve k l c = h))

/-- The reserve in the failed cluster's place: the lcid, codec tables, registers of its host and bank power are the failed one's, its statuses
begin anew; with an image its registers, generators, seed, bindings and role are the image's and it replays, without one its slots and seed stay
the failed one's; in both the generator is mixed with the reserve's own epoch. -/
def standsIn : Prop := ∀ (ch : Chip) (k : Clock) (old new : Cluster) mir, let t := ch.standIn k old new mir
  (t.svc = .owned ∧ t.lcid = old.lcid ∧ t.codec = old.codec ∧ t.loads = old.loads ∧ t.table = ch.reloadTables old.loads ∧ t.seedLo = old.seedLo ∧ t.seedHi = old.seedHi ∧
    t.bankPwr = old.bankPwr ∧ t.num = {} ∧ t.epoch = new.epoch ∧ t.mixed = some new.epoch) ∧
  (mir.current = none → t.slots = old.slots ∧ t.cur = old.cur ∧ t.dbuf = old.dbuf ∧ t.role = old.role ∧ t.satFp = old.satFp ∧ t.seed = old.seed) ∧
  (∀ img, mir.current = some img → t.sreg = img.sreg ∧ t.oag0 = img.oag0 ∧ t.oag1 = img.oag1 ∧ t.satFp = img.satFp ∧ t.seed = img.seed ∧ t.dbuf = img.dbuf ∧
    t.role = img.role ∧ t.cur = img.cur ∧ t.replay = some { arrived := img.arrivals })

/-- A fenced cluster executes nothing more and is of the next epoch; everything it holds stays. -/
def fencedCluster : Prop := ∀ (ch : Chip) (k : Clock) c, (ch.works.filter fun w => decide (w.kind = .fillCopy c)) = [] → let t := (ch.fence k c).cl c; let u := ch.cl c
  t.svc = .fenced ∧ t.epoch = u.epoch + 1 ∧ t.lcid = u.lcid ∧ t.sreg = u.sreg ∧ t.vreg = u.vreg ∧ t.arr = u.arr ∧ t.spd = u.spd ∧ t.slots = u.slots ∧ t.table = u.table

/-- A cluster restored from an image has its registers, generators, seed, bindings and slot pointers from it, none in flight, and replays the
arrivals the image holds; its accumulators, vectors and table are its own. -/
def restoredCluster : Prop := ∀ (c old : Cluster) img f mixed, let t := c.restore old img f mixed
  t.sreg = img.sreg ∧ t.oag0 = img.oag0 ∧ t.oag1 = img.oag1 ∧ t.satFp = img.satFp ∧ t.dbuf = img.dbuf ∧ t.role = img.role ∧ t.cur = img.cur ∧ t.seed = img.seed ∧ t.mixed = mixed ∧
  t.flight = [] ∧ t.capture = none ∧ t.replay = some { arrived := img.arrivals } ∧ t.table = c.table ∧ t.arr = c.arr ∧ t.vreg = c.vreg ∧ t.epoch = c.epoch

/-- CLUSTER_REINTEGRATION: a cluster back from its collapse that passes its test serves its lcid again, or is clean and, if its region has none,
the reserve; one that fails is recorded and an lcid it still has goes to the reserve; the management partition hears of either; before the 200
samples nothing changes. -/
def reintegrationRow : Prop := ∀ s c since n,
  (s.chip.cl c).svc = .collapsing since n 1 →
  (n < 200 → ∀ b, exec (.clusterReintegration c b) s = .next s) ∧
  (200 ≤ n → (s.chip.cl c).rowsPending = false →
    let h := s.chip.modCl c fun x => { x with svc := if (s.chip.ownerOfCl c).isSome then .owned else .clean, bistPass := true, lastBeat := s.clk.localNs }
    exec (.clusterReintegration c true) s = .next (after s
      ((h.modRg (regionOf c) fun g => if g.reserve.isSome || (h.cl c).lcid.isSome then g else { g with reserve := some c, inUse := false }).notice s.clk 1 c))) ∧
  (200 ≤ n → ∀ pass, pass = false ∨ (s.chip.cl c).rowsPending = true →
    let h := ((s.chip.modCl c fun x => { x with bistPass := false }).recordFailed c).notice s.clk 2 c
    ((h.cl c).lcid = none → exec (.clusterReintegration c pass) s = .next (after s h)) ∧
    (∀ l, (h.cl c).lcid = some l → exec (.clusterReintegration c pass) s = .next (after s (h.useReserve s.clk l c))))

/-- PACKAGE_RESET: with the rails on a package fault at the head of the queue, or one the power controller detects, resets the package; else nothing
changes. -/
def packageRow : Prop := ∀ s cause,
  (s.mod.st ≠ .on → exec (.packageReset cause) s = .next s) ∧
  (∀ f pkg c, s.mod.st = .on → s.chip.takeFault .package cause = some (f, pkg, c) →
    exec (.packageReset cause) s = .next { s with clk := s.clk.afterReset, chip := c.packageReset s.clk cause f.detail }) ∧
  (s.mod.st = .on → s.chip.takeFault .package cause = none → cause = 13 → exec (.packageReset cause) s = .next { s with
    clk := s.clk.afterReset, chip := (s.chip.faultEvent s.clk (s.chip.partsOn .package) 13 0 .package 0).packageReset s.clk 13 0 }) ∧
  (s.chip.takeFault .package cause = none → cause ≠ 13 → exec (.packageReset cause) s = .next s)

/-- A package reset leaves flash's contents and the cables, counts the fabric epoch, and begins boot at step 2; every register, partition, model,
sequence, frame, run and session is gone. -/
def packageLeaves : Prop := ∀ (ch : Chip) (k : Clock) cause d, let t := ch.packageCleared k cause d
  t.clusters = [] ∧ t.parts = [] ∧ t.models = [] ∧ t.seqs = [] ∧ t.frames = [] ∧ t.ledger = [] ∧ t.hbm = [] ∧ t.runs = [] ∧ t.works = [] ∧ t.wheels = [] ∧
  t.lcidMap = [] ∧ t.host.sessions = [] ∧ t.host.rx = [] ∧ t.sec.idOk = false ∧ t.sec.dbgOpen = false ∧ t.boot.phase = 1 ∧ t.fabric.epoch = ch.fabric.epoch + 1 ∧
  t.flash.records = ch.flash.records ∧ t.flash.slots = ch.flash.slots ∧ t.flash.ckpts = ch.flash.ckpts ∧ t.flash.kept = ch.flash.kept ∧ t.flash.erases = ch.flash.erases ∧
  t.wire = ch.wire

/-- RECOVERY_STEP_COMPLETE of a step in progress ends it: its unit runs on, its records are written, its partitions recover no longer unless another
step of theirs goes on, and phase 1 of its fault is reported; a number of no step changes nothing. -/
def stepCompleteRow : Prop := ∀ s id,
  ((s.chip.rcv.steps.find? fun x => x.id = id) = none → exec (.recoveryStepComplete id) s = .next s) ∧
  (∀ x, (s.chip.rcv.steps.find? fun x => x.id = id) = some x → s.chip.ready = true ∨ s.chip.inRecoveryMode = true →
    let ch := ({ s.chip with rcv := { s.chip.rcv with steps := s.chip.rcv.steps.filter fun y => y.id ≠ id } }.unitDone s.clk x.unit).writeDumps s.clk
    let ch := x.parts.foldl (fun c p =>
      (c.modPt p fun y => { y with recovering := c.rcv.steps.any fun z => decide (3 ≤ z.unit.code) && decide (p ∈ z.parts) }).resumeCtxs s.clk p) ch
    let ch := if x.cause = 0 then ch else ch.faultEvent s.clk x.parts x.cause 1 x.unit x.detail
    exec (.recoveryStepComplete id) s = .next (after s (x.works.foldl (fun c i => match c.work? i with | some w => c.complete s.clk w 0xE001 .ok [] | none => c) ch)))

/-- STEP_WATCHDOG_EXPIRY: a step that has run past its watchdog gives way to the next with cause 14; the last, a package reset, asks for a power
cycle; before its watchdog nothing changes. -/
def stepWatchdogRow : Prop := ∀ s id x, (s.chip.rcv.steps.find? fun x => x.id = id) = some x → let w := stepWatchdog x.unit.code
  (s.clk.localNs < x.startNs + w → exec (.stepWatchdogExpiry id) s = .next s) ∧
  (x.startNs + w ≤ s.clk.localNs → x.unit ≠ .package → exec (.stepWatchdogExpiry id) s = .next (after s (s.chip.escalateStep s.clk x 14))) ∧
  (x.startNs + w ≤ s.clk.localNs → x.unit = .package → exec (.stepWatchdogExpiry id) s = .next { s with
    mod := { s.mod with pcReq := true }, chip := { s.chip with rcv := { s.chip.rcv with steps := s.chip.rcv.steps.filter fun y => y.id ≠ id } } })

/-- MGMT_START_TIMEOUT 8 s after a package reset with no management controller started asks for a power cycle; else nothing changes. -/
def mgmtTimeoutRow : Prop := ∀ s,
  (∀ t, s.chip.rcv.resetAt = some t → t + 8000000000 ≤ s.clk.localNs → s.chip.boot.mgmtStarted = false → exec .mgmtStartTimeout s = .next { s with
    mod := { s.mod with pcReq := true }, chip := { s.chip with rcv := { s.chip.rcv with resetAt := none } } }) ∧
  (∀ t, s.chip.rcv.resetAt = some t → s.clk.localNs < t + 8000000000 ∨ s.chip.boot.mgmtStarted = true → exec .mgmtStartTimeout s = .next s) ∧
  (s.chip.rcv.resetAt = none → exec .mgmtStartTimeout s = .next s)

/-- TALLY_SCAN every 100 µs: with no suspect, and no party that is not live at this scan and the one before with the same wait, it keeps its table
and counts; before 100 µs, or before the device is ready, it changes nothing. -/
def tallyRow : Prop := ∀ s, let t := s.chip.scanTable
  let twice := t.any fun r => !r.live && s.chip.rcv.table.any fun o => !o.live && decide (o.party = r.party) && decide (o.obj = r.obj)
  (s.chip.ready = false ∨ s.clk.localNs < s.chip.rcv.lastScan + 100000 → exec .tallyScan s = .next s) ∧
  (s.chip.ready = true → s.chip.rcv.lastScan + 100000 ≤ s.clk.localNs → s.chip.rcv.suspects = [] →
    let ch := { s.chip with rcv := { s.chip.rcv with table := t, scans := satTo 0xFFFFFFFF (s.chip.rcv.scans + 1), lastScan := s.clk.localNs } }
    (twice = false → exec .tallyScan s = .next (after s ch)) ∧
    (twice = true → exec .tallyScan s = .next (after s (ch.beginRound s.clk ((t.filter fun r => !r.live).map (·.party))))))

/-- SUSPECT_REPLAY of the suspect next in order replays its clusters in place while the others are held; of any other it changes nothing. -/
def suspectRow : Prop := ∀ s p ctx, let turn := s.chip.rcv.suspects.find? fun x => x.2.2.waits
  (turn = none → exec (.suspectReplay p ctx) s = .next s) ∧
  (∀ p' ctx' x, turn = some (p', ctx', x) → p' ≠ p ∨ ctx' ≠ ctx ∨ x ≠ .todo → exec (.suspectReplay p ctx) s = .next s) ∧
  (turn = some (p, ctx, .todo) →
    let ch := (((s.chip.startedSlots p ctx).map (·.1)).eraseDups).foldl (fun c x => c.replayInPlace s.clk x (fun s => decide (s.part = p) && decide (s.ctx = ctx)) (Stream.ofCtx ctx)) s.chip
    let ch := (ch.hold s.clk p ctx false).setSuspicion p ctx (.replaying s.clk.localNs)
    exec (.suspectReplay p ctx) s = .next (after s { ch with rcv := { ch.rcv with table := [] } }))

/-- NO_PROGRESS_WATCHDOG: a context with started work, not paused, that made no progress for its partition's period is named with cause 11 and its
watch begins again; else nothing changes. -/
def noProgressRow : Prop := ∀ s p ctx,
  (look none (s.chip.pt p).contexts ctx = none → exec (.noProgressWatchdog p ctx) s = .next s) ∧
  (∀ y, look none (s.chip.pt p).contexts ctx = some y →
    let idle := (s.chip.startedSlots p ctx).isEmpty && (s.chip.startedTasks p ctx).isEmpty
    ((s.chip.pt p).valid = false ∨ y.pausedAt.isSome = true ∨ y.held = true ∨ s.clk.localNs < y.restart + (s.chip.pt p).wdog * 1000 ∨ idle = true →
      exec (.noProgressWatchdog p ctx) s = .next s) ∧
    ((s.chip.pt p).valid = true → y.pausedAt = none → y.held = false → y.restart + (s.chip.pt p).wdog * 1000 ≤ s.clk.localNs → idle = false →
      exec (.noProgressWatchdog p ctx) s = .next (after s ((s.chip.modPt p fun x => { x with
        wdogExpiries := x.wdogExpiries + 1, contexts := upd none x.contexts ctx fun o => o.map fun z => { z with restart := s.clk.localNs } }).fault s.clk 11 (.ctx p ctx) 0))))

/-- RESET of a unit the sender may reset is accepted and its step queued; a kind it does not know is refused. -/
def resetRow : Prop := ∀ s q, Taken s 0x0901 q →
  (∀ u, resetUnit s.chip q = .ok u → Zero q 1 1 → Zero q 4 4 → s.chip.inRecoveryMode = false ∨ u = .package → WorksFit s q →
    exec (.reset q) s = .next (after s ((taken s s.chip q 0x0901 (.recovery u.code) []).enqueue
      { cause := 0, unit := u, detail := 0, seen := s.clk.timebase, works := [s.chip.nextWork] }))) ∧
  (7 < beAt q.payload 0 1 → exec (.reset q) s = .next (after s (s.chip.refuse q (.badField, some 0))))

/-- What RESET's kinds name: kinds 1 to 3 and 5 a unit of the sender's own partition, kinds 4, 6 and 7 of the management partition alone. -/
def resetKinds : Prop := ∀ (ch : Chip) q, let kind := beAt q.payload 0 1; let id := beAt q.payload 2 2; let p := ch.pt q.part
  (kind = 1 → resetUnit ch q = if p.hasCtx id = true then .ok (.ctx q.part id) else .error (.notPermitted, some 2)) ∧
  (kind = 2 → id < 64 → resetUnit ch q = if p.ownsLcid id = true then (match ch.pcid id with | some c => .ok (.cluster c) | none => .error (.noResource, some 2))
    else .error (.notPermitted, some 2)) ∧
  (kind = 3 → id < 16 → resetUnit ch q = if p.ownsEng id = true then .ok (.engine id) else .error (.notPermitted, some 2)) ∧
  (kind = 5 → resetUnit ch q = if id = q.part then .ok (.part id) else .error (.notPermitted, some 2)) ∧
  (kind = 4 ∨ kind = 6 ∨ kind = 7 → q.part ≠ 0 → resetUnit ch q = .error (.notPermitted, some 0)) ∧
  (kind = 4 → q.part = 0 → id < 16 → resetUnit ch q = .ok (.streamEng id)) ∧
  (kind = 6 → q.part = 0 → id < 4 → resetUnit ch q = .ok (.die id)) ∧
  (kind = 7 → q.part = 0 → id < 1 → resetUnit ch q = .ok .package)

/-! ### The whole block -/

/-- On an empty queue a nanosecond passes, and nothing else (the model's choice, log entry 2): the local count goes on by 1, the timebase
by 1 and by at most 1 ns more or less in 10,000 of a slew, in its 64 bits, the pins stay, and a block that takes no work yet stays as it is. -/
def idleTick : Prop := ∀ s, s.pending = [] → ∃ t, step s = .next t ∧ t.mod = s.mod ∧ t.pending = [] ∧ t.clk.localNs = s.clk.localNs + 1 ∧
  (t.clk.timebase = s.clk.timebase ∨ t.clk.timebase = (s.clk.timebase + 1) % 2 ^ 64 ∨ t.clk.timebase = (s.clk.timebase + 2) % 2 ^ 64) ∧
  ((s.clk.localNs + 1) % 10000 ≠ 0 → t.clk.timebase = (s.clk.timebase + 1) % 2 ^ 64) ∧
  (s.chip.boot.phase ≠ 6 → t.chip = s.chip)

/-- Every command answers a next state and leaves the queue as it was. -/
def everyCommandAnswers : Prop := ∀ i s, ∃ t, exec i s = .next t ∧ t.pending = s.pending

/-- A device that does not answer drops every host command; one that does answers a command its gate refuses with that refusal alone. -/
def hostGate : Prop := ∀ i op q s, hostOp i = some (op, q) →
  (s.chip.answers = false → exec i s = .next s) ∧
  (∀ r, s.chip.answers = true → s.chip.gate op q = some r → exec i s = .next (after s (s.chip.refuse q r)))

/-- Over any step the local count moves by at most 1 ns and never back; the timebase stays a 64-bit count and moves by at most 2 ns in it, or,
where the step ran a TIME_SYNC_MESSAGE whose time it was behind by more than 1 ms, to that time. -/
def clocksForward : Prop := ∀ s t, step s = .next t →
  (t.clk.localNs = s.clk.localNs ∨ t.clk.localNs = s.clk.localNs + 1) ∧ (s.clk.timebase < 2 ^ 64 → t.clk.timebase < 2 ^ 64) ∧
  (t.clk.timebase = s.clk.timebase ∨ t.clk.timebase = (s.clk.timebase + 1) % 2 ^ 64 ∨ t.clk.timebase = (s.clk.timebase + 2) % 2 ^ 64 ∨
    (s.clk.timebase + 1000000 < t.clk.timebase ∧ ∃ port g rest, s.pending = .timeSyncMessage port g :: rest ∧ t.clk.timebase = g % 2 ^ 64))

/-- What holds of the pins and the power controller at every instant: the regulated rails are up exactly when the module is on; no rail is
up or coming up without PWR_EN; a start waits only while PWR_EN is high, VAUX is applied and the module is off; THERMTRIP_N is low only
under a PWR_EN that has not fallen since the trip, with the rails down and no start waiting; a trip-hold has its end; a fault-off lasts
while PWR_EN stays high. -/
abbrev PinsInv (m : ModulePins) : Prop :=
  (m.rails = true ↔ m.st = .on) ∧ (m.powered = true → m.pwrEn = true) ∧ (m.armed = true → m.pwrEn = true ∧ m.vaux = true ∧ m.st = .off) ∧
  (m.thermtripN = false → m.pwrEn = true ∧ m.powered = false ∧ m.armed = false) ∧ (m.st = .tripHold → m.tripHoldEnd ≠ none) ∧
  (m.st = .faultOff → m.pwrEn = true)

def pinsKept : Prop := ∀ s t, PinsInv s.mod → step s = .next t → PinsInv t.mod

/-- A package reset's watchdog that expires, and a management controller not started 8 s after a package reset, and nothing else, set
pc_req; ALERT_N is then low and PWR_SB_STATUS shows the request in bit 28. -/
def powerCycle : Prop :=
  (∀ s id x, (s.chip.rcv.steps.find? fun y => y.id = id) = some x → x.unit = .package → x.startNs + 8000000000 ≤ s.clk.localNs →
    ∃ t, exec (.stepWatchdogExpiry id) s = .next t ∧ t.mod = { s.mod with pcReq := true } ∧ t.mod.alert = true) ∧
  (∀ s r, s.chip.rcv.resetAt = some r → r + 8000000000 ≤ s.clk.localNs → s.chip.boot.mgmtStarted = false →
    ∃ t, exec .mgmtStartTimeout s = .next t ∧ t.mod = { s.mod with pcReq := true } ∧ t.mod.alert = true) ∧
  (∀ i s t, exec i s = .next t → s.mod.pcReq = false → t.mod.pcReq = true → i = .mgmtStartTimeout ∨ ∃ id, i = .stepWatchdogExpiry id) ∧
  (∀ k m ch, (∀ e, m.tripHoldEnd = some e → e ≤ k.localNs + 10000000000) → m.pcReq = true → bitAt (sideband k m ch 0) 28 = true)

/-- ALERT_N is low while any of the five bits is set, and then, on VAUX, the module answers the Alert Response Address with its own
address; while none is set it answers nothing. -/
def alertLine : Prop :=
  (∀ m : ModulePins, m.alert = true ↔ m.pcReq = true ∨ m.trip = true ∨ m.uvlo = true ∨ m.ovlo = true ∨ m.railFail = true) ∧
  (∀ s, s.mod.vaux = true → s.mod.alert = true →
    exec .smbusAlertResponse s = .next (after s { s.chip with wire := s.chip.wire ++ [.alertAddress (0x28 + s.mod.sbAddr.toNat)] })) ∧
  (∀ s, s.mod.alert = false → exec .smbusAlertResponse s = .next s)

/-- Every edge group of 16 delivers exactly the duty's count of edges, for every duty from 1 to 16 and every group. -/
def dutyCount : Prop := ∀ g d, 1 ≤ d → d ≤ 16 → ((List.range 16).filter fun k => dutyEdge (16 * g + k) d).length = d

/-- A range of HBM without errors, written, reads back as written; every other byte reads as before, and memory stays canonical. -/
def memoryRoundTrip : Prop := ∀ (ch : Chip) (k : Clock) (a : Nat) (bytes : List Byte), Store.wf 0 ch.hbm = true → ch.hbmErr = [] →
  let t := ch.writePhys k a bytes
  t.readPhys a bytes.length = bytes ∧ (∀ x, x < a ∨ a + bytes.length ≤ x → t.hbmByte x = ch.hbmByte x) ∧ Store.wf 0 t.hbm = true ∧ t.hbmErr = []

/-- The ring distance between two places. -/
def ringDist (s a b : Nat) : Nat := min ((b + s - a) % s) ((a + s - b) % s)

/-- Between any two devices of a shape the first-choice route ends at the destination, after the ring distances of its dimensions. -/
def routeArrives : Prop := ∀ (f : Fabric) (a b : Nat), 1 ≤ f.xs → f.xs ≤ 8 → 1 ≤ f.ys → f.ys ≤ 8 → 1 ≤ f.zs → f.zs ≤ 8 →
  f.inShape a = true → f.inShape b = true →
  (f.path a b 24).getLastD a = b ∧
  (f.path a b 24).length = ringDist f.xs (coord a 0) (coord b 0) + ringDist f.ys (coord a 1) (coord b 1) + ringDist f.zs (coord a 2) (coord b 2)

/-- The fields of a schedule entry that act within its cluster: its array's, its vector unit's and its scalar unit's, and the phase hint. -/
def ofEntry : Instr → Bool
  | .phaseHint .. | .anop .. | .vnop .. | .ynop .. | .snop .. | .front .. | .issue .. | .mode .. => true
  | .li .. | .lui .. | .add .. | .sub .. | .addi .. | .and .. | .or .. | .xor .. | .shl .. | .shr .. | .rdreg .. | .wreg .. | .ldn .. | .stn .. => true
  | .vld .. | .vst .. | .accrd .. | .vadd .. | .vsub .. | .vmul .. | .vfma .. | .vmax .. | .vmin .. | .vadds .. | .vmuls .. | .vexp2 .. | .vexp .. => true
  | .vrcp .. | .vrsqrt .. | .vdiv .. | .vsumr .. | .vmaxr .. | .vabs .. | .vneg .. | .vcvtif .. | .vcvtfi .. | .viadd .. | .vmov .. => true
  | _ => false

/-- The control fields of a schedule entry, with which the cluster's next edge is delivered. -/
def ofControl : Instr → Bool
  | .next .. | .loop .. | .endLoop .. | .endSlot .. => true
  | _ => false

/-- No field that acts within its cluster, whether it completes or faults, changes HBM, its frames, flash, the models, the keys of the device, the
sequences, the pins or the clocks; a control field, with its edge, changes neither pins nor clocks. -/
def entriesLeave : Prop :=
  (∀ i s t, ofEntry i = true → exec i s = .next t →
    t.chip.hbm = s.chip.hbm ∧ t.chip.hbmErr = s.chip.hbmErr ∧ t.chip.frames = s.chip.frames ∧ t.chip.flash = s.chip.flash ∧ t.chip.models = s.chip.models ∧
    t.chip.sec = s.chip.sec ∧ t.chip.seqs = s.chip.seqs ∧ t.mod = s.mod ∧ t.clk = s.clk) ∧
  (∀ i s t, ofControl i = true → exec i s = .next t → t.mod = s.mod ∧ t.clk = s.clk ∧ t.pending = s.pending)

/-- What reset leaves where the spec states it: no work taken and boot at its first phase, the module off with its alert bits clear, every
cluster's registers, semaphores and tables at 0, saturation on in CLU_NUM_CTRL, the address generators' strides and dilations 1, the ports
disabled. -/
def resetValues : Prop :=
  let s := State.reset
  s.pending = [] ∧ s.chip.boot.phase = 0 ∧ s.chip.ready = false ∧ s.mod.alert = false ∧ s.mod.st = .off ∧
  (∀ c, (s.chip.cl c).satFp = true ∧ (s.chip.cl c).num = {} ∧ (s.chip.cl c).seedLo = 0 ∧ (s.chip.cl c).bankPwr = 0 ∧ look 0 (s.chip.cl c).oag0.regs 11 = 0x00111100 ∧
    look 0 (s.chip.cl c).oag1.regs 11 = 0x00111100) ∧
  (∀ r k, look 0 (s.chip.rg r).sems k = 0) ∧ (∀ p, (s.chip.prt p).st = .disabled) ∧ s.chip.host.udpPort = 47210 ∧ s.chip.power.cap = 350 ∧
  s.chip.works = [] ∧ s.chip.runs = [] ∧ s.clk.timebase < 2 ^ 64

/-- Either lockout with the rails up takes every rail down, sets its bit, pulls ALERT_N low and leaves the module in fault-off; from there no
command brings it out but a fall of PWR_EN and the loss of VAUX, whatever VIN does. -/
def lockoutRule : Prop :=
  (∀ s v ns, s.mod.powered = true → (v < 3300 ∧ 100000 < ns) ∨ (6200 < v ∧ 1000000 < ns) → ∃ t, exec (.vinLockout v ns) s = .next t ∧
    t.mod.rails = false ∧ t.mod.st = .faultOff ∧ t.mod.alert = true ∧ t.mod.vaux = s.mod.vaux ∧ (v < 3300 → t.mod.uvlo = true) ∧ (6200 < v → t.mod.ovlo = true)) ∧
  (∀ i s t, s.mod.st = .faultOff → exec i s = .next t → t.mod.st = .faultOff ∨ i = .pwrEnFall ∨ i = .vauxChange false)

/-- RESET_N low for 10 µs or more with the rails up starts a package reset; boot does not pass step 2 while it is low, from a package reset or
from step 1 once the rails are up; low while PWR_EN is low it changes nothing but its own level, and low for less it changes nothing. -/
def resetNRule : Prop := ∀ s,
  (∀ ns, 10000 ≤ ns → s.mod.pwrEn = true → s.mod.st = .on →
    exec (.resetNAssert ns) s = .next { s with clk := s.clk.afterReset, mod := { s.mod with resetN := false }, chip := s.chip.packageReset s.clk 0 0 } ∧
    (s.chip.packageReset s.clk 0 0).boot.phase = 1) ∧
  (∀ ns, 10000 ≤ ns → s.mod.pwrEn = false → exec (.resetNAssert ns) s = .next { s with mod := { s.mod with resetN := false } }) ∧
  (∀ ns, ns < 10000 → exec (.resetNAssert ns) s = .next s) ∧
  (∀ r, s.mod.resetN = false → (s.mod.st = .sequencing ∧ r.railsOk = true) ∨ (s.mod.st = .on ∧ s.chip.boot.phase = 1) → ∃ t, exec (.bootSequence r) s = .next t ∧
    t.mod.st = .on ∧ t.mod.rails = true ∧ t.chip.boot.phase = 1)

/-- The ladder's steps 0 to 15 are duty s + 1 at a sixteenth of OPP 0's power each, steps 16 to 22 duty 16 at OPP s − 15; a single-owner die runs,
at the lesser e of its owner's step and its thermal limit, at min(request, e − 15) with duty 16 from 16 on, and else at OPP 0 with duty e + 1. -/
def ladderDie : Prop :=
  (∀ n, n ≤ 15 → stepDuty n = n + 1 ∧ stepPower n = oppPower 0 * (n + 1)) ∧ (∀ n, 16 ≤ n → n ≤ 22 → stepDuty n = 16 ∧ stepPower n = oppPower (n - 15) * 16) ∧
  (∀ (ch : Chip) d p, ch.dieShared d = false → (ch.dieOwners d).head? = some p → let e := min (ch.pt p).step (ch.die d).limit
    (16 ≤ e → ch.dieOpp d = min (ch.die d).request (e - 15)) ∧ (e < 16 → ch.dieOpp d = 0) ∧
    (∀ c, dieOf c = d → ch.ownerOfCl c = some p → (ch.pt p).hold = false → (16 ≤ e → ch.dutyOf c = 16) ∧ (e < 16 → ch.dutyOf c = e + 1)))

/-- In recovery mode only the commands of R492's list, of partition 0, pass what every command must pass; any other known command that is
otherwise in order is refused with NOT_READY. -/
def recoveryGate : Prop := ∀ s op q, s.chip.inRecoveryMode = true →
  (s.chip.gate op q = none → op ∈ [0x0101, 0x0102, 0x0103, 0x0104, 0x0802, 0x0905, 0x0901, 0x0301] ∧ q.part = 0) ∧
  (∀ i f, hostOp i = some (op, q) → s.chip.answers = true → opInfo op = some f → (f.mgmt = true → q.part = 0) → (s.chip.pt q.part).valid = true →
    (s.chip.pt q.part).tearing = false → (if f.ctx then (s.chip.pt q.part).hasCtx q.ctx = true else q.ctx = 0) → f.lo ≤ q.payload.length →
    q.payload.length ≤ f.hi → q.payload.length ≤ s.chip.maxPayload q.port →
    op ∉ [0x0101, 0x0102, 0x0103, 0x0104, 0x0802, 0x0905, 0x0901, 0x0301] → exec i s = .next (after s (s.chip.refuse q (.notReady, none))))

/-- A quarantined context: SLOT_LOAD, and a RUN_START of its right length, naming it are refused with NOT_PERMITTED; its id is given to no new
context; after CTX_DESTROY the id is no longer quarantined. -/
def quarantineRule : Prop := ∀ s q, (s.chip.pt q.part).quarantine q.ctx = true →
  (Taken s 0x0501 q → ∃ off, exec (.slotLoad q) s = .next (after s (s.chip.refuse q (.notPermitted, off)))) ∧
  (Taken s 0x0502 q → q.payload.length = runLen q.payload → ∃ off, exec (.runStart q) s = .next (after s (s.chip.refuse q (.notPermitted, off)))) ∧
  (s.chip.pt q.part).freeCtx ≠ some q.ctx ∧
  (Taken s 0x0205 q → Store.wf {} s.chip.parts = true → Store.wf none (s.chip.pt q.part).contexts = true →
    ∃ t, exec (.ctxDestroy q) s = .next t ∧ (t.chip.pt q.part).quarantine q.ctx = false)

/-- The log of an lcid's semaphore operations takes each in issue order while it holds fewer than 64, and keeps its 64 with the overflow mark
set from the 65th on; the capture that completes empties it and clears the mark. -/
def semLogRule : Prop :=
  (∀ (ch : Chip) c l op, (ch.cl c).lcid = some l → Store.wf {} ch.regions = true → Store.wf {} (ch.rg (regionOf c)).mirror = true →
    let m := (ch.rg (regionOf c)).mir l; let t := ((ch.logSem c op).rg (regionOf c)).mir l
    (m.log.length < 64 → t.log = m.log ++ [op] ∧ t.overflow = m.overflow) ∧ (64 ≤ m.log.length → t.log = m.log ∧ t.overflow = true) ∧ t.current = m.current) ∧
  captureRow

/-! ### Commands that complete: what each comes to, under conditions on the state and its operands alone -/

/-- The plan behind a table to load, when there is one, is in form and holds a record of each CKPT entry; the cluster's plans fit. -/
abbrev PlanOk (s : State) (q : Req) (c : Nat) (plan : List PlanRec) : Prop :=
  let x := slotReq q.payload; let ck := ckptEntries (s.chip.tableAt q.part x.dva x.len)
  (s.chip.planAt q.part (x.dva + 16 * x.len) = none ∧ ck = [] ∧ plan = [] ∧ otherPlans (s.chip.cl c) x.slot ≤ 65536) ∨
  (∃ b, s.chip.planAt q.part (x.dva + 16 * x.len) = some b ∧ let recs := planRecords (b.drop 16) (leAt b 4 2)
    plan = (if x.len = 0 then [] else recs) ∧ (x.len ≠ 0 → planBad b = false) ∧ (∀ i ∈ ck, ∃ r ∈ recs, r.key = i) ∧ (∀ r ∈ recs, r.captured ≤ 221184) ∧
    planBytes recs + otherPlans (s.chip.cl c) x.slot ≤ 65536)

/-- SLOT_LOAD completes for every table in form, with or without a plan: OK, and its slot loaded. -/
def slotLoadCompletes : Prop := ∀ (s : State) (q : Req) (c : Nat) (plan : List PlanRec), Taken s 0x0501 q → SlotOk s q c → PlanOk s q c plan →
  ∃ ch : Chip, exec (.slotLoad q) s = .next (after s (ok (ch.modCl c fun y =>
    y.loadTable (slotReq q.payload) q.part q.ctx (s.chip.tableAt q.part (slotReq q.payload).dva (slotReq q.payload).len) plan) q []))

/-- RUN_START and RUN_CANCEL complete: an accepted command starts its run under the next run id; a run of the sender's is cancelled. -/
def runsComplete : Prop := ∀ (s : State) (q : Req),
  (Taken s 0x0502 q → RunOk s q → ∃ ch : Chip, exec (.runStart q) s = .next (after s (ch.startRun s.clk q (runReq q.payload))) ∧
    ch.nextRun = s.chip.nextRun ∧ ch.works = s.chip.works ++ [work s q 0x0502 (.run s.chip.nextRun)]) ∧
  (∀ r, Taken s 0x0503 q → s.chip.run? (beAt q.payload 0 4) = some r → r.part = q.part → r.ctx = q.ctx →
    ∃ ch : Chip, exec (.runCancel q) s = .next (after s (ch.cancelRun s.clk r)) ∧ ch.runs = s.chip.runs)

/-- What REQ_ADMIT asks: an own handle with a model whose CURRENT epoch is not being released, and ids that are new. -/
abbrev AdmitOk (s : State) (q : Req) : Prop :=
  let b := q.payload; let h := beAt b 0 1; let n := beAt b 4 2; let p := s.chip.pt q.part; let m := s.chip.mdl h
  h < 16 ∧ p.ownsHandle h = true ∧ Zero q 1 3 ∧ Zero q 6 2 ∧ 0 < n ∧ n ≤ 1024 ∧ b.length = 8 + 4 * n ∧ m.valid = true ∧
  (reqIds b 8 n).eraseDups.length = (reqIds b 8 n).length ∧ (∀ i ∈ reqIds b 8 n, p.request? i = none) ∧ (m.ep m.cur).st = .current ∧
  (m.ep m.cur).releasing = false ∧ p.requests.length + n ≤ 16384

/-- REQ_ADMIT and REQ_END complete: every request named is admitted under the handle's CURRENT epoch; admitted ones are ending. -/
def requestsComplete : Prop := ∀ (s : State) (q : Req),
  (Taken s 0x0506 q → AdmitOk s q → Store.wf {} s.chip.parts = true → let b := q.payload
    ∃ ch : Chip, exec (.reqAdmit q) s = .next (after s (ok ch q (toBe ((s.chip.mdl (beAt b 0 1)).ep (s.chip.mdl (beAt b 0 1)).cur).revision 4))) ∧
      ∀ i ∈ reqIds b 8 (beAt b 4 2), ∃ r, (ch.pt q.part).request? i = some r ∧ r.handle = beAt b 0 1 ∧ r.epoch = (s.chip.mdl (beAt b 0 1)).cur ∧ r.ending = false) ∧
  (Taken s 0x0507 q → let b := q.payload; let n := beAt b 0 2; let ids := reqIds b 4 n
    Zero q 2 2 → 0 < n → n ≤ 1024 → b.length = 4 + 4 * n → ids.eraseDups.length = ids.length →
    (∀ i ∈ ids, ∃ r, (s.chip.pt q.part).request? i = some r ∧ r.ending = false) → WorksFit s q →
    ∃ ch : Chip, exec (.reqEnd q) s = .next (after s (ch.reqCheck s.clk q.part)) ∧ ch.works = s.chip.works ++ [work s q 0x0507 (.reqEnd ids)])

/-- RESET completes for each kind of unit: its step is queued for the command. -/
def resetCompletes : Prop := ∀ (s : State) (q : Req) (u : RecUnit), Taken s 0x0901 q → Zero q 1 1 → Zero q 4 4 → s.chip.inRecoveryMode = false ∨ u = .package → WorksFit s q →
  let kind := beAt q.payload 0 1; let id := beAt q.payload 2 2; let p := s.chip.pt q.part
  (kind = 1 ∧ p.hasCtx id = true ∧ u = .ctx q.part id) ∨ (∃ c, kind = 2 ∧ id < 64 ∧ p.ownsLcid id = true ∧ s.chip.pcid id = some c ∧ u = .cluster c) ∨
  (kind = 3 ∧ id < 16 ∧ p.ownsEng id = true ∧ u = .engine id) ∨ (kind = 4 ∧ q.part = 0 ∧ id < 16 ∧ u = .streamEng id) ∨ (kind = 5 ∧ id = q.part ∧ u = .part id) ∨
  (kind = 6 ∧ q.part = 0 ∧ id < 4 ∧ u = .die id) ∨ (kind = 7 ∧ q.part = 0 ∧ id = 0 ∧ u = .package) →
  ∃ ch : Chip, exec (.reset q) s = .next (after s (ch.enqueue { cause := 0, unit := u, detail := 0, seen := s.clk.timebase, works := [s.chip.nextWork] })) ∧
    ch.works = s.chip.works ++ [work s q 0x0901 (.recovery u.code)]

/-- What JOB_SETUP asks (R413, R414, R420). -/
abbrev JobOk (s : State) (q : Req) : Prop :=
  let b := q.payload; let j := jobReq b; let p := s.chip.pt q.part; let f := s.chip.fabric; let live := f.jobs.filter fun e => e.2.valid
  let es := (List.range j.ncoll).map fun i => slice (s.chip.readDva q.part j.coll (48 * j.ncoll)) (48 * i) 48; let tabs := collTables (es.map collEntry)
  (∃ k ∈ p.jobKeys, k.1 = j.job) ∧ f.selfId ∈ j.members ∧ j.root ∈ j.members ∧ (∀ d ∈ j.members, f.inShape d = true) ∧ 1 ≤ j.weight ∧ j.weight ≤ 64 ∧
  Zero q 9 1 ∧ Zero q 81 1 ∧ Zero q 84 4 ∧ (∀ i, i < j.nwin → slice b (96 + 32 * i + 18) 6 = zeros 6) ∧ windowsBad p j.windows = false ∧ windowsLong j.windows = false ∧
  (∀ w ∈ j.windows, w.dev ∈ j.members ∧ w.dev ≠ f.selfId) ∧ s.chip.jobSlot j.job = none ∧
  (∀ e ∈ es, collBad e j.bars = false ∧ (collEntry e).len < 2 ^ 32 ∧ p.ownsSem (collEntry e).region (collEntry e).sem = true) ∧ 1 ≤ j.flows ∧ j.flows ≤ 4096 ∧
  j.timeout ≤ 4000000 ∧ j.ncoll ≤ 256 ∧ j.nwin ≤ 16 ∧ b.length = 96 + 32 * j.nwin ∧ (∀ n ∈ barsOf j.bars, (p.bar n).job = none ∧ (p.bar n).arrived = 0) ∧
  (0 < j.ncoll → p.rangeBad j.coll (48 * j.ncoll) false = false) ∧ (∀ t ∈ tabs, p.rangeBad t 144 false = false ∧ imgValid (s.chip.readDva q.part t 144) = true) ∧
  j.flows + (live.map fun e => e.2.flows).sum ≤ 4096 ∧ tabs.length + (live.map fun e => e.2.tables.length).sum ≤ 8 ∧ f.freeJob ≠ none

/-- JOB_SETUP, JOB_END and FAB_STATUS complete: the job is set up in a free slot; a job of the sender's ends; the ports' status is told. -/
def jobsComplete : Prop := ∀ (s : State) (q : Req),
  (Taken s 0x0A01 q → JobOk s q → ∃ n, s.chip.fabric.freeJob = some n ∧ exec (.jobSetup q) s = .next (after s (ok (s.chip.setupJob q n) q []))) ∧
  (∀ n j, Taken s 0x0A02 q → s.chip.jobSlot (beAt q.payload 0 2) = some (n, j) → j.part = q.part → Zero q 2 2 → WorksFit s q →
    ∃ (ch : Chip) (w : Work), exec (.jobEnd q) s = .next (after s ((ch.endJob s.clk n j).complete s.clk w 0xE001 .ok [])) ∧ w.id = s.chip.nextWork) ∧
  (Taken s 0x0A03 q → ∃ bytes, exec (.fabStatus q) s = .next (after s (ok s.chip q bytes)) ∧ bytes.length = 36)

/-- A step of the ladder is in progress on a unit since now. -/
abbrev InStep (ch : Chip) (k : Clock) (u : RecUnit) : Prop := ∃ x ∈ ch.rcv.steps, x.unit = u ∧ x.startNs = k.localNs

/-- The recovery events complete: with its fault at the head of a free queue each begins its step and acts on its unit; a cluster back from its
collapse is told of; a package fault resets the package. -/
def recoveryEventsComplete : Prop := ∀ (s : State) (f : FaultRec) (pkg : Bool) (c : Chip),
  (∀ p ctx cause, Starts s (.ctx p ctx) cause f pkg c →
    ∃ ch : Chip, InStep ch s.clk f.unit ∧ exec (.contextReset p ctx cause) s = .next (after s (ch.contextReset s.clk p ctx f.quar))) ∧
  (∀ n cause, Starts s (.cluster n) cause f pkg c →
    ∃ ch : Chip, InStep ch s.clk f.unit ∧ exec (.clusterSubstitution n cause) s = .next (after s (ch.replaceCluster s.clk n f))) ∧
  (∀ e cause, Starts s (.engine e) cause f pkg c →
    ∃ ch : Chip, InStep ch s.clk f.unit ∧ exec (.attentionEngineReset e cause) s = .next (after s (ch.modEng e fun y => { y with st := .resetting, work := none }))) ∧
  (∀ r cause, Starts s (.streamEng r) cause f pkg c →
    ∃ ch : Chip, InStep ch s.clk f.unit ∧ exec (.streamEngineReset r cause) s = .next (after s (ch.streamEngineReset s.clk r f))) ∧
  (∀ p cause, Starts s (.part p) cause f pkg c → ∃ ch : Chip, InStep ch s.clk f.unit ∧ exec (.partitionReset p cause) s = .next (after s (ch.partitionReset s.clk p))) ∧
  (∀ d cause sr pats bad, Starts s (.die d) cause f pkg c →
    ∃ ch : Chip, InStep ch s.clk f.unit ∧ exec (.dieReset d cause sr pats bad) s = .next (after s (ch.dieResets s.clk d f sr pats bad))) ∧
  (∀ cause, s.mod.st = .on → s.chip.takeFault .package cause = some (f, pkg, c) ∨ cause = 13 →
    ∃ t, exec (.packageReset cause) s = .next t ∧ t.chip.boot.phase = 1 ∧ t.chip.parts = [] ∧ t.chip.runs = [] ∧ t.mod = s.mod) ∧
  (∀ n since m, (s.chip.cl n).svc = .collapsing since m 1 → 200 ≤ m → (s.chip.cl n).rowsPending = false →
    ∃ ch : Chip, exec (.clusterReintegration n true) s = .next (after s (ch.notice s.clk 1 n)))

/-- The fabric's link events complete: what each leaves at its port. -/
def linkEventsComplete : Prop := ∀ (s : State) (p : Nat), Store.wf {} s.chip.fabric.ports = true → let x := s.chip.prt p
  (∀ m, x.st = .training → ∃ t, exec (.portBringUp p m) s = .next t ∧ (t.chip.prt p).st = if m.lock then .measuring else .failed) ∧
  (x.st = .failed → s.chip.portEnabled p = true → x.cable = true → x.failedAt + 1000000000 ≤ s.clk.localNs →
    ∃ t, exec (.portBringUpRetry p) s = .next t ∧ (t.chip.prt p).st = .training) ∧
  (∀ h, x.st = .hello → Config.ed25519Verify h.idPub (helloSigned h) h.sig = true → h.xs = s.chip.fabric.xs → h.ys = s.chip.fabric.ys → h.zs = s.chip.fabric.zs →
    h.self = s.chip.fabric.partnerOf p → ∃ ch : Chip, exec (.hello p h) s = .next (after s ch.barriersAgain) ∧ (ch.prt p).st = .up ∧ (ch.prt p).partner = h.self) ∧
  (p < 8 → s.chip.portEnabled p = true → x.st = .disabled ∨ x.st = .failed → s.chip.ready = true →
    ∃ t, exec (.cablePresenceChange p true) s = .next t ∧ (t.chip.prt p).st = .training ∧ (t.chip.prt p).cable = true) ∧
  (∀ n, x.st = .up → ∃ t, exec (.hopAcknowledge p n) s = .next t ∧ (t.chip.prt p).replay = x.replay.filter fun f => decide (n < f.1)) ∧
  (∀ n, x.st = .up → (∀ f ∈ x.replay, n ≤ f.1 → f.2.1 < 7) →
    ∃ t, exec (.hopReplayRequest p n) s = .next t ∧ t.chip.wire = s.chip.wire ++ (x.replay.filter fun f => decide (n ≤ f.1)).map fun f => .frame p f.2.2) ∧
  (x.st = .up → (x.ueTimes.filter fun t => decide (s.clk.localNs < t + 1000000)).length < 15 →
    ∃ t, exec (.fecUncorrectable p) s = .next t ∧ (t.chip.prt p).fecUe = satTo 0xFFFF (x.fecUe + 1) ∧ t.chip.wire = s.chip.wire ++ [.control p 1 x.rxHseq]) ∧
  (∀ vc, x.st = .up → (∃ f ∈ x.queue, f.vc = vc) → look 0 x.creditAt vc + 10000 ≤ s.clk.localNs →
    exec (.linkCreditTimeout p vc) s = .next (after s (s.chip.linkFail s.clk p 6))) ∧
  (∀ lost, x.st = .up → lost = true ∨ x.lastCtl + 10000 ≤ s.clk.localNs → exec (.linkSilenceTimeout p lost) s = .next (after s (s.chip.linkFail s.clk p 6))) ∧
  (x.st = .up → (s.chip.nextFrame p).isSome = true →
    ∃ t bytes, exec (.portFrameSend p) s = .next t ∧ t.chip.wire = s.chip.wire ++ [.frame p bytes] ∧ (t.chip.prt p).txHseq = (x.txHseq + 1) % 2 ^ 32) ∧
  (∀ m, x.st = .measuring → ∃ t, exec (.portBringUp p m) s = .next t ∧ (t.chip.prt p).st = if (linkBad m).isNone then .hello else .failed)

/-- Step ends, watchdogs, the tally and suspects complete. -/
def ladderEventsComplete : Prop := ∀ (s : State),
  (∀ id x, (s.chip.rcv.steps.find? fun y => y.id = id) = some x → s.chip.ready = true →
    let ch := ({ s.chip with rcv := { s.chip.rcv with steps := s.chip.rcv.steps.filter fun y => y.id ≠ id } }.unitDone s.clk x.unit).writeDumps s.clk
    let ch := x.parts.foldl (fun c p =>
      (c.modPt p fun y => { y with recovering := c.rcv.steps.any fun z => decide (3 ≤ z.unit.code) && decide (p ∈ z.parts) }).resumeCtxs s.clk p) ch
    let ch := if x.cause = 0 then ch else ch.faultEvent s.clk x.parts x.cause 1 x.unit x.detail
    exec (.recoveryStepComplete id) s = .next (after s (x.works.foldl (fun c i => match c.work? i with | some w => c.complete s.clk w 0xE001 .ok [] | none => c) ch))) ∧
  (∀ id x, (s.chip.rcv.steps.find? fun y => y.id = id) = some x → x.startNs + stepWatchdog x.unit.code ≤ s.clk.localNs → x.unit ≠ .package →
    exec (.stepWatchdogExpiry id) s = .next (after s (s.chip.escalateStep s.clk x 14))) ∧
  (∀ t, s.chip.rcv.resetAt = some t → t + 8000000000 ≤ s.clk.localNs → s.chip.boot.mgmtStarted = false →
    ∃ u, exec .mgmtStartTimeout s = .next u ∧ u.mod = { s.mod with pcReq := true } ∧ u.chip.rcv.resetAt = none) ∧
  (s.chip.ready = true → s.chip.rcv.lastScan + 100000 ≤ s.clk.localNs → s.chip.rcv.suspects = [] → (s.chip.scanTable.all fun r => r.live) = true →
    ∃ t, exec .tallyScan s = .next t ∧ t.chip.rcv.table = s.chip.scanTable ∧ t.chip.rcv.scans = satTo 0xFFFFFFFF (s.chip.rcv.scans + 1) ∧ t.chip.rcv.lastScan = s.clk.localNs) ∧
  (∀ p ctx, (s.chip.rcv.suspects.find? fun x => x.2.2.waits) = some (p, ctx, .todo) →
    ∃ t, exec (.suspectReplay p ctx) s = .next t ∧ t.chip.rcv.table = []) ∧
  (∀ p ctx y, look none (s.chip.pt p).contexts ctx = some y → (s.chip.pt p).valid = true → y.pausedAt = none → y.held = false →
    y.restart + (s.chip.pt p).wdog * 1000 ≤ s.clk.localNs → (s.chip.startedSlots p ctx ≠ [] ∨ s.chip.startedTasks p ctx ≠ []) →
    ∃ ch : Chip, exec (.noProgressWatchdog p ctx) s = .next (after s (ch.fault s.clk 11 (.ctx p ctx) 0)))

end Sys2Proof.Claims

/-- A step runs the command at the front of the queue. -/
def Obligations.StepRunsFront : Prop :=
  ∀ (i : Instr) (s : State), step { s with pending := i :: s.pending } = exec i s

/-- On an empty queue one nanosecond passes (the model's choice, log entry 2). -/
def Obligations.IdleStepPassesOneNanosecond : Prop :=
  Claims.idleTick

/-- Every command answers a next state and leaves the queue alone. -/
def Obligations.EveryCommandAnswers : Prop :=
  Claims.everyCommandAnswers

/-- Host commands: silence, then the gate, before anything else. -/
def Obligations.HostGateComesFirst : Prop :=
  Claims.hostGate

/-- Recovery mode accepts its listed commands only; every other is refused with NOT_READY (R389). -/
def Obligations.RecoveryModeRefusesTheRest : Prop :=
  Claims.recoveryGate

/-- A quarantined context: SLOT_LOAD and RUN_START refused, its id kept, until CTX_DESTROY (R472). -/
def Obligations.QuarantinedContextRefused : Prop :=
  Claims.quarantineRule

/-- Over every step the clocks go forward, the timebase in its 64 bits. -/
def Obligations.ClocksNeverRunBack : Prop :=
  Claims.clocksForward

/-- Every step keeps the invariant of the pins and power states. -/
def Obligations.PinsInvariantKept : Prop :=
  Claims.pinsKept

/-- Reset meets the pins invariant. -/
def Obligations.ResetLeavesPinsInvariant : Prop :=
  Claims.PinsInv State.reset.mod

/-- What reset leaves. -/
def Obligations.ResetValues : Prop :=
  Claims.resetValues

/-- A lockout drops the rails, sets its bit and lasts until PWR_EN falls (R504). -/
def Obligations.LockoutFaultsOff : Prop :=
  Claims.lockoutRule

/-- RESET_N resets the package and holds boot at step 2 (R507). -/
def Obligations.ResetNHoldsBoot : Prop :=
  Claims.resetNRule

/-- A power cycle is requested in exactly the two cases (R454). -/
def Obligations.PowerCycleRequest : Prop :=
  Claims.powerCycle

/-- ALERT_N and the Alert Response Address (R510). -/
def Obligations.AlertLine : Prop :=
  Claims.alertLine

/-- The power ladder and a single-owner die (R430, R432). -/
def Obligations.LadderAndSingleOwnerDie : Prop :=
  Claims.ladderDie

/-- The semaphore log of an lcid and its overflow mark (R460). -/
def Obligations.SemaphoreLog : Prop :=
  Claims.semLogRule

/-- Duty d delivers d of every 16 edges. -/
def Obligations.DutyDeliversItsCount : Prop :=
  Claims.dutyCount

/-- The ladder step that a loop boundary chooses. -/
def Obligations.LadderStepRule : Prop :=
  Claims.ladderRule

/-- HBM reads back what was written and only that. -/
def Obligations.MemoryRoundTrip : Prop :=
  Claims.memoryRoundTrip

/-- The first-choice route arrives over the shorter way of each ring. -/
def Obligations.RouteArrivesByShortestRings : Prop :=
  Claims.routeArrives

/-- Fields of a schedule entry leave memory, flash, models, keys, pins and clocks; control fields leave pins and clocks. -/
def Obligations.ScheduleEntriesLeaveTheRest : Prop :=
  Claims.entriesLeave

/-- The offer that takes a wheel position is ahead of all others. -/
def Obligations.FirstOfferWins : Prop :=
  Claims.bestOfferFirst

/-- NEXT, LOOP, ENDLOOP, END, PHASE_HINT and the four no-operations. -/
def Obligations.SequencerRows : Prop :=
  Claims.actMark ∧ Claims.entryOverRule ∧ Claims.nextRow ∧ Claims.loopRow ∧ Claims.endLoopRow ∧ Claims.endSlotRow ∧ Claims.phaseHintRow ∧
  Claims.nopRows ∧ Claims.badLevel ∧ Claims.notDueRows ∧ Claims.illegalEntry ∧ Claims.loneField ∧ Claims.wholeEntry ∧ Claims.illegalSlot

/-- LI, LUI, ADD, SUB, ADDI, AND, OR, XOR, SHL, SHR, RDREG, WREG, LDN, STN. -/
def Obligations.ScalarRows : Prop :=
  Claims.liRow ∧ Claims.luiRow ∧ Claims.addRow ∧ Claims.subRow ∧ Claims.addiRow ∧ Claims.andRow ∧ Claims.orRow ∧ Claims.xorRow ∧ Claims.shlRow ∧
  Claims.shrRow ∧ Claims.rdregRow ∧ Claims.wregRow ∧ Claims.ldnRow ∧ Claims.stnRow

/-- ACCRD and the 21 arithmetic rows of the vector unit. -/
def Obligations.VectorRows : Prop :=
  Claims.accrdRow ∧ Claims.vaddRow ∧ Claims.vsubRow ∧ Claims.vmulRow ∧ Claims.vfmaRow ∧ Claims.vmaxRow ∧ Claims.vminRow ∧ Claims.vaddsRow ∧
  Claims.vmulsRow ∧ Claims.vexp2Row ∧ Claims.vexpRow ∧ Claims.vrcpRow ∧ Claims.vrsqrtRow ∧ Claims.vdivRow ∧ Claims.vsumrRow ∧ Claims.vmaxrRow ∧
  Claims.vabsRow ∧ Claims.vnegRow ∧ Claims.vcvtifRow ∧ Claims.vcvtfiRow ∧ Claims.viaddRow ∧ Claims.vmovRow

/-- VLD and VST. -/
def Obligations.VectorMemoryRows : Prop :=
  Claims.vldRow ∧ Claims.vstRow ∧ Claims.vecMisaligned

/-- FRONT, ISSUE and MODE. -/
def Obligations.ArrayRows : Prop :=
  Claims.frontRow ∧ Claims.issueEmptyRow ∧ Claims.issueRow ∧ Claims.modeRow

/-- WAITSEM, SIGSEM, WAIT_SATISFIED, WAIT_BUDGET_EXPIRY and stale messages. -/
def Obligations.SemaphoreRows : Prop :=
  Claims.cancelAtWait ∧ Claims.satisfyRule ∧ Claims.takeWaitRule ∧ Claims.waitsemRow ∧ Claims.semTurn ∧ Claims.sigsemRow ∧ Claims.waitSatisfiedRow ∧
  Claims.waitBudgetRow ∧ Claims.staleRows

/-- ARRIVE, WAITBAR, ARRWAIT, CKPT, BARRIER_RELEASE and FILLER_RAMP_DOWN_START. -/
def Obligations.BarrierRows : Prop :=
  Claims.arriveRow ∧ Claims.waitbarRow ∧ Claims.barTurn ∧ Claims.arrwaitRow (fun c e b d => .arrwait c e b d) false ∧
  Claims.arrwaitRow (fun c e b d => .ckpt c e b d) true ∧ Claims.barrierReleaseRow ∧ Claims.releaseDueRule ∧ Claims.fillerRampRow

/-- WAITHALF, RELHALF, SWAP and YIELDPT. -/
def Obligations.HalfAndSwapRows : Prop :=
  Claims.waithalfRow ∧ Claims.halfTurn ∧ Claims.relhalfRow ∧ Claims.handOverRule ∧ Claims.swapRow ∧ Claims.yieldptRow

/-- HEARTBEAT, HEARTBEAT_LOSS and CHECKPOINT_CAPTURE_COMPLETE. -/
def Obligations.HeartbeatAndCaptureRows : Prop :=
  Claims.heartbeatRow ∧ Claims.heartbeatLossRow ∧ Claims.captureRow

/-- HOST_DATAGRAM_ARRIVAL, the session commands and ATTEST. -/
def Obligations.SessionRows : Prop :=
  Claims.datagramRow ∧ Claims.datagramDrops ∧ Claims.datagramSealed ∧ Claims.sessionOpenRow ∧ Claims.sessionConfirmRow ∧ Claims.sessionCloseRow ∧
  Claims.sessionLapseRow ∧ Claims.attestRow

/-- KEY_PUT, KEY_DROP, DBG_OPEN, DBG_CLOSE, DBG_READ, DBG_WRITE. -/
def Obligations.KeyAndDebugRows : Prop :=
  Claims.keyPutRow ∧ Claims.keyDropRow ∧ Claims.dbgPortRows ∧ Claims.dbgMemRows

/-- PAR_CREATE, PAR_SET, PAR_DESTROY, TEARDOWN_COMPLETE, CTX_CREATE, CTX_DESTROY. -/
def Obligations.PartitionRows : Prop :=
  Claims.parCreateRow ∧ Claims.parCreateDebug ∧ Claims.parSetRow ∧ Claims.parDestroyRow ∧ Claims.teardownRow ∧ Claims.ctxCreateRow ∧
  Claims.ctxDestroyRow

/-- COLLAPSE_SUPPLY_SAMPLE and COLLAPSE_FAILURE. -/
def Obligations.CollapseRows : Prop :=
  Claims.supplySampleRow ∧ Claims.collapsedCluster ∧ Claims.collapseFailureRow

/-- MEM_MAP, MEM_UNMAP, MEM_PROTECT, TRANSLATION_CHANGE_COMPLETE, MEM_WRITE, MEM_READ. -/
def Obligations.MemoryCommandRows : Prop :=
  Claims.memMapRow ∧ Claims.memUnmapRow ∧ Claims.memProtectRow ∧ Claims.translationChangeRow ∧ Claims.memWriteRow ∧ Claims.memReadRow

/-- REG_READ, REG_WRITE, the register writes and what they start. -/
def Obligations.RegisterRows : Prop :=
  Claims.regReadRow ∧ Claims.regWriteRow ∧ Claims.registerWriteRow ∧ Claims.registerEventRows ∧ Claims.registerEffects ∧ Claims.fillCopyRows ∧
  Claims.fillChunkRow ∧ Claims.fillCompleteRow ∧ Claims.bankOnRow

/-- MODEL_STAGE, MODEL_LOAD, MODEL_UNLOAD, SWITCH_WEIGHTS, EPOCH_RELEASE. -/
def Obligations.ModelRows : Prop :=
  Claims.modelStageRow ∧ Claims.modelLoadRow ∧ Claims.modelUnloadRow ∧ Claims.switchWeightsRow ∧ Claims.epochReleaseRow

/-- The shard rows: tries, placing, completion, retry, re-hash and peers. -/
def Obligations.ShardRows : Prop :=
  Claims.shardPutRow ∧ Claims.shardTimeoutRow ∧ Claims.shardCompleteRow ∧ Claims.shardPlacedRow ∧ Claims.loadCompleteRow ∧ Claims.shardRetryRow ∧
  Claims.rehashDueRow ∧ Claims.rehashCompleteRow ∧ Claims.peerRequestRow ∧ Claims.peerMismatchRow

/-- TABLE_LOAD, TABLE_CLEAR, TABLE_LOAD_COMPLETE, TABLE_BUILD, TABLE_BUILD_COMPLETE. -/
def Obligations.TableRows : Prop :=
  Claims.tableRows ∧ Claims.tableLoadDoneRow ∧ Claims.tableBuildRow ∧ Claims.tableBuildDoneRow

/-- SLOT_LOAD, RUN_START, RUN_CANCEL, REQ_ADMIT, REQ_END. -/
def Obligations.RunRows : Prop :=
  Claims.slotLoadRow ∧ Claims.slotLoaded ∧ Claims.runStartRow ∧ Claims.slotBegins ∧ Claims.runCancelRow ∧ Claims.cancelledSlot ∧ Claims.reqAdmitRow ∧
  Claims.reqEndRow

/-- STREAM_ARM, STREAM_WITHDRAW, HALF_DEADLINE, STREAM_IDLE_RETURN. -/
def Obligations.StreamRows : Prop :=
  Claims.streamArmRow ∧ Claims.streamWithdrawRow ∧ Claims.halfDeadlineRow ∧ Claims.streamIdleRow

/-- WHEEL_POSITION, STREAM_REQUEST_COMPLETE, TRANSLATION_WALK_COMPLETE. -/
def Obligations.WheelRows : Prop :=
  Claims.wheelPositionRow ∧ Claims.streamRequestRow ∧ Claims.walkRow

/-- BLOCK_EMISSION and OUTBOUND_BLOCK_CODING. -/
def Obligations.CodecRows : Prop :=
  Claims.blockEmissionRow ∧ Claims.outboundRow

/-- KV_CREATE, KV_COPY, KV_DESTROY, KV_TRUNCATE, KV_SET, KV_QUERY, KV_CARRY_OUT. -/
def Obligations.KvRows : Prop :=
  Claims.kvNewRow ∧ Claims.kvChangeRow ∧ Claims.kvQueryRow ∧ Claims.kvCarryRow

/-- ATTENTION_TASK_READY and ATTENTION_TASK_COMPLETE. -/
def Obligations.AttentionRows : Prop :=
  Claims.taskReadyRow ∧ Claims.taskCompleteRow

/-- LIFT_COMPLETE, DROP_COMPLETE, FLASH_SECTOR_READ_COMPLETE, FLASH_PAGE_REWRITE_COMPLETE, FRAME_ZEROED. -/
def Obligations.LedgerAndFlashRows : Prop :=
  Claims.liftRow ∧ Claims.dropRow ∧ Claims.sectorReadRow ∧ Claims.otherSectorRow ∧ Claims.sectorCounts ∧ Claims.rewriteRow ∧ Claims.zeroedRow ∧
  Claims.zeroedBytes

/-- Refresh, maintenance, calibration and data-rate points of the stacks. -/
def Obligations.StackRows : Prop :=
  Claims.refreshRow ∧ Claims.makeupRow ∧ Claims.maintenanceRow ∧ Claims.calibrationRow ∧ Claims.hbmPointRow ∧ Claims.pointDoneRow

/-- PWR_CAP, PWR_QUERY, POWER_SAMPLE, LOOP_BOUNDARY, OPP_SWITCH, OPP_TRANSITION_END. -/
def Obligations.PowerRows : Prop :=
  Claims.pwrCapRow ∧ Claims.pwrQueryRow ∧ Claims.powerSampleRow ∧ Claims.loopBoundaryRow ∧ Claims.oppSwitchRow ∧ Claims.oppEndRow

/-- TEL_SET, TELEMETRY_PERIOD, EVT_ACK, EVENT_RESEND, the time and host-port events. -/
def Obligations.TelemetryAndTimeRows : Prop :=
  Claims.telSetRow ∧ Claims.telemetryRow ∧ Claims.evtAckRow ∧ Claims.resendRow ∧ Claims.timeSyncRow ∧ Claims.timeLossRow ∧ Claims.linkChangeRow

/-- CKPT_WRITE, CKPT_READ, their completion, DUMP_READ, FLASH_UPDATE and the record writes. -/
def Obligations.CheckpointAndFlashUpdateRows : Prop :=
  Claims.ckptRows ∧ Claims.ckptDoneRow ∧ Claims.dumpReadRow ∧ Claims.flashUpdateRow ∧ Claims.flashDoneRow ∧ Claims.repairWriteRow

/-- The module's pin, supply, trip, sideband and debug-connector events. -/
def Obligations.ModulePinRows : Prop :=
  Claims.pwrRiseRow ∧ Claims.pwrFallRow ∧ Claims.offHoldRow ∧ Claims.vinRangeRow ∧ Claims.lockoutRow ∧ Claims.vauxRow ∧ Claims.tripRow ∧
  Claims.tripEndRow ∧ Claims.resetNRow ∧ Claims.smbusRow ∧ Claims.alertRow ∧ Claims.scanRow

/-- BOOT_SEQUENCE, recovery causes and BOOT_READY. -/
def Obligations.BootRows : Prop :=
  Claims.bootRow ∧ Claims.recoveryCause ∧ Claims.bootReadyRow

/-- Port bring-up, hello, cables and the link layer. -/
def Obligations.LinkRows : Prop :=
  Claims.bringUpRow ∧ Claims.retryRow ∧ Claims.helloRow ∧ Claims.cableRow ∧ Claims.hopAckRow ∧ Claims.hopReplayRow ∧ Claims.fecRow ∧
  Claims.linkTimeoutRows ∧ Claims.frameSendRow

/-- Frames, flows, barrier frames, job timeouts and collectives. -/
def Obligations.FrameRows : Prop :=
  Claims.barrierFirst ∧ Claims.frameInRow ∧ Claims.flowAckRow ∧ Claims.flowResendRows ∧ Claims.barrierFrameRow ∧ Claims.jobTimeoutRow ∧
  Claims.collectiveRow

/-- JOB_SETUP, JOB_END, FAB_STATUS. -/
def Obligations.JobRows : Prop :=
  Claims.jobSetupRow ∧ Claims.jobEndRow ∧ Claims.fabStatusRow

/-- The steps of the ladder, substitution, reintegration and RESET. -/
def Obligations.RecoveryStepRows : Prop :=
  Claims.resetRows ∧ Claims.stepRows ∧ Claims.detections ∧ Claims.substitution ∧ Claims.reserveRule ∧ Claims.standsIn ∧ Claims.fencedCluster ∧
  Claims.restoredCluster ∧ Claims.reintegrationRow ∧ Claims.resetRow ∧ Claims.resetKinds

/-- Package reset, step ends and watchdogs, the tally and the no-progress watchdog. -/
def Obligations.PackageAndHangRows : Prop :=
  Claims.packageRow ∧ Claims.packageLeaves ∧ Claims.stepCompleteRow ∧ Claims.stepWatchdogRow ∧ Claims.mgmtTimeoutRow ∧ Claims.tallyRow ∧
  Claims.suspectRow ∧ Claims.noProgressRow

/-- SLOT_LOAD, RUN_START, RUN_CANCEL, REQ_ADMIT, REQ_END, RESET, JOB_SETUP, JOB_END and FAB_STATUS complete. -/
def Obligations.RunJobAndResetCommandsComplete : Prop :=
  Claims.slotLoadCompletes ∧ Claims.runsComplete ∧ Claims.requestsComplete ∧ Claims.resetCompletes ∧ Claims.jobsComplete

/-- The events of the ladder, the links, the watchdogs and the tally complete. -/
def Obligations.RecoveryAndLinkEventsComplete : Prop :=
  Claims.recoveryEventsComplete ∧ Claims.linkEventsComplete ∧ Claims.ladderEventsComplete
end

