-- ==== Sys2Proof/Laws/Store.lean ====
section
/-! SUPPORT. Laws of the sparse stores: what look, put and upd give, and that put and upd keep the canonical form. -/

namespace Sys2Proof.Machine

variable {α : Type} [DecidableEq α]

omit [DecidableEq α] in
@[simp] theorem look_nil (d : α) (i : Nat) : look d [] i = d := rfl

theorem look_put_ne (d : α) (m : Store α) {i j : Nat} (v : α) (h : j ≠ i) : look d (put d m i v) j = look d m j := by
  induction m with
  | nil => by_cases hv : v = d <;> simp [put, look, hv, h.symm]
  | cons a t ih =>
    obtain ⟨k, w⟩ := a
    simp only [put]
    split
    · split <;> simp [look, h.symm]
    · split
      · rename_i hk; subst hk; split <;> simp [look, h.symm]
      · simp only [look, ih]

/-- A key written with a value other than the default reads as that value. -/
theorem look_put_of_ne (d : α) (m : Store α) (i : Nat) {v : α} (h : v ≠ d) : look d (put d m i v) i = v := by
  induction m with
  | nil => simp [put, look, h]
  | cons a t ih =>
    obtain ⟨k, w⟩ := a
    simp only [put]
    split
    · simp [look]
    · split
      · simp [look]
      · rename_i h1 h2; simp only [look, ih]; rw [if_neg (fun e => h2 e.symm)]

/-- The canonical form, as a head below every key of its tail. -/
theorem Store.wf_cons (d : α) (k : Nat) (v : α) (t : Store α) :
    Store.wf d ((k, v) :: t) = true ↔ v ≠ d ∧ (∀ e ∈ t, k < e.1) ∧ Store.wf d t = true := by
  induction t generalizing k v with
  | nil => simp [Store.wf]
  | cons a t ih =>
    obtain ⟨k', w⟩ := a
    simp only [Store.wf, Bool.and_eq_true, decide_eq_true_eq, List.mem_cons, forall_eq_or_imp]
    constructor
    · rintro ⟨⟨hv, hk⟩, hw⟩; exact ⟨hv, ⟨hk, fun e he => lt_trans hk (((ih k' w).1 hw).2.1 e he)⟩, hw⟩
    · rintro ⟨hv, ⟨hk, _⟩, hw⟩; exact ⟨⟨hv, hk⟩, hw⟩

omit [DecidableEq α] in
/-- A key below every key of a store is not listed. -/
theorem look_below (d : α) {m : Store α} {i : Nat} (h : ∀ e ∈ m, i < e.1) : look d m i = d := by
  induction m with
  | nil => rfl
  | cons a t ih =>
    obtain ⟨k, w⟩ := a
    have hk : i < k := h (k, w) (by simp)
    simp only [look]; rw [if_neg (by omega)]; exact ih fun e he => h e (by simp [he])

@[simp] theorem look_put_self {d : α} {m : Store α} (i : Nat) (v : α) (h : Store.wf d m = true) : look d (put d m i v) i = v := by
  by_cases hv : v = d
  · subst hv
    induction m with
    | nil => simp [put]
    | cons a t ih =>
      obtain ⟨k, w⟩ := a
      obtain ⟨_, hb, ht⟩ := (Store.wf_cons v k w t).1 h
      simp only [put, if_true]
      split
      · rename_i hi; exact look_below v (by intro e he; rcases List.mem_cons.1 he with rfl | he; exacts [hi, lt_trans hi (hb e he)])
      · split
        · rename_i hk; subst hk; exact look_below v hb
        · rename_i hk; simp only [look]; rw [if_neg (fun e => hk e.symm)]; exact ih ht
  · exact look_put_of_ne d m i hv

/-- What put reads as, at every key. -/
theorem look_put {d : α} {m : Store α} (i : Nat) (v : α) (h : Store.wf d m = true) (j : Nat) :
    look d (put d m i v) j = if j = i then v else look d m j := by
  by_cases hj : j = i
  · subst hj; simp [look_put_self j v h]
  · simp [hj, look_put_ne d m v hj]

/-- Every key of a store after put is the key written or an old one. -/
theorem put_keys (d : α) (m : Store α) (i : Nat) (v : α) : ∀ e ∈ put d m i v, e.1 = i ∨ ∃ w, (e.1, w) ∈ m := by
  induction m with
  | nil => intro e he; simp only [put] at he; split at he <;> simp_all
  | cons a t ih =>
    obtain ⟨k, w⟩ := a
    intro e he
    simp only [put] at he
    split at he
    · split at he
      · exact .inr ⟨e.2, he⟩
      · rcases List.mem_cons.1 he with rfl | he; exacts [.inl rfl, .inr ⟨e.2, he⟩]
    · split at he
      · split at he
        · exact .inr ⟨e.2, by simp [he]⟩
        · rcases List.mem_cons.1 he with rfl | he; exacts [.inl rfl, .inr ⟨e.2, by simp [he]⟩]
      · rcases List.mem_cons.1 he with rfl | he
        · exact .inr ⟨w, by simp⟩
        · rcases ih e he with h | ⟨u, hu⟩; exacts [.inl h, .inr ⟨u, by simp [hu]⟩]

/-- put keeps the canonical form. -/
theorem put_wf {d : α} {m : Store α} (i : Nat) (v : α) (h : Store.wf d m = true) : Store.wf d (put d m i v) = true := by
  induction m with
  | nil => simp only [put]; split <;> simp_all [Store.wf]
  | cons a t ih =>
    obtain ⟨k, w⟩ := a
    obtain ⟨hw, hb, ht⟩ := (Store.wf_cons d k w t).1 h
    simp only [put]
    split
    · rename_i hi
      split
      · exact h
      · rename_i hv
        exact (Store.wf_cons ..).2 ⟨hv, by intro e he; rcases List.mem_cons.1 he with rfl | he; exacts [hi, lt_trans hi (hb e he)], h⟩
    · split
      · rename_i hk; subst hk
        split
        · exact ht
        · rename_i hv; exact (Store.wf_cons ..).2 ⟨hv, hb, ht⟩
      · rename_i h1 h2
        refine (Store.wf_cons ..).2 ⟨hw, fun e he => ?_, ih ht⟩
        rcases put_keys d t i v e he with h' | ⟨u, hu⟩
        · omega
        · exact hb (e.1, u) hu

theorem look_upd {d : α} {m : Store α} (i : Nat) (f : α → α) (h : Store.wf d m = true) (j : Nat) :
    look d (upd d m i f) j = if j = i then f (look d m i) else look d m j := look_put i _ h j

theorem look_upd_ne (d : α) (m : Store α) {i j : Nat} (f : α → α) (h : j ≠ i) : look d (upd d m i f) j = look d m j := look_put_ne d m _ h

theorem upd_wf {d : α} {m : Store α} (i : Nat) (f : α → α) (h : Store.wf d m = true) : Store.wf d (upd d m i f) = true := put_wf i _ h

/-- A filter keeps the canonical form. -/
theorem filter_wf {d : α} {m : Store α} (p : Nat × α → Bool) (h : Store.wf d m = true) : Store.wf d (m.filter p) = true := by
  induction m with
  | nil => simp [Store.wf]
  | cons a t ih =>
    obtain ⟨k, w⟩ := a
    obtain ⟨hw, hb, ht⟩ := (Store.wf_cons d k w t).1 h
    simp only [List.filter_cons]
    split
    · exact (Store.wf_cons ..).2 ⟨hw, fun e he => hb e (List.mem_filter.1 he).1, ih ht⟩
    · exact ih ht

/-- Two stores in canonical form that read alike at every key are the same data. -/
theorem Store.ext_of_look {d : α} {m n : Store α} (hm : Store.wf d m = true) (hn : Store.wf d n = true) (h : ∀ i, look d m i = look d n i) : m = n := by
  induction m generalizing n with
  | nil =>
    cases n with
    | nil => rfl
    | cons b u =>
      obtain ⟨k, w⟩ := b
      exact absurd (by simpa [look] using (h k).symm) ((Store.wf_cons ..).1 hn).1
  | cons a t ih =>
    obtain ⟨k, v⟩ := a
    obtain ⟨hv, hb, ht⟩ := (Store.wf_cons ..).1 hm
    cases n with
    | nil => exact absurd (by simpa [look] using h k) hv
    | cons b u =>
      obtain ⟨k', v'⟩ := b
      obtain ⟨hv', hb', hu⟩ := (Store.wf_cons ..).1 hn
      have hk : k = k' := by
        rcases lt_trichotomy k k' with hlt | heq | hgt
        · have := h k
          rw [show look d ((k, v) :: t) k = v by simp [look], look_below d (by intro e he; rcases List.mem_cons.1 he with rfl | he; exacts [hlt, lt_trans hlt (hb' e he)])] at this
          exact absurd this hv
        · exact heq
        · have := h k'
          rw [show look d ((k', v') :: u) k' = v' by simp [look], look_below d (by intro e he; rcases List.mem_cons.1 he with rfl | he; exacts [hgt, lt_trans hgt (hb e he)])] at this
          exact absurd this.symm hv'
      subst hk
      have hvv : v = v' := by simpa [look] using h k
      subst hvv
      rw [ih ht hu fun i => ?_]
      by_cases hi : i = k
      · subst hi; rw [look_below d hb, look_below d hb']
      · have := h i; simpa [look, Ne.symm hi] using this

end Sys2Proof.Machine
end

