-- ==== Sys2Proof/Laws/State.lean ====
section
/-! SUPPORT. What the updates of State leave: one lemma per field per update, and what the part updated reads as. -/

namespace Sys2Proof.Machine

/-! ### Fields an update leaves -/

@[simp] theorem Chip.modCl_dies (ch : Chip) (c : Nat) (f : Cluster → Cluster) : (ch.modCl c f).dies = ch.dies := rfl
@[simp] theorem Chip.modCl_regions (ch : Chip) (c : Nat) (f : Cluster → Cluster) : (ch.modCl c f).regions = ch.regions := rfl
@[simp] theorem Chip.modCl_parts (ch : Chip) (c : Nat) (f : Cluster → Cluster) : (ch.modCl c f).parts = ch.parts := rfl
@[simp] theorem Chip.modCl_hbms (ch : Chip) (c : Nat) (f : Cluster → Cluster) : (ch.modCl c f).hbms = ch.hbms := rfl
@[simp] theorem Chip.modCl_hbm (ch : Chip) (c : Nat) (f : Cluster → Cluster) : (ch.modCl c f).hbm = ch.hbm := rfl
@[simp] theorem Chip.modCl_hbmErr (ch : Chip) (c : Nat) (f : Cluster → Cluster) : (ch.modCl c f).hbmErr = ch.hbmErr := rfl
@[simp] theorem Chip.modCl_frames (ch : Chip) (c : Nat) (f : Cluster → Cluster) : (ch.modCl c f).frames = ch.frames := rfl
@[simp] theorem Chip.modCl_ledger (ch : Chip) (c : Nat) (f : Cluster → Cluster) : (ch.modCl c f).ledger = ch.ledger := rfl
@[simp] theorem Chip.modCl_flash (ch : Chip) (c : Nat) (f : Cluster → Cluster) : (ch.modCl c f).flash = ch.flash := rfl
@[simp] theorem Chip.modCl_models (ch : Chip) (c : Nat) (f : Cluster → Cluster) : (ch.modCl c f).models = ch.models := rfl
@[simp] theorem Chip.modCl_seqs (ch : Chip) (c : Nat) (f : Cluster → Cluster) : (ch.modCl c f).seqs = ch.seqs := rfl
@[simp] theorem Chip.modCl_wheels (ch : Chip) (c : Nat) (f : Cluster → Cluster) : (ch.modCl c f).wheels = ch.wheels := rfl
@[simp] theorem Chip.modCl_wheelOrder (ch : Chip) (c : Nat) (f : Cluster → Cluster) : (ch.modCl c f).wheelOrder = ch.wheelOrder := rfl
@[simp] theorem Chip.modCl_lcidMap (ch : Chip) (c : Nat) (f : Cluster → Cluster) : (ch.modCl c f).lcidMap = ch.lcidMap := rfl
@[simp] theorem Chip.modCl_runs (ch : Chip) (c : Nat) (f : Cluster → Cluster) : (ch.modCl c f).runs = ch.runs := rfl
@[simp] theorem Chip.modCl_nextRun (ch : Chip) (c : Nat) (f : Cluster → Cluster) : (ch.modCl c f).nextRun = ch.nextRun := rfl
@[simp] theorem Chip.modCl_works (ch : Chip) (c : Nat) (f : Cluster → Cluster) : (ch.modCl c f).works = ch.works := rfl
@[simp] theorem Chip.modCl_nextWork (ch : Chip) (c : Nat) (f : Cluster → Cluster) : (ch.modCl c f).nextWork = ch.nextWork := rfl
@[simp] theorem Chip.modCl_host (ch : Chip) (c : Nat) (f : Cluster → Cluster) : (ch.modCl c f).host = ch.host := rfl
@[simp] theorem Chip.modCl_sec (ch : Chip) (c : Nat) (f : Cluster → Cluster) : (ch.modCl c f).sec = ch.sec := rfl
@[simp] theorem Chip.modCl_boot (ch : Chip) (c : Nat) (f : Cluster → Cluster) : (ch.modCl c f).boot = ch.boot := rfl
@[simp] theorem Chip.modCl_fabric (ch : Chip) (c : Nat) (f : Cluster → Cluster) : (ch.modCl c f).fabric = ch.fabric := rfl
@[simp] theorem Chip.modCl_power (ch : Chip) (c : Nat) (f : Cluster → Cluster) : (ch.modCl c f).power = ch.power := rfl
@[simp] theorem Chip.modCl_rcv (ch : Chip) (c : Nat) (f : Cluster → Cluster) : (ch.modCl c f).rcv = ch.rcv := rfl
@[simp] theorem Chip.modCl_wire (ch : Chip) (c : Nat) (f : Cluster → Cluster) : (ch.modCl c f).wire = ch.wire := rfl
@[simp] theorem Chip.modCl_free (ch : Chip) (c : Nat) (f : Cluster → Cluster) : (ch.modCl c f).free = ch.free := rfl

@[simp] theorem Chip.modDie_clusters (ch : Chip) (d : Nat) (f : Die → Die) : (ch.modDie d f).clusters = ch.clusters := rfl
@[simp] theorem Chip.modDie_regions (ch : Chip) (d : Nat) (f : Die → Die) : (ch.modDie d f).regions = ch.regions := rfl
@[simp] theorem Chip.modDie_parts (ch : Chip) (d : Nat) (f : Die → Die) : (ch.modDie d f).parts = ch.parts := rfl
@[simp] theorem Chip.modDie_hbms (ch : Chip) (d : Nat) (f : Die → Die) : (ch.modDie d f).hbms = ch.hbms := rfl
@[simp] theorem Chip.modDie_hbm (ch : Chip) (d : Nat) (f : Die → Die) : (ch.modDie d f).hbm = ch.hbm := rfl
@[simp] theorem Chip.modDie_hbmErr (ch : Chip) (d : Nat) (f : Die → Die) : (ch.modDie d f).hbmErr = ch.hbmErr := rfl
@[simp] theorem Chip.modDie_frames (ch : Chip) (d : Nat) (f : Die → Die) : (ch.modDie d f).frames = ch.frames := rfl
@[simp] theorem Chip.modDie_ledger (ch : Chip) (d : Nat) (f : Die → Die) : (ch.modDie d f).ledger = ch.ledger := rfl
@[simp] theorem Chip.modDie_flash (ch : Chip) (d : Nat) (f : Die → Die) : (ch.modDie d f).flash = ch.flash := rfl
@[simp] theorem Chip.modDie_models (ch : Chip) (d : Nat) (f : Die → Die) : (ch.modDie d f).models = ch.models := rfl
@[simp] theorem Chip.modDie_seqs (ch : Chip) (d : Nat) (f : Die → Die) : (ch.modDie d f).seqs = ch.seqs := rfl
@[simp] theorem Chip.modDie_wheels (ch : Chip) (d : Nat) (f : Die → Die) : (ch.modDie d f).wheels = ch.wheels := rfl
@[simp] theorem Chip.modDie_wheelOrder (ch : Chip) (d : Nat) (f : Die → Die) : (ch.modDie d f).wheelOrder = ch.wheelOrder := rfl
@[simp] theorem Chip.modDie_lcidMap (ch : Chip) (d : Nat) (f : Die → Die) : (ch.modDie d f).lcidMap = ch.lcidMap := rfl
@[simp] theorem Chip.modDie_runs (ch : Chip) (d : Nat) (f : Die → Die) : (ch.modDie d f).runs = ch.runs := rfl
@[simp] theorem Chip.modDie_nextRun (ch : Chip) (d : Nat) (f : Die → Die) : (ch.modDie d f).nextRun = ch.nextRun := rfl
@[simp] theorem Chip.modDie_works (ch : Chip) (d : Nat) (f : Die → Die) : (ch.modDie d f).works = ch.works := rfl
@[simp] theorem Chip.modDie_nextWork (ch : Chip) (d : Nat) (f : Die → Die) : (ch.modDie d f).nextWork = ch.nextWork := rfl
@[simp] theorem Chip.modDie_host (ch : Chip) (d : Nat) (f : Die → Die) : (ch.modDie d f).host = ch.host := rfl
@[simp] theorem Chip.modDie_sec (ch : Chip) (d : Nat) (f : Die → Die) : (ch.modDie d f).sec = ch.sec := rfl
@[simp] theorem Chip.modDie_boot (ch : Chip) (d : Nat) (f : Die → Die) : (ch.modDie d f).boot = ch.boot := rfl
@[simp] theorem Chip.modDie_fabric (ch : Chip) (d : Nat) (f : Die → Die) : (ch.modDie d f).fabric = ch.fabric := rfl
@[simp] theorem Chip.modDie_power (ch : Chip) (d : Nat) (f : Die → Die) : (ch.modDie d f).power = ch.power := rfl
@[simp] theorem Chip.modDie_rcv (ch : Chip) (d : Nat) (f : Die → Die) : (ch.modDie d f).rcv = ch.rcv := rfl
@[simp] theorem Chip.modDie_wire (ch : Chip) (d : Nat) (f : Die → Die) : (ch.modDie d f).wire = ch.wire := rfl
@[simp] theorem Chip.modDie_free (ch : Chip) (d : Nat) (f : Die → Die) : (ch.modDie d f).free = ch.free := rfl

@[simp] theorem Chip.modRg_clusters (ch : Chip) (r : Nat) (f : Region → Region) : (ch.modRg r f).clusters = ch.clusters := rfl
@[simp] theorem Chip.modRg_dies (ch : Chip) (r : Nat) (f : Region → Region) : (ch.modRg r f).dies = ch.dies := rfl
@[simp] theorem Chip.modRg_parts (ch : Chip) (r : Nat) (f : Region → Region) : (ch.modRg r f).parts = ch.parts := rfl
@[simp] theorem Chip.modRg_hbms (ch : Chip) (r : Nat) (f : Region → Region) : (ch.modRg r f).hbms = ch.hbms := rfl
@[simp] theorem Chip.modRg_hbm (ch : Chip) (r : Nat) (f : Region → Region) : (ch.modRg r f).hbm = ch.hbm := rfl
@[simp] theorem Chip.modRg_hbmErr (ch : Chip) (r : Nat) (f : Region → Region) : (ch.modRg r f).hbmErr = ch.hbmErr := rfl
@[simp] theorem Chip.modRg_frames (ch : Chip) (r : Nat) (f : Region → Region) : (ch.modRg r f).frames = ch.frames := rfl
@[simp] theorem Chip.modRg_ledger (ch : Chip) (r : Nat) (f : Region → Region) : (ch.modRg r f).ledger = ch.ledger := rfl
@[simp] theorem Chip.modRg_flash (ch : Chip) (r : Nat) (f : Region → Region) : (ch.modRg r f).flash = ch.flash := rfl
@[simp] theorem Chip.modRg_models (ch : Chip) (r : Nat) (f : Region → Region) : (ch.modRg r f).models = ch.models := rfl
@[simp] theorem Chip.modRg_seqs (ch : Chip) (r : Nat) (f : Region → Region) : (ch.modRg r f).seqs = ch.seqs := rfl
@[simp] theorem Chip.modRg_wheels (ch : Chip) (r : Nat) (f : Region → Region) : (ch.modRg r f).wheels = ch.wheels := rfl
@[simp] theorem Chip.modRg_wheelOrder (ch : Chip) (r : Nat) (f : Region → Region) : (ch.modRg r f).wheelOrder = ch.wheelOrder := rfl
@[simp] theorem Chip.modRg_lcidMap (ch : Chip) (r : Nat) (f : Region → Region) : (ch.modRg r f).lcidMap = ch.lcidMap := rfl
@[simp] theorem Chip.modRg_runs (ch : Chip) (r : Nat) (f : Region → Region) : (ch.modRg r f).runs = ch.runs := rfl
@[simp] theorem Chip.modRg_nextRun (ch : Chip) (r : Nat) (f : Region → Region) : (ch.modRg r f).nextRun = ch.nextRun := rfl
@[simp] theorem Chip.modRg_works (ch : Chip) (r : Nat) (f : Region → Region) : (ch.modRg r f).works = ch.works := rfl
@[simp] theorem Chip.modRg_nextWork (ch : Chip) (r : Nat) (f : Region → Region) : (ch.modRg r f).nextWork = ch.nextWork := rfl
@[simp] theorem Chip.modRg_host (ch : Chip) (r : Nat) (f : Region → Region) : (ch.modRg r f).host = ch.host := rfl
@[simp] theorem Chip.modRg_sec (ch : Chip) (r : Nat) (f : Region → Region) : (ch.modRg r f).sec = ch.sec := rfl
@[simp] theorem Chip.modRg_boot (ch : Chip) (r : Nat) (f : Region → Region) : (ch.modRg r f).boot = ch.boot := rfl
@[simp] theorem Chip.modRg_fabric (ch : Chip) (r : Nat) (f : Region → Region) : (ch.modRg r f).fabric = ch.fabric := rfl
@[simp] theorem Chip.modRg_power (ch : Chip) (r : Nat) (f : Region → Region) : (ch.modRg r f).power = ch.power := rfl
@[simp] theorem Chip.modRg_rcv (ch : Chip) (r : Nat) (f : Region → Region) : (ch.modRg r f).rcv = ch.rcv := rfl
@[simp] theorem Chip.modRg_wire (ch : Chip) (r : Nat) (f : Region → Region) : (ch.modRg r f).wire = ch.wire := rfl
@[simp] theorem Chip.modRg_free (ch : Chip) (r : Nat) (f : Region → Region) : (ch.modRg r f).free = ch.free := rfl

@[simp] theorem Chip.modPt_clusters (ch : Chip) (p : Nat) (f : Partition → Partition) : (ch.modPt p f).clusters = ch.clusters := rfl
@[simp] theorem Chip.modPt_dies (ch : Chip) (p : Nat) (f : Partition → Partition) : (ch.modPt p f).dies = ch.dies := rfl
@[simp] theorem Chip.modPt_regions (ch : Chip) (p : Nat) (f : Partition → Partition) : (ch.modPt p f).regions = ch.regions := rfl
@[simp] theorem Chip.modPt_hbms (ch : Chip) (p : Nat) (f : Partition → Partition) : (ch.modPt p f).hbms = ch.hbms := rfl
@[simp] theorem Chip.modPt_hbm (ch : Chip) (p : Nat) (f : Partition → Partition) : (ch.modPt p f).hbm = ch.hbm := rfl
@[simp] theorem Chip.modPt_hbmErr (ch : Chip) (p : Nat) (f : Partition → Partition) : (ch.modPt p f).hbmErr = ch.hbmErr := rfl
@[simp] theorem Chip.modPt_frames (ch : Chip) (p : Nat) (f : Partition → Partition) : (ch.modPt p f).frames = ch.frames := rfl
@[simp] theorem Chip.modPt_ledger (ch : Chip) (p : Nat) (f : Partition → Partition) : (ch.modPt p f).ledger = ch.ledger := rfl
@[simp] theorem Chip.modPt_flash (ch : Chip) (p : Nat) (f : Partition → Partition) : (ch.modPt p f).flash = ch.flash := rfl
@[simp] theorem Chip.modPt_models (ch : Chip) (p : Nat) (f : Partition → Partition) : (ch.modPt p f).models = ch.models := rfl
@[simp] theorem Chip.modPt_seqs (ch : Chip) (p : Nat) (f : Partition → Partition) : (ch.modPt p f).seqs = ch.seqs := rfl
@[simp] theorem Chip.modPt_wheels (ch : Chip) (p : Nat) (f : Partition → Partition) : (ch.modPt p f).wheels = ch.wheels := rfl
@[simp] theorem Chip.modPt_wheelOrder (ch : Chip) (p : Nat) (f : Partition → Partition) : (ch.modPt p f).wheelOrder = ch.wheelOrder := rfl
@[simp] theorem Chip.modPt_lcidMap (ch : Chip) (p : Nat) (f : Partition → Partition) : (ch.modPt p f).lcidMap = ch.lcidMap := rfl
@[simp] theorem Chip.modPt_runs (ch : Chip) (p : Nat) (f : Partition → Partition) : (ch.modPt p f).runs = ch.runs := rfl
@[simp] theorem Chip.modPt_nextRun (ch : Chip) (p : Nat) (f : Partition → Partition) : (ch.modPt p f).nextRun = ch.nextRun := rfl
@[simp] theorem Chip.modPt_works (ch : Chip) (p : Nat) (f : Partition → Partition) : (ch.modPt p f).works = ch.works := rfl
@[simp] theorem Chip.modPt_nextWork (ch : Chip) (p : Nat) (f : Partition → Partition) : (ch.modPt p f).nextWork = ch.nextWork := rfl
@[simp] theorem Chip.modPt_host (ch : Chip) (p : Nat) (f : Partition → Partition) : (ch.modPt p f).host = ch.host := rfl
@[simp] theorem Chip.modPt_sec (ch : Chip) (p : Nat) (f : Partition → Partition) : (ch.modPt p f).sec = ch.sec := rfl
@[simp] theorem Chip.modPt_boot (ch : Chip) (p : Nat) (f : Partition → Partition) : (ch.modPt p f).boot = ch.boot := rfl
@[simp] theorem Chip.modPt_fabric (ch : Chip) (p : Nat) (f : Partition → Partition) : (ch.modPt p f).fabric = ch.fabric := rfl
@[simp] theorem Chip.modPt_power (ch : Chip) (p : Nat) (f : Partition → Partition) : (ch.modPt p f).power = ch.power := rfl
@[simp] theorem Chip.modPt_rcv (ch : Chip) (p : Nat) (f : Partition → Partition) : (ch.modPt p f).rcv = ch.rcv := rfl
@[simp] theorem Chip.modPt_wire (ch : Chip) (p : Nat) (f : Partition → Partition) : (ch.modPt p f).wire = ch.wire := rfl
@[simp] theorem Chip.modPt_free (ch : Chip) (p : Nat) (f : Partition → Partition) : (ch.modPt p f).free = ch.free := rfl

@[simp] theorem Chip.modSk_clusters (ch : Chip) (s : Nat) (f : Stack → Stack) : (ch.modSk s f).clusters = ch.clusters := rfl
@[simp] theorem Chip.modSk_dies (ch : Chip) (s : Nat) (f : Stack → Stack) : (ch.modSk s f).dies = ch.dies := rfl
@[simp] theorem Chip.modSk_regions (ch : Chip) (s : Nat) (f : Stack → Stack) : (ch.modSk s f).regions = ch.regions := rfl
@[simp] theorem Chip.modSk_parts (ch : Chip) (s : Nat) (f : Stack → Stack) : (ch.modSk s f).parts = ch.parts := rfl
@[simp] theorem Chip.modSk_hbm (ch : Chip) (s : Nat) (f : Stack → Stack) : (ch.modSk s f).hbm = ch.hbm := rfl
@[simp] theorem Chip.modSk_hbmErr (ch : Chip) (s : Nat) (f : Stack → Stack) : (ch.modSk s f).hbmErr = ch.hbmErr := rfl
@[simp] theorem Chip.modSk_frames (ch : Chip) (s : Nat) (f : Stack → Stack) : (ch.modSk s f).frames = ch.frames := rfl
@[simp] theorem Chip.modSk_ledger (ch : Chip) (s : Nat) (f : Stack → Stack) : (ch.modSk s f).ledger = ch.ledger := rfl
@[simp] theorem Chip.modSk_flash (ch : Chip) (s : Nat) (f : Stack → Stack) : (ch.modSk s f).flash = ch.flash := rfl
@[simp] theorem Chip.modSk_models (ch : Chip) (s : Nat) (f : Stack → Stack) : (ch.modSk s f).models = ch.models := rfl
@[simp] theorem Chip.modSk_seqs (ch : Chip) (s : Nat) (f : Stack → Stack) : (ch.modSk s f).seqs = ch.seqs := rfl
@[simp] theorem Chip.modSk_wheels (ch : Chip) (s : Nat) (f : Stack → Stack) : (ch.modSk s f).wheels = ch.wheels := rfl
@[simp] theorem Chip.modSk_wheelOrder (ch : Chip) (s : Nat) (f : Stack → Stack) : (ch.modSk s f).wheelOrder = ch.wheelOrder := rfl
@[simp] theorem Chip.modSk_lcidMap (ch : Chip) (s : Nat) (f : Stack → Stack) : (ch.modSk s f).lcidMap = ch.lcidMap := rfl
@[simp] theorem Chip.modSk_runs (ch : Chip) (s : Nat) (f : Stack → Stack) : (ch.modSk s f).runs = ch.runs := rfl
@[simp] theorem Chip.modSk_nextRun (ch : Chip) (s : Nat) (f : Stack → Stack) : (ch.modSk s f).nextRun = ch.nextRun := rfl
@[simp] theorem Chip.modSk_works (ch : Chip) (s : Nat) (f : Stack → Stack) : (ch.modSk s f).works = ch.works := rfl
@[simp] theorem Chip.modSk_nextWork (ch : Chip) (s : Nat) (f : Stack → Stack) : (ch.modSk s f).nextWork = ch.nextWork := rfl
@[simp] theorem Chip.modSk_host (ch : Chip) (s : Nat) (f : Stack → Stack) : (ch.modSk s f).host = ch.host := rfl
@[simp] theorem Chip.modSk_sec (ch : Chip) (s : Nat) (f : Stack → Stack) : (ch.modSk s f).sec = ch.sec := rfl
@[simp] theorem Chip.modSk_boot (ch : Chip) (s : Nat) (f : Stack → Stack) : (ch.modSk s f).boot = ch.boot := rfl
@[simp] theorem Chip.modSk_fabric (ch : Chip) (s : Nat) (f : Stack → Stack) : (ch.modSk s f).fabric = ch.fabric := rfl
@[simp] theorem Chip.modSk_power (ch : Chip) (s : Nat) (f : Stack → Stack) : (ch.modSk s f).power = ch.power := rfl
@[simp] theorem Chip.modSk_rcv (ch : Chip) (s : Nat) (f : Stack → Stack) : (ch.modSk s f).rcv = ch.rcv := rfl
@[simp] theorem Chip.modSk_wire (ch : Chip) (s : Nat) (f : Stack → Stack) : (ch.modSk s f).wire = ch.wire := rfl
@[simp] theorem Chip.modSk_free (ch : Chip) (s : Nat) (f : Stack → Stack) : (ch.modSk s f).free = ch.free := rfl

@[simp] theorem Chip.modFr_clusters (ch : Chip) (i : Nat) (f : Frame → Frame) : (ch.modFr i f).clusters = ch.clusters := rfl
@[simp] theorem Chip.modFr_dies (ch : Chip) (i : Nat) (f : Frame → Frame) : (ch.modFr i f).dies = ch.dies := rfl
@[simp] theorem Chip.modFr_regions (ch : Chip) (i : Nat) (f : Frame → Frame) : (ch.modFr i f).regions = ch.regions := rfl
@[simp] theorem Chip.modFr_parts (ch : Chip) (i : Nat) (f : Frame → Frame) : (ch.modFr i f).parts = ch.parts := rfl
@[simp] theorem Chip.modFr_hbms (ch : Chip) (i : Nat) (f : Frame → Frame) : (ch.modFr i f).hbms = ch.hbms := rfl
@[simp] theorem Chip.modFr_hbm (ch : Chip) (i : Nat) (f : Frame → Frame) : (ch.modFr i f).hbm = ch.hbm := rfl
@[simp] theorem Chip.modFr_hbmErr (ch : Chip) (i : Nat) (f : Frame → Frame) : (ch.modFr i f).hbmErr = ch.hbmErr := rfl
@[simp] theorem Chip.modFr_ledger (ch : Chip) (i : Nat) (f : Frame → Frame) : (ch.modFr i f).ledger = ch.ledger := rfl
@[simp] theorem Chip.modFr_flash (ch : Chip) (i : Nat) (f : Frame → Frame) : (ch.modFr i f).flash = ch.flash := rfl
@[simp] theorem Chip.modFr_models (ch : Chip) (i : Nat) (f : Frame → Frame) : (ch.modFr i f).models = ch.models := rfl
@[simp] theorem Chip.modFr_seqs (ch : Chip) (i : Nat) (f : Frame → Frame) : (ch.modFr i f).seqs = ch.seqs := rfl
@[simp] theorem Chip.modFr_wheels (ch : Chip) (i : Nat) (f : Frame → Frame) : (ch.modFr i f).wheels = ch.wheels := rfl
@[simp] theorem Chip.modFr_wheelOrder (ch : Chip) (i : Nat) (f : Frame → Frame) : (ch.modFr i f).wheelOrder = ch.wheelOrder := rfl
@[simp] theorem Chip.modFr_lcidMap (ch : Chip) (i : Nat) (f : Frame → Frame) : (ch.modFr i f).lcidMap = ch.lcidMap := rfl
@[simp] theorem Chip.modFr_runs (ch : Chip) (i : Nat) (f : Frame → Frame) : (ch.modFr i f).runs = ch.runs := rfl
@[simp] theorem Chip.modFr_nextRun (ch : Chip) (i : Nat) (f : Frame → Frame) : (ch.modFr i f).nextRun = ch.nextRun := rfl
@[simp] theorem Chip.modFr_works (ch : Chip) (i : Nat) (f : Frame → Frame) : (ch.modFr i f).works = ch.works := rfl
@[simp] theorem Chip.modFr_nextWork (ch : Chip) (i : Nat) (f : Frame → Frame) : (ch.modFr i f).nextWork = ch.nextWork := rfl
@[simp] theorem Chip.modFr_host (ch : Chip) (i : Nat) (f : Frame → Frame) : (ch.modFr i f).host = ch.host := rfl
@[simp] theorem Chip.modFr_sec (ch : Chip) (i : Nat) (f : Frame → Frame) : (ch.modFr i f).sec = ch.sec := rfl
@[simp] theorem Chip.modFr_boot (ch : Chip) (i : Nat) (f : Frame → Frame) : (ch.modFr i f).boot = ch.boot := rfl
@[simp] theorem Chip.modFr_fabric (ch : Chip) (i : Nat) (f : Frame → Frame) : (ch.modFr i f).fabric = ch.fabric := rfl
@[simp] theorem Chip.modFr_power (ch : Chip) (i : Nat) (f : Frame → Frame) : (ch.modFr i f).power = ch.power := rfl
@[simp] theorem Chip.modFr_rcv (ch : Chip) (i : Nat) (f : Frame → Frame) : (ch.modFr i f).rcv = ch.rcv := rfl
@[simp] theorem Chip.modFr_wire (ch : Chip) (i : Nat) (f : Frame → Frame) : (ch.modFr i f).wire = ch.wire := rfl
@[simp] theorem Chip.modFr_free (ch : Chip) (i : Nat) (f : Frame → Frame) : (ch.modFr i f).free = ch.free := rfl

@[simp] theorem Chip.modLed_clusters (ch : Chip) (i : Nat) (f : LedgerEntry → LedgerEntry) : (ch.modLed i f).clusters = ch.clusters := rfl
@[simp] theorem Chip.modLed_dies (ch : Chip) (i : Nat) (f : LedgerEntry → LedgerEntry) : (ch.modLed i f).dies = ch.dies := rfl
@[simp] theorem Chip.modLed_regions (ch : Chip) (i : Nat) (f : LedgerEntry → LedgerEntry) : (ch.modLed i f).regions = ch.regions := rfl
@[simp] theorem Chip.modLed_parts (ch : Chip) (i : Nat) (f : LedgerEntry → LedgerEntry) : (ch.modLed i f).parts = ch.parts := rfl
@[simp] theorem Chip.modLed_hbms (ch : Chip) (i : Nat) (f : LedgerEntry → LedgerEntry) : (ch.modLed i f).hbms = ch.hbms := rfl
@[simp] theorem Chip.modLed_hbm (ch : Chip) (i : Nat) (f : LedgerEntry → LedgerEntry) : (ch.modLed i f).hbm = ch.hbm := rfl
@[simp] theorem Chip.modLed_hbmErr (ch : Chip) (i : Nat) (f : LedgerEntry → LedgerEntry) : (ch.modLed i f).hbmErr = ch.hbmErr := rfl
@[simp] theorem Chip.modLed_frames (ch : Chip) (i : Nat) (f : LedgerEntry → LedgerEntry) : (ch.modLed i f).frames = ch.frames := rfl
@[simp] theorem Chip.modLed_flash (ch : Chip) (i : Nat) (f : LedgerEntry → LedgerEntry) : (ch.modLed i f).flash = ch.flash := rfl
@[simp] theorem Chip.modLed_models (ch : Chip) (i : Nat) (f : LedgerEntry → LedgerEntry) : (ch.modLed i f).models = ch.models := rfl
@[simp] theorem Chip.modLed_seqs (ch : Chip) (i : Nat) (f : LedgerEntry → LedgerEntry) : (ch.modLed i f).seqs = ch.seqs := rfl
@[simp] theorem Chip.modLed_wheels (ch : Chip) (i : Nat) (f : LedgerEntry → LedgerEntry) : (ch.modLed i f).wheels = ch.wheels := rfl
@[simp] theorem Chip.modLed_wheelOrder (ch : Chip) (i : Nat) (f : LedgerEntry → LedgerEntry) : (ch.modLed i f).wheelOrder = ch.wheelOrder := rfl
@[simp] theorem Chip.modLed_lcidMap (ch : Chip) (i : Nat) (f : LedgerEntry → LedgerEntry) : (ch.modLed i f).lcidMap = ch.lcidMap := rfl
@[simp] theorem Chip.modLed_runs (ch : Chip) (i : Nat) (f : LedgerEntry → LedgerEntry) : (ch.modLed i f).runs = ch.runs := rfl
@[simp] theorem Chip.modLed_nextRun (ch : Chip) (i : Nat) (f : LedgerEntry → LedgerEntry) : (ch.modLed i f).nextRun = ch.nextRun := rfl
@[simp] theorem Chip.modLed_works (ch : Chip) (i : Nat) (f : LedgerEntry → LedgerEntry) : (ch.modLed i f).works = ch.works := rfl
@[simp] theorem Chip.modLed_nextWork (ch : Chip) (i : Nat) (f : LedgerEntry → LedgerEntry) : (ch.modLed i f).nextWork = ch.nextWork := rfl
@[simp] theorem Chip.modLed_host (ch : Chip) (i : Nat) (f : LedgerEntry → LedgerEntry) : (ch.modLed i f).host = ch.host := rfl
@[simp] theorem Chip.modLed_sec (ch : Chip) (i : Nat) (f : LedgerEntry → LedgerEntry) : (ch.modLed i f).sec = ch.sec := rfl
@[simp] theorem Chip.modLed_boot (ch : Chip) (i : Nat) (f : LedgerEntry → LedgerEntry) : (ch.modLed i f).boot = ch.boot := rfl
@[simp] theorem Chip.modLed_fabric (ch : Chip) (i : Nat) (f : LedgerEntry → LedgerEntry) : (ch.modLed i f).fabric = ch.fabric := rfl
@[simp] theorem Chip.modLed_power (ch : Chip) (i : Nat) (f : LedgerEntry → LedgerEntry) : (ch.modLed i f).power = ch.power := rfl
@[simp] theorem Chip.modLed_rcv (ch : Chip) (i : Nat) (f : LedgerEntry → LedgerEntry) : (ch.modLed i f).rcv = ch.rcv := rfl
@[simp] theorem Chip.modLed_wire (ch : Chip) (i : Nat) (f : LedgerEntry → LedgerEntry) : (ch.modLed i f).wire = ch.wire := rfl
@[simp] theorem Chip.modLed_free (ch : Chip) (i : Nat) (f : LedgerEntry → LedgerEntry) : (ch.modLed i f).free = ch.free := rfl

@[simp] theorem Chip.modMdl_clusters (ch : Chip) (h : Nat) (f : Model → Model) : (ch.modMdl h f).clusters = ch.clusters := rfl
@[simp] theorem Chip.modMdl_dies (ch : Chip) (h : Nat) (f : Model → Model) : (ch.modMdl h f).dies = ch.dies := rfl
@[simp] theorem Chip.modMdl_regions (ch : Chip) (h : Nat) (f : Model → Model) : (ch.modMdl h f).regions = ch.regions := rfl
@[simp] theorem Chip.modMdl_parts (ch : Chip) (h : Nat) (f : Model → Model) : (ch.modMdl h f).parts = ch.parts := rfl
@[simp] theorem Chip.modMdl_hbms (ch : Chip) (h : Nat) (f : Model → Model) : (ch.modMdl h f).hbms = ch.hbms := rfl
@[simp] theorem Chip.modMdl_hbm (ch : Chip) (h : Nat) (f : Model → Model) : (ch.modMdl h f).hbm = ch.hbm := rfl
@[simp] theorem Chip.modMdl_hbmErr (ch : Chip) (h : Nat) (f : Model → Model) : (ch.modMdl h f).hbmErr = ch.hbmErr := rfl
@[simp] theorem Chip.modMdl_frames (ch : Chip) (h : Nat) (f : Model → Model) : (ch.modMdl h f).frames = ch.frames := rfl
@[simp] theorem Chip.modMdl_ledger (ch : Chip) (h : Nat) (f : Model → Model) : (ch.modMdl h f).ledger = ch.ledger := rfl
@[simp] theorem Chip.modMdl_flash (ch : Chip) (h : Nat) (f : Model → Model) : (ch.modMdl h f).flash = ch.flash := rfl
@[simp] theorem Chip.modMdl_seqs (ch : Chip) (h : Nat) (f : Model → Model) : (ch.modMdl h f).seqs = ch.seqs := rfl
@[simp] theorem Chip.modMdl_wheels (ch : Chip) (h : Nat) (f : Model → Model) : (ch.modMdl h f).wheels = ch.wheels := rfl
@[simp] theorem Chip.modMdl_wheelOrder (ch : Chip) (h : Nat) (f : Model → Model) : (ch.modMdl h f).wheelOrder = ch.wheelOrder := rfl
@[simp] theorem Chip.modMdl_lcidMap (ch : Chip) (h : Nat) (f : Model → Model) : (ch.modMdl h f).lcidMap = ch.lcidMap := rfl
@[simp] theorem Chip.modMdl_runs (ch : Chip) (h : Nat) (f : Model → Model) : (ch.modMdl h f).runs = ch.runs := rfl
@[simp] theorem Chip.modMdl_nextRun (ch : Chip) (h : Nat) (f : Model → Model) : (ch.modMdl h f).nextRun = ch.nextRun := rfl
@[simp] theorem Chip.modMdl_works (ch : Chip) (h : Nat) (f : Model → Model) : (ch.modMdl h f).works = ch.works := rfl
@[simp] theorem Chip.modMdl_nextWork (ch : Chip) (h : Nat) (f : Model → Model) : (ch.modMdl h f).nextWork = ch.nextWork := rfl
@[simp] theorem Chip.modMdl_host (ch : Chip) (h : Nat) (f : Model → Model) : (ch.modMdl h f).host = ch.host := rfl
@[simp] theorem Chip.modMdl_sec (ch : Chip) (h : Nat) (f : Model → Model) : (ch.modMdl h f).sec = ch.sec := rfl
@[simp] theorem Chip.modMdl_boot (ch : Chip) (h : Nat) (f : Model → Model) : (ch.modMdl h f).boot = ch.boot := rfl
@[simp] theorem Chip.modMdl_fabric (ch : Chip) (h : Nat) (f : Model → Model) : (ch.modMdl h f).fabric = ch.fabric := rfl
@[simp] theorem Chip.modMdl_power (ch : Chip) (h : Nat) (f : Model → Model) : (ch.modMdl h f).power = ch.power := rfl
@[simp] theorem Chip.modMdl_rcv (ch : Chip) (h : Nat) (f : Model → Model) : (ch.modMdl h f).rcv = ch.rcv := rfl
@[simp] theorem Chip.modMdl_wire (ch : Chip) (h : Nat) (f : Model → Model) : (ch.modMdl h f).wire = ch.wire := rfl
@[simp] theorem Chip.modMdl_free (ch : Chip) (h : Nat) (f : Model → Model) : (ch.modMdl h f).free = ch.free := rfl

@[simp] theorem Chip.modSq_clusters (ch : Chip) (i : Nat) (f : KvSeq → KvSeq) : (ch.modSq i f).clusters = ch.clusters := rfl
@[simp] theorem Chip.modSq_dies (ch : Chip) (i : Nat) (f : KvSeq → KvSeq) : (ch.modSq i f).dies = ch.dies := rfl
@[simp] theorem Chip.modSq_regions (ch : Chip) (i : Nat) (f : KvSeq → KvSeq) : (ch.modSq i f).regions = ch.regions := rfl
@[simp] theorem Chip.modSq_parts (ch : Chip) (i : Nat) (f : KvSeq → KvSeq) : (ch.modSq i f).parts = ch.parts := rfl
@[simp] theorem Chip.modSq_hbms (ch : Chip) (i : Nat) (f : KvSeq → KvSeq) : (ch.modSq i f).hbms = ch.hbms := rfl
@[simp] theorem Chip.modSq_hbm (ch : Chip) (i : Nat) (f : KvSeq → KvSeq) : (ch.modSq i f).hbm = ch.hbm := rfl
@[simp] theorem Chip.modSq_hbmErr (ch : Chip) (i : Nat) (f : KvSeq → KvSeq) : (ch.modSq i f).hbmErr = ch.hbmErr := rfl
@[simp] theorem Chip.modSq_frames (ch : Chip) (i : Nat) (f : KvSeq → KvSeq) : (ch.modSq i f).frames = ch.frames := rfl
@[simp] theorem Chip.modSq_ledger (ch : Chip) (i : Nat) (f : KvSeq → KvSeq) : (ch.modSq i f).ledger = ch.ledger := rfl
@[simp] theorem Chip.modSq_flash (ch : Chip) (i : Nat) (f : KvSeq → KvSeq) : (ch.modSq i f).flash = ch.flash := rfl
@[simp] theorem Chip.modSq_models (ch : Chip) (i : Nat) (f : KvSeq → KvSeq) : (ch.modSq i f).models = ch.models := rfl
@[simp] theorem Chip.modSq_wheels (ch : Chip) (i : Nat) (f : KvSeq → KvSeq) : (ch.modSq i f).wheels = ch.wheels := rfl
@[simp] theorem Chip.modSq_wheelOrder (ch : Chip) (i : Nat) (f : KvSeq → KvSeq) : (ch.modSq i f).wheelOrder = ch.wheelOrder := rfl
@[simp] theorem Chip.modSq_lcidMap (ch : Chip) (i : Nat) (f : KvSeq → KvSeq) : (ch.modSq i f).lcidMap = ch.lcidMap := rfl
@[simp] theorem Chip.modSq_runs (ch : Chip) (i : Nat) (f : KvSeq → KvSeq) : (ch.modSq i f).runs = ch.runs := rfl
@[simp] theorem Chip.modSq_nextRun (ch : Chip) (i : Nat) (f : KvSeq → KvSeq) : (ch.modSq i f).nextRun = ch.nextRun := rfl
@[simp] theorem Chip.modSq_works (ch : Chip) (i : Nat) (f : KvSeq → KvSeq) : (ch.modSq i f).works = ch.works := rfl
@[simp] theorem Chip.modSq_nextWork (ch : Chip) (i : Nat) (f : KvSeq → KvSeq) : (ch.modSq i f).nextWork = ch.nextWork := rfl
@[simp] theorem Chip.modSq_host (ch : Chip) (i : Nat) (f : KvSeq → KvSeq) : (ch.modSq i f).host = ch.host := rfl
@[simp] theorem Chip.modSq_sec (ch : Chip) (i : Nat) (f : KvSeq → KvSeq) : (ch.modSq i f).sec = ch.sec := rfl
@[simp] theorem Chip.modSq_boot (ch : Chip) (i : Nat) (f : KvSeq → KvSeq) : (ch.modSq i f).boot = ch.boot := rfl
@[simp] theorem Chip.modSq_fabric (ch : Chip) (i : Nat) (f : KvSeq → KvSeq) : (ch.modSq i f).fabric = ch.fabric := rfl
@[simp] theorem Chip.modSq_power (ch : Chip) (i : Nat) (f : KvSeq → KvSeq) : (ch.modSq i f).power = ch.power := rfl
@[simp] theorem Chip.modSq_rcv (ch : Chip) (i : Nat) (f : KvSeq → KvSeq) : (ch.modSq i f).rcv = ch.rcv := rfl
@[simp] theorem Chip.modSq_wire (ch : Chip) (i : Nat) (f : KvSeq → KvSeq) : (ch.modSq i f).wire = ch.wire := rfl
@[simp] theorem Chip.modSq_free (ch : Chip) (i : Nat) (f : KvSeq → KvSeq) : (ch.modSq i f).free = ch.free := rfl

@[simp] theorem Chip.modPort_clusters (ch : Chip) (i : Nat) (f : Port → Port) : (ch.modPort i f).clusters = ch.clusters := rfl
@[simp] theorem Chip.modPort_dies (ch : Chip) (i : Nat) (f : Port → Port) : (ch.modPort i f).dies = ch.dies := rfl
@[simp] theorem Chip.modPort_regions (ch : Chip) (i : Nat) (f : Port → Port) : (ch.modPort i f).regions = ch.regions := rfl
@[simp] theorem Chip.modPort_parts (ch : Chip) (i : Nat) (f : Port → Port) : (ch.modPort i f).parts = ch.parts := rfl
@[simp] theorem Chip.modPort_hbms (ch : Chip) (i : Nat) (f : Port → Port) : (ch.modPort i f).hbms = ch.hbms := rfl
@[simp] theorem Chip.modPort_hbm (ch : Chip) (i : Nat) (f : Port → Port) : (ch.modPort i f).hbm = ch.hbm := rfl
@[simp] theorem Chip.modPort_hbmErr (ch : Chip) (i : Nat) (f : Port → Port) : (ch.modPort i f).hbmErr = ch.hbmErr := rfl
@[simp] theorem Chip.modPort_frames (ch : Chip) (i : Nat) (f : Port → Port) : (ch.modPort i f).frames = ch.frames := rfl
@[simp] theorem Chip.modPort_ledger (ch : Chip) (i : Nat) (f : Port → Port) : (ch.modPort i f).ledger = ch.ledger := rfl
@[simp] theorem Chip.modPort_flash (ch : Chip) (i : Nat) (f : Port → Port) : (ch.modPort i f).flash = ch.flash := rfl
@[simp] theorem Chip.modPort_models (ch : Chip) (i : Nat) (f : Port → Port) : (ch.modPort i f).models = ch.models := rfl
@[simp] theorem Chip.modPort_seqs (ch : Chip) (i : Nat) (f : Port → Port) : (ch.modPort i f).seqs = ch.seqs := rfl
@[simp] theorem Chip.modPort_wheels (ch : Chip) (i : Nat) (f : Port → Port) : (ch.modPort i f).wheels = ch.wheels := rfl
@[simp] theorem Chip.modPort_wheelOrder (ch : Chip) (i : Nat) (f : Port → Port) : (ch.modPort i f).wheelOrder = ch.wheelOrder := rfl
@[simp] theorem Chip.modPort_lcidMap (ch : Chip) (i : Nat) (f : Port → Port) : (ch.modPort i f).lcidMap = ch.lcidMap := rfl
@[simp] theorem Chip.modPort_runs (ch : Chip) (i : Nat) (f : Port → Port) : (ch.modPort i f).runs = ch.runs := rfl
@[simp] theorem Chip.modPort_nextRun (ch : Chip) (i : Nat) (f : Port → Port) : (ch.modPort i f).nextRun = ch.nextRun := rfl
@[simp] theorem Chip.modPort_works (ch : Chip) (i : Nat) (f : Port → Port) : (ch.modPort i f).works = ch.works := rfl
@[simp] theorem Chip.modPort_nextWork (ch : Chip) (i : Nat) (f : Port → Port) : (ch.modPort i f).nextWork = ch.nextWork := rfl
@[simp] theorem Chip.modPort_host (ch : Chip) (i : Nat) (f : Port → Port) : (ch.modPort i f).host = ch.host := rfl
@[simp] theorem Chip.modPort_sec (ch : Chip) (i : Nat) (f : Port → Port) : (ch.modPort i f).sec = ch.sec := rfl
@[simp] theorem Chip.modPort_boot (ch : Chip) (i : Nat) (f : Port → Port) : (ch.modPort i f).boot = ch.boot := rfl
@[simp] theorem Chip.modPort_power (ch : Chip) (i : Nat) (f : Port → Port) : (ch.modPort i f).power = ch.power := rfl
@[simp] theorem Chip.modPort_rcv (ch : Chip) (i : Nat) (f : Port → Port) : (ch.modPort i f).rcv = ch.rcv := rfl
@[simp] theorem Chip.modPort_wire (ch : Chip) (i : Nat) (f : Port → Port) : (ch.modPort i f).wire = ch.wire := rfl
@[simp] theorem Chip.modPort_free (ch : Chip) (i : Nat) (f : Port → Port) : (ch.modPort i f).free = ch.free := rfl

@[simp] theorem Chip.modStr_clusters (ch : Chip) (r n : Nat) (f : Stream → Stream) : (ch.modStr r n f).clusters = ch.clusters := rfl
@[simp] theorem Chip.modStr_dies (ch : Chip) (r n : Nat) (f : Stream → Stream) : (ch.modStr r n f).dies = ch.dies := rfl
@[simp] theorem Chip.modStr_parts (ch : Chip) (r n : Nat) (f : Stream → Stream) : (ch.modStr r n f).parts = ch.parts := rfl
@[simp] theorem Chip.modStr_hbms (ch : Chip) (r n : Nat) (f : Stream → Stream) : (ch.modStr r n f).hbms = ch.hbms := rfl
@[simp] theorem Chip.modStr_hbm (ch : Chip) (r n : Nat) (f : Stream → Stream) : (ch.modStr r n f).hbm = ch.hbm := rfl
@[simp] theorem Chip.modStr_hbmErr (ch : Chip) (r n : Nat) (f : Stream → Stream) : (ch.modStr r n f).hbmErr = ch.hbmErr := rfl
@[simp] theorem Chip.modStr_frames (ch : Chip) (r n : Nat) (f : Stream → Stream) : (ch.modStr r n f).frames = ch.frames := rfl
@[simp] theorem Chip.modStr_ledger (ch : Chip) (r n : Nat) (f : Stream → Stream) : (ch.modStr r n f).ledger = ch.ledger := rfl
@[simp] theorem Chip.modStr_flash (ch : Chip) (r n : Nat) (f : Stream → Stream) : (ch.modStr r n f).flash = ch.flash := rfl
@[simp] theorem Chip.modStr_models (ch : Chip) (r n : Nat) (f : Stream → Stream) : (ch.modStr r n f).models = ch.models := rfl
@[simp] theorem Chip.modStr_seqs (ch : Chip) (r n : Nat) (f : Stream → Stream) : (ch.modStr r n f).seqs = ch.seqs := rfl
@[simp] theorem Chip.modStr_wheels (ch : Chip) (r n : Nat) (f : Stream → Stream) : (ch.modStr r n f).wheels = ch.wheels := rfl
@[simp] theorem Chip.modStr_wheelOrder (ch : Chip) (r n : Nat) (f : Stream → Stream) : (ch.modStr r n f).wheelOrder = ch.wheelOrder := rfl
@[simp] theorem Chip.modStr_lcidMap (ch : Chip) (r n : Nat) (f : Stream → Stream) : (ch.modStr r n f).lcidMap = ch.lcidMap := rfl
@[simp] theorem Chip.modStr_runs (ch : Chip) (r n : Nat) (f : Stream → Stream) : (ch.modStr r n f).runs = ch.runs := rfl
@[simp] theorem Chip.modStr_nextRun (ch : Chip) (r n : Nat) (f : Stream → Stream) : (ch.modStr r n f).nextRun = ch.nextRun := rfl
@[simp] theorem Chip.modStr_works (ch : Chip) (r n : Nat) (f : Stream → Stream) : (ch.modStr r n f).works = ch.works := rfl
@[simp] theorem Chip.modStr_nextWork (ch : Chip) (r n : Nat) (f : Stream → Stream) : (ch.modStr r n f).nextWork = ch.nextWork := rfl
@[simp] theorem Chip.modStr_host (ch : Chip) (r n : Nat) (f : Stream → Stream) : (ch.modStr r n f).host = ch.host := rfl
@[simp] theorem Chip.modStr_sec (ch : Chip) (r n : Nat) (f : Stream → Stream) : (ch.modStr r n f).sec = ch.sec := rfl
@[simp] theorem Chip.modStr_boot (ch : Chip) (r n : Nat) (f : Stream → Stream) : (ch.modStr r n f).boot = ch.boot := rfl
@[simp] theorem Chip.modStr_fabric (ch : Chip) (r n : Nat) (f : Stream → Stream) : (ch.modStr r n f).fabric = ch.fabric := rfl
@[simp] theorem Chip.modStr_power (ch : Chip) (r n : Nat) (f : Stream → Stream) : (ch.modStr r n f).power = ch.power := rfl
@[simp] theorem Chip.modStr_rcv (ch : Chip) (r n : Nat) (f : Stream → Stream) : (ch.modStr r n f).rcv = ch.rcv := rfl
@[simp] theorem Chip.modStr_wire (ch : Chip) (r n : Nat) (f : Stream → Stream) : (ch.modStr r n f).wire = ch.wire := rfl
@[simp] theorem Chip.modStr_free (ch : Chip) (r n : Nat) (f : Stream → Stream) : (ch.modStr r n f).free = ch.free := rfl

@[simp] theorem Chip.modMir_clusters (ch : Chip) (r n : Nat) (f : Mirror → Mirror) : (ch.modMir r n f).clusters = ch.clusters := rfl
@[simp] theorem Chip.modMir_dies (ch : Chip) (r n : Nat) (f : Mirror → Mirror) : (ch.modMir r n f).dies = ch.dies := rfl
@[simp] theorem Chip.modMir_parts (ch : Chip) (r n : Nat) (f : Mirror → Mirror) : (ch.modMir r n f).parts = ch.parts := rfl
@[simp] theorem Chip.modMir_hbms (ch : Chip) (r n : Nat) (f : Mirror → Mirror) : (ch.modMir r n f).hbms = ch.hbms := rfl
@[simp] theorem Chip.modMir_hbm (ch : Chip) (r n : Nat) (f : Mirror → Mirror) : (ch.modMir r n f).hbm = ch.hbm := rfl
@[simp] theorem Chip.modMir_hbmErr (ch : Chip) (r n : Nat) (f : Mirror → Mirror) : (ch.modMir r n f).hbmErr = ch.hbmErr := rfl
@[simp] theorem Chip.modMir_frames (ch : Chip) (r n : Nat) (f : Mirror → Mirror) : (ch.modMir r n f).frames = ch.frames := rfl
@[simp] theorem Chip.modMir_ledger (ch : Chip) (r n : Nat) (f : Mirror → Mirror) : (ch.modMir r n f).ledger = ch.ledger := rfl
@[simp] theorem Chip.modMir_flash (ch : Chip) (r n : Nat) (f : Mirror → Mirror) : (ch.modMir r n f).flash = ch.flash := rfl
@[simp] theorem Chip.modMir_models (ch : Chip) (r n : Nat) (f : Mirror → Mirror) : (ch.modMir r n f).models = ch.models := rfl
@[simp] theorem Chip.modMir_seqs (ch : Chip) (r n : Nat) (f : Mirror → Mirror) : (ch.modMir r n f).seqs = ch.seqs := rfl
@[simp] theorem Chip.modMir_wheels (ch : Chip) (r n : Nat) (f : Mirror → Mirror) : (ch.modMir r n f).wheels = ch.wheels := rfl
@[simp] theorem Chip.modMir_wheelOrder (ch : Chip) (r n : Nat) (f : Mirror → Mirror) : (ch.modMir r n f).wheelOrder = ch.wheelOrder := rfl
@[simp] theorem Chip.modMir_lcidMap (ch : Chip) (r n : Nat) (f : Mirror → Mirror) : (ch.modMir r n f).lcidMap = ch.lcidMap := rfl
@[simp] theorem Chip.modMir_runs (ch : Chip) (r n : Nat) (f : Mirror → Mirror) : (ch.modMir r n f).runs = ch.runs := rfl
@[simp] theorem Chip.modMir_nextRun (ch : Chip) (r n : Nat) (f : Mirror → Mirror) : (ch.modMir r n f).nextRun = ch.nextRun := rfl
@[simp] theorem Chip.modMir_works (ch : Chip) (r n : Nat) (f : Mirror → Mirror) : (ch.modMir r n f).works = ch.works := rfl
@[simp] theorem Chip.modMir_nextWork (ch : Chip) (r n : Nat) (f : Mirror → Mirror) : (ch.modMir r n f).nextWork = ch.nextWork := rfl
@[simp] theorem Chip.modMir_host (ch : Chip) (r n : Nat) (f : Mirror → Mirror) : (ch.modMir r n f).host = ch.host := rfl
@[simp] theorem Chip.modMir_sec (ch : Chip) (r n : Nat) (f : Mirror → Mirror) : (ch.modMir r n f).sec = ch.sec := rfl
@[simp] theorem Chip.modMir_boot (ch : Chip) (r n : Nat) (f : Mirror → Mirror) : (ch.modMir r n f).boot = ch.boot := rfl
@[simp] theorem Chip.modMir_fabric (ch : Chip) (r n : Nat) (f : Mirror → Mirror) : (ch.modMir r n f).fabric = ch.fabric := rfl
@[simp] theorem Chip.modMir_power (ch : Chip) (r n : Nat) (f : Mirror → Mirror) : (ch.modMir r n f).power = ch.power := rfl
@[simp] theorem Chip.modMir_rcv (ch : Chip) (r n : Nat) (f : Mirror → Mirror) : (ch.modMir r n f).rcv = ch.rcv := rfl
@[simp] theorem Chip.modMir_wire (ch : Chip) (r n : Nat) (f : Mirror → Mirror) : (ch.modMir r n f).wire = ch.wire := rfl
@[simp] theorem Chip.modMir_free (ch : Chip) (r n : Nat) (f : Mirror → Mirror) : (ch.modMir r n f).free = ch.free := rfl

@[simp] theorem Chip.modSlot_dies (ch : Chip) (c n : Nat) (f : Slot → Slot) : (ch.modSlot c n f).dies = ch.dies := rfl
@[simp] theorem Chip.modSlot_regions (ch : Chip) (c n : Nat) (f : Slot → Slot) : (ch.modSlot c n f).regions = ch.regions := rfl
@[simp] theorem Chip.modSlot_parts (ch : Chip) (c n : Nat) (f : Slot → Slot) : (ch.modSlot c n f).parts = ch.parts := rfl
@[simp] theorem Chip.modSlot_hbms (ch : Chip) (c n : Nat) (f : Slot → Slot) : (ch.modSlot c n f).hbms = ch.hbms := rfl
@[simp] theorem Chip.modSlot_hbm (ch : Chip) (c n : Nat) (f : Slot → Slot) : (ch.modSlot c n f).hbm = ch.hbm := rfl
@[simp] theorem Chip.modSlot_hbmErr (ch : Chip) (c n : Nat) (f : Slot → Slot) : (ch.modSlot c n f).hbmErr = ch.hbmErr := rfl
@[simp] theorem Chip.modSlot_frames (ch : Chip) (c n : Nat) (f : Slot → Slot) : (ch.modSlot c n f).frames = ch.frames := rfl
@[simp] theorem Chip.modSlot_ledger (ch : Chip) (c n : Nat) (f : Slot → Slot) : (ch.modSlot c n f).ledger = ch.ledger := rfl
@[simp] theorem Chip.modSlot_flash (ch : Chip) (c n : Nat) (f : Slot → Slot) : (ch.modSlot c n f).flash = ch.flash := rfl
@[simp] theorem Chip.modSlot_models (ch : Chip) (c n : Nat) (f : Slot → Slot) : (ch.modSlot c n f).models = ch.models := rfl
@[simp] theorem Chip.modSlot_seqs (ch : Chip) (c n : Nat) (f : Slot → Slot) : (ch.modSlot c n f).seqs = ch.seqs := rfl
@[simp] theorem Chip.modSlot_wheels (ch : Chip) (c n : Nat) (f : Slot → Slot) : (ch.modSlot c n f).wheels = ch.wheels := rfl
@[simp] theorem Chip.modSlot_wheelOrder (ch : Chip) (c n : Nat) (f : Slot → Slot) : (ch.modSlot c n f).wheelOrder = ch.wheelOrder := rfl
@[simp] theorem Chip.modSlot_lcidMap (ch : Chip) (c n : Nat) (f : Slot → Slot) : (ch.modSlot c n f).lcidMap = ch.lcidMap := rfl
@[simp] theorem Chip.modSlot_runs (ch : Chip) (c n : Nat) (f : Slot → Slot) : (ch.modSlot c n f).runs = ch.runs := rfl
@[simp] theorem Chip.modSlot_nextRun (ch : Chip) (c n : Nat) (f : Slot → Slot) : (ch.modSlot c n f).nextRun = ch.nextRun := rfl
@[simp] theorem Chip.modSlot_works (ch : Chip) (c n : Nat) (f : Slot → Slot) : (ch.modSlot c n f).works = ch.works := rfl
@[simp] theorem Chip.modSlot_nextWork (ch : Chip) (c n : Nat) (f : Slot → Slot) : (ch.modSlot c n f).nextWork = ch.nextWork := rfl
@[simp] theorem Chip.modSlot_host (ch : Chip) (c n : Nat) (f : Slot → Slot) : (ch.modSlot c n f).host = ch.host := rfl
@[simp] theorem Chip.modSlot_sec (ch : Chip) (c n : Nat) (f : Slot → Slot) : (ch.modSlot c n f).sec = ch.sec := rfl
@[simp] theorem Chip.modSlot_boot (ch : Chip) (c n : Nat) (f : Slot → Slot) : (ch.modSlot c n f).boot = ch.boot := rfl
@[simp] theorem Chip.modSlot_fabric (ch : Chip) (c n : Nat) (f : Slot → Slot) : (ch.modSlot c n f).fabric = ch.fabric := rfl
@[simp] theorem Chip.modSlot_power (ch : Chip) (c n : Nat) (f : Slot → Slot) : (ch.modSlot c n f).power = ch.power := rfl
@[simp] theorem Chip.modSlot_rcv (ch : Chip) (c n : Nat) (f : Slot → Slot) : (ch.modSlot c n f).rcv = ch.rcv := rfl
@[simp] theorem Chip.modSlot_wire (ch : Chip) (c n : Nat) (f : Slot → Slot) : (ch.modSlot c n f).wire = ch.wire := rfl
@[simp] theorem Chip.modSlot_free (ch : Chip) (c n : Nat) (f : Slot → Slot) : (ch.modSlot c n f).free = ch.free := rfl

@[simp] theorem Chip.modBar_clusters (ch : Chip) (p b : Nat) (f : Barrier → Barrier) : (ch.modBar p b f).clusters = ch.clusters := rfl
@[simp] theorem Chip.modBar_dies (ch : Chip) (p b : Nat) (f : Barrier → Barrier) : (ch.modBar p b f).dies = ch.dies := rfl
@[simp] theorem Chip.modBar_regions (ch : Chip) (p b : Nat) (f : Barrier → Barrier) : (ch.modBar p b f).regions = ch.regions := rfl
@[simp] theorem Chip.modBar_hbms (ch : Chip) (p b : Nat) (f : Barrier → Barrier) : (ch.modBar p b f).hbms = ch.hbms := rfl
@[simp] theorem Chip.modBar_hbm (ch : Chip) (p b : Nat) (f : Barrier → Barrier) : (ch.modBar p b f).hbm = ch.hbm := rfl
@[simp] theorem Chip.modBar_hbmErr (ch : Chip) (p b : Nat) (f : Barrier → Barrier) : (ch.modBar p b f).hbmErr = ch.hbmErr := rfl
@[simp] theorem Chip.modBar_frames (ch : Chip) (p b : Nat) (f : Barrier → Barrier) : (ch.modBar p b f).frames = ch.frames := rfl
@[simp] theorem Chip.modBar_ledger (ch : Chip) (p b : Nat) (f : Barrier → Barrier) : (ch.modBar p b f).ledger = ch.ledger := rfl
@[simp] theorem Chip.modBar_flash (ch : Chip) (p b : Nat) (f : Barrier → Barrier) : (ch.modBar p b f).flash = ch.flash := rfl
@[simp] theorem Chip.modBar_models (ch : Chip) (p b : Nat) (f : Barrier → Barrier) : (ch.modBar p b f).models = ch.models := rfl
@[simp] theorem Chip.modBar_seqs (ch : Chip) (p b : Nat) (f : Barrier → Barrier) : (ch.modBar p b f).seqs = ch.seqs := rfl
@[simp] theorem Chip.modBar_wheels (ch : Chip) (p b : Nat) (f : Barrier → Barrier) : (ch.modBar p b f).wheels = ch.wheels := rfl
@[simp] theorem Chip.modBar_wheelOrder (ch : Chip) (p b : Nat) (f : Barrier → Barrier) : (ch.modBar p b f).wheelOrder = ch.wheelOrder := rfl
@[simp] theorem Chip.modBar_lcidMap (ch : Chip) (p b : Nat) (f : Barrier → Barrier) : (ch.modBar p b f).lcidMap = ch.lcidMap := rfl
@[simp] theorem Chip.modBar_runs (ch : Chip) (p b : Nat) (f : Barrier → Barrier) : (ch.modBar p b f).runs = ch.runs := rfl
@[simp] theorem Chip.modBar_nextRun (ch : Chip) (p b : Nat) (f : Barrier → Barrier) : (ch.modBar p b f).nextRun = ch.nextRun := rfl
@[simp] theorem Chip.modBar_works (ch : Chip) (p b : Nat) (f : Barrier → Barrier) : (ch.modBar p b f).works = ch.works := rfl
@[simp] theorem Chip.modBar_nextWork (ch : Chip) (p b : Nat) (f : Barrier → Barrier) : (ch.modBar p b f).nextWork = ch.nextWork := rfl
@[simp] theorem Chip.modBar_host (ch : Chip) (p b : Nat) (f : Barrier → Barrier) : (ch.modBar p b f).host = ch.host := rfl
@[simp] theorem Chip.modBar_sec (ch : Chip) (p b : Nat) (f : Barrier → Barrier) : (ch.modBar p b f).sec = ch.sec := rfl
@[simp] theorem Chip.modBar_boot (ch : Chip) (p b : Nat) (f : Barrier → Barrier) : (ch.modBar p b f).boot = ch.boot := rfl
@[simp] theorem Chip.modBar_fabric (ch : Chip) (p b : Nat) (f : Barrier → Barrier) : (ch.modBar p b f).fabric = ch.fabric := rfl
@[simp] theorem Chip.modBar_power (ch : Chip) (p b : Nat) (f : Barrier → Barrier) : (ch.modBar p b f).power = ch.power := rfl
@[simp] theorem Chip.modBar_rcv (ch : Chip) (p b : Nat) (f : Barrier → Barrier) : (ch.modBar p b f).rcv = ch.rcv := rfl
@[simp] theorem Chip.modBar_wire (ch : Chip) (p b : Nat) (f : Barrier → Barrier) : (ch.modBar p b f).wire = ch.wire := rfl
@[simp] theorem Chip.modBar_free (ch : Chip) (p b : Nat) (f : Barrier → Barrier) : (ch.modBar p b f).free = ch.free := rfl

@[simp] theorem Chip.modEp_clusters (ch : Chip) (h e : Nat) (f : Epoch → Epoch) : (ch.modEp h e f).clusters = ch.clusters := rfl
@[simp] theorem Chip.modEp_dies (ch : Chip) (h e : Nat) (f : Epoch → Epoch) : (ch.modEp h e f).dies = ch.dies := rfl
@[simp] theorem Chip.modEp_regions (ch : Chip) (h e : Nat) (f : Epoch → Epoch) : (ch.modEp h e f).regions = ch.regions := rfl
@[simp] theorem Chip.modEp_parts (ch : Chip) (h e : Nat) (f : Epoch → Epoch) : (ch.modEp h e f).parts = ch.parts := rfl
@[simp] theorem Chip.modEp_hbms (ch : Chip) (h e : Nat) (f : Epoch → Epoch) : (ch.modEp h e f).hbms = ch.hbms := rfl
@[simp] theorem Chip.modEp_hbm (ch : Chip) (h e : Nat) (f : Epoch → Epoch) : (ch.modEp h e f).hbm = ch.hbm := rfl
@[simp] theorem Chip.modEp_hbmErr (ch : Chip) (h e : Nat) (f : Epoch → Epoch) : (ch.modEp h e f).hbmErr = ch.hbmErr := rfl
@[simp] theorem Chip.modEp_frames (ch : Chip) (h e : Nat) (f : Epoch → Epoch) : (ch.modEp h e f).frames = ch.frames := rfl
@[simp] theorem Chip.modEp_ledger (ch : Chip) (h e : Nat) (f : Epoch → Epoch) : (ch.modEp h e f).ledger = ch.ledger := rfl
@[simp] theorem Chip.modEp_flash (ch : Chip) (h e : Nat) (f : Epoch → Epoch) : (ch.modEp h e f).flash = ch.flash := rfl
@[simp] theorem Chip.modEp_seqs (ch : Chip) (h e : Nat) (f : Epoch → Epoch) : (ch.modEp h e f).seqs = ch.seqs := rfl
@[simp] theorem Chip.modEp_wheels (ch : Chip) (h e : Nat) (f : Epoch → Epoch) : (ch.modEp h e f).wheels = ch.wheels := rfl
@[simp] theorem Chip.modEp_wheelOrder (ch : Chip) (h e : Nat) (f : Epoch → Epoch) : (ch.modEp h e f).wheelOrder = ch.wheelOrder := rfl
@[simp] theorem Chip.modEp_lcidMap (ch : Chip) (h e : Nat) (f : Epoch → Epoch) : (ch.modEp h e f).lcidMap = ch.lcidMap := rfl
@[simp] theorem Chip.modEp_runs (ch : Chip) (h e : Nat) (f : Epoch → Epoch) : (ch.modEp h e f).runs = ch.runs := rfl
@[simp] theorem Chip.modEp_nextRun (ch : Chip) (h e : Nat) (f : Epoch → Epoch) : (ch.modEp h e f).nextRun = ch.nextRun := rfl
@[simp] theorem Chip.modEp_works (ch : Chip) (h e : Nat) (f : Epoch → Epoch) : (ch.modEp h e f).works = ch.works := rfl
@[simp] theorem Chip.modEp_nextWork (ch : Chip) (h e : Nat) (f : Epoch → Epoch) : (ch.modEp h e f).nextWork = ch.nextWork := rfl
@[simp] theorem Chip.modEp_host (ch : Chip) (h e : Nat) (f : Epoch → Epoch) : (ch.modEp h e f).host = ch.host := rfl
@[simp] theorem Chip.modEp_sec (ch : Chip) (h e : Nat) (f : Epoch → Epoch) : (ch.modEp h e f).sec = ch.sec := rfl
@[simp] theorem Chip.modEp_boot (ch : Chip) (h e : Nat) (f : Epoch → Epoch) : (ch.modEp h e f).boot = ch.boot := rfl
@[simp] theorem Chip.modEp_fabric (ch : Chip) (h e : Nat) (f : Epoch → Epoch) : (ch.modEp h e f).fabric = ch.fabric := rfl
@[simp] theorem Chip.modEp_power (ch : Chip) (h e : Nat) (f : Epoch → Epoch) : (ch.modEp h e f).power = ch.power := rfl
@[simp] theorem Chip.modEp_rcv (ch : Chip) (h e : Nat) (f : Epoch → Epoch) : (ch.modEp h e f).rcv = ch.rcv := rfl
@[simp] theorem Chip.modEp_wire (ch : Chip) (h e : Nat) (f : Epoch → Epoch) : (ch.modEp h e f).wire = ch.wire := rfl
@[simp] theorem Chip.modEp_free (ch : Chip) (h e : Nat) (f : Epoch → Epoch) : (ch.modEp h e f).free = ch.free := rfl

@[simp] theorem Chip.modShard_clusters (ch : Chip) (h e i : Nat) (f : Shard → Shard) : (ch.modShard h e i f).clusters = ch.clusters := rfl
@[simp] theorem Chip.modShard_dies (ch : Chip) (h e i : Nat) (f : Shard → Shard) : (ch.modShard h e i f).dies = ch.dies := rfl
@[simp] theorem Chip.modShard_regions (ch : Chip) (h e i : Nat) (f : Shard → Shard) : (ch.modShard h e i f).regions = ch.regions := rfl
@[simp] theorem Chip.modShard_parts (ch : Chip) (h e i : Nat) (f : Shard → Shard) : (ch.modShard h e i f).parts = ch.parts := rfl
@[simp] theorem Chip.modShard_hbms (ch : Chip) (h e i : Nat) (f : Shard → Shard) : (ch.modShard h e i f).hbms = ch.hbms := rfl
@[simp] theorem Chip.modShard_hbm (ch : Chip) (h e i : Nat) (f : Shard → Shard) : (ch.modShard h e i f).hbm = ch.hbm := rfl
@[simp] theorem Chip.modShard_hbmErr (ch : Chip) (h e i : Nat) (f : Shard → Shard) : (ch.modShard h e i f).hbmErr = ch.hbmErr := rfl
@[simp] theorem Chip.modShard_frames (ch : Chip) (h e i : Nat) (f : Shard → Shard) : (ch.modShard h e i f).frames = ch.frames := rfl
@[simp] theorem Chip.modShard_ledger (ch : Chip) (h e i : Nat) (f : Shard → Shard) : (ch.modShard h e i f).ledger = ch.ledger := rfl
@[simp] theorem Chip.modShard_flash (ch : Chip) (h e i : Nat) (f : Shard → Shard) : (ch.modShard h e i f).flash = ch.flash := rfl
@[simp] theorem Chip.modShard_seqs (ch : Chip) (h e i : Nat) (f : Shard → Shard) : (ch.modShard h e i f).seqs = ch.seqs := rfl
@[simp] theorem Chip.modShard_wheels (ch : Chip) (h e i : Nat) (f : Shard → Shard) : (ch.modShard h e i f).wheels = ch.wheels := rfl
@[simp] theorem Chip.modShard_wheelOrder (ch : Chip) (h e i : Nat) (f : Shard → Shard) : (ch.modShard h e i f).wheelOrder = ch.wheelOrder := rfl
@[simp] theorem Chip.modShard_lcidMap (ch : Chip) (h e i : Nat) (f : Shard → Shard) : (ch.modShard h e i f).lcidMap = ch.lcidMap := rfl
@[simp] theorem Chip.modShard_runs (ch : Chip) (h e i : Nat) (f : Shard → Shard) : (ch.modShard h e i f).runs = ch.runs := rfl
@[simp] theorem Chip.modShard_nextRun (ch : Chip) (h e i : Nat) (f : Shard → Shard) : (ch.modShard h e i f).nextRun = ch.nextRun := rfl
@[simp] theorem Chip.modShard_works (ch : Chip) (h e i : Nat) (f : Shard → Shard) : (ch.modShard h e i f).works = ch.works := rfl
@[simp] theorem Chip.modShard_nextWork (ch : Chip) (h e i : Nat) (f : Shard → Shard) : (ch.modShard h e i f).nextWork = ch.nextWork := rfl
@[simp] theorem Chip.modShard_host (ch : Chip) (h e i : Nat) (f : Shard → Shard) : (ch.modShard h e i f).host = ch.host := rfl
@[simp] theorem Chip.modShard_sec (ch : Chip) (h e i : Nat) (f : Shard → Shard) : (ch.modShard h e i f).sec = ch.sec := rfl
@[simp] theorem Chip.modShard_boot (ch : Chip) (h e i : Nat) (f : Shard → Shard) : (ch.modShard h e i f).boot = ch.boot := rfl
@[simp] theorem Chip.modShard_fabric (ch : Chip) (h e i : Nat) (f : Shard → Shard) : (ch.modShard h e i f).fabric = ch.fabric := rfl
@[simp] theorem Chip.modShard_power (ch : Chip) (h e i : Nat) (f : Shard → Shard) : (ch.modShard h e i f).power = ch.power := rfl
@[simp] theorem Chip.modShard_rcv (ch : Chip) (h e i : Nat) (f : Shard → Shard) : (ch.modShard h e i f).rcv = ch.rcv := rfl
@[simp] theorem Chip.modShard_wire (ch : Chip) (h e i : Nat) (f : Shard → Shard) : (ch.modShard h e i f).wire = ch.wire := rfl
@[simp] theorem Chip.modShard_free (ch : Chip) (h e i : Nat) (f : Shard → Shard) : (ch.modShard h e i f).free = ch.free := rfl

@[simp] theorem Chip.modEng_clusters (ch : Chip) (e : Nat) (f : Engine → Engine) : (ch.modEng e f).clusters = ch.clusters := rfl
@[simp] theorem Chip.modEng_dies (ch : Chip) (e : Nat) (f : Engine → Engine) : (ch.modEng e f).dies = ch.dies := rfl
@[simp] theorem Chip.modEng_parts (ch : Chip) (e : Nat) (f : Engine → Engine) : (ch.modEng e f).parts = ch.parts := rfl
@[simp] theorem Chip.modEng_hbms (ch : Chip) (e : Nat) (f : Engine → Engine) : (ch.modEng e f).hbms = ch.hbms := rfl
@[simp] theorem Chip.modEng_hbm (ch : Chip) (e : Nat) (f : Engine → Engine) : (ch.modEng e f).hbm = ch.hbm := rfl
@[simp] theorem Chip.modEng_hbmErr (ch : Chip) (e : Nat) (f : Engine → Engine) : (ch.modEng e f).hbmErr = ch.hbmErr := rfl
@[simp] theorem Chip.modEng_frames (ch : Chip) (e : Nat) (f : Engine → Engine) : (ch.modEng e f).frames = ch.frames := rfl
@[simp] theorem Chip.modEng_ledger (ch : Chip) (e : Nat) (f : Engine → Engine) : (ch.modEng e f).ledger = ch.ledger := rfl
@[simp] theorem Chip.modEng_flash (ch : Chip) (e : Nat) (f : Engine → Engine) : (ch.modEng e f).flash = ch.flash := rfl
@[simp] theorem Chip.modEng_models (ch : Chip) (e : Nat) (f : Engine → Engine) : (ch.modEng e f).models = ch.models := rfl
@[simp] theorem Chip.modEng_seqs (ch : Chip) (e : Nat) (f : Engine → Engine) : (ch.modEng e f).seqs = ch.seqs := rfl
@[simp] theorem Chip.modEng_wheels (ch : Chip) (e : Nat) (f : Engine → Engine) : (ch.modEng e f).wheels = ch.wheels := rfl
@[simp] theorem Chip.modEng_wheelOrder (ch : Chip) (e : Nat) (f : Engine → Engine) : (ch.modEng e f).wheelOrder = ch.wheelOrder := rfl
@[simp] theorem Chip.modEng_lcidMap (ch : Chip) (e : Nat) (f : Engine → Engine) : (ch.modEng e f).lcidMap = ch.lcidMap := rfl
@[simp] theorem Chip.modEng_runs (ch : Chip) (e : Nat) (f : Engine → Engine) : (ch.modEng e f).runs = ch.runs := rfl
@[simp] theorem Chip.modEng_nextRun (ch : Chip) (e : Nat) (f : Engine → Engine) : (ch.modEng e f).nextRun = ch.nextRun := rfl
@[simp] theorem Chip.modEng_works (ch : Chip) (e : Nat) (f : Engine → Engine) : (ch.modEng e f).works = ch.works := rfl
@[simp] theorem Chip.modEng_nextWork (ch : Chip) (e : Nat) (f : Engine → Engine) : (ch.modEng e f).nextWork = ch.nextWork := rfl
@[simp] theorem Chip.modEng_host (ch : Chip) (e : Nat) (f : Engine → Engine) : (ch.modEng e f).host = ch.host := rfl
@[simp] theorem Chip.modEng_sec (ch : Chip) (e : Nat) (f : Engine → Engine) : (ch.modEng e f).sec = ch.sec := rfl
@[simp] theorem Chip.modEng_boot (ch : Chip) (e : Nat) (f : Engine → Engine) : (ch.modEng e f).boot = ch.boot := rfl
@[simp] theorem Chip.modEng_fabric (ch : Chip) (e : Nat) (f : Engine → Engine) : (ch.modEng e f).fabric = ch.fabric := rfl
@[simp] theorem Chip.modEng_power (ch : Chip) (e : Nat) (f : Engine → Engine) : (ch.modEng e f).power = ch.power := rfl
@[simp] theorem Chip.modEng_rcv (ch : Chip) (e : Nat) (f : Engine → Engine) : (ch.modEng e f).rcv = ch.rcv := rfl
@[simp] theorem Chip.modEng_wire (ch : Chip) (e : Nat) (f : Engine → Engine) : (ch.modEng e f).wire = ch.wire := rfl
@[simp] theorem Chip.modEng_free (ch : Chip) (e : Nat) (f : Engine → Engine) : (ch.modEng e f).free = ch.free := rfl

@[simp] theorem Chip.send_clusters (ch : Chip) (o : Out) : (ch.send o).clusters = ch.clusters := rfl
@[simp] theorem Chip.send_dies (ch : Chip) (o : Out) : (ch.send o).dies = ch.dies := rfl
@[simp] theorem Chip.send_regions (ch : Chip) (o : Out) : (ch.send o).regions = ch.regions := rfl
@[simp] theorem Chip.send_parts (ch : Chip) (o : Out) : (ch.send o).parts = ch.parts := rfl
@[simp] theorem Chip.send_hbms (ch : Chip) (o : Out) : (ch.send o).hbms = ch.hbms := rfl
@[simp] theorem Chip.send_hbm (ch : Chip) (o : Out) : (ch.send o).hbm = ch.hbm := rfl
@[simp] theorem Chip.send_hbmErr (ch : Chip) (o : Out) : (ch.send o).hbmErr = ch.hbmErr := rfl
@[simp] theorem Chip.send_frames (ch : Chip) (o : Out) : (ch.send o).frames = ch.frames := rfl
@[simp] theorem Chip.send_ledger (ch : Chip) (o : Out) : (ch.send o).ledger = ch.ledger := rfl
@[simp] theorem Chip.send_flash (ch : Chip) (o : Out) : (ch.send o).flash = ch.flash := rfl
@[simp] theorem Chip.send_models (ch : Chip) (o : Out) : (ch.send o).models = ch.models := rfl
@[simp] theorem Chip.send_seqs (ch : Chip) (o : Out) : (ch.send o).seqs = ch.seqs := rfl
@[simp] theorem Chip.send_wheels (ch : Chip) (o : Out) : (ch.send o).wheels = ch.wheels := rfl
@[simp] theorem Chip.send_wheelOrder (ch : Chip) (o : Out) : (ch.send o).wheelOrder = ch.wheelOrder := rfl
@[simp] theorem Chip.send_lcidMap (ch : Chip) (o : Out) : (ch.send o).lcidMap = ch.lcidMap := rfl
@[simp] theorem Chip.send_runs (ch : Chip) (o : Out) : (ch.send o).runs = ch.runs := rfl
@[simp] theorem Chip.send_nextRun (ch : Chip) (o : Out) : (ch.send o).nextRun = ch.nextRun := rfl
@[simp] theorem Chip.send_works (ch : Chip) (o : Out) : (ch.send o).works = ch.works := rfl
@[simp] theorem Chip.send_nextWork (ch : Chip) (o : Out) : (ch.send o).nextWork = ch.nextWork := rfl
@[simp] theorem Chip.send_host (ch : Chip) (o : Out) : (ch.send o).host = ch.host := rfl
@[simp] theorem Chip.send_sec (ch : Chip) (o : Out) : (ch.send o).sec = ch.sec := rfl
@[simp] theorem Chip.send_boot (ch : Chip) (o : Out) : (ch.send o).boot = ch.boot := rfl
@[simp] theorem Chip.send_fabric (ch : Chip) (o : Out) : (ch.send o).fabric = ch.fabric := rfl
@[simp] theorem Chip.send_power (ch : Chip) (o : Out) : (ch.send o).power = ch.power := rfl
@[simp] theorem Chip.send_rcv (ch : Chip) (o : Out) : (ch.send o).rcv = ch.rcv := rfl
@[simp] theorem Chip.send_free (ch : Chip) (o : Out) : (ch.send o).free = ch.free := rfl
@[simp] theorem Chip.send_wire (ch : Chip) (o : Out) : (ch.send o).wire = ch.wire ++ [o] := rfl

@[simp] theorem Chip.reply_clusters (ch : Chip) (q : Req) (st : Status) (b : List Byte) : (ch.reply q st b).clusters = ch.clusters := rfl
@[simp] theorem Chip.reply_dies (ch : Chip) (q : Req) (st : Status) (b : List Byte) : (ch.reply q st b).dies = ch.dies := rfl
@[simp] theorem Chip.reply_regions (ch : Chip) (q : Req) (st : Status) (b : List Byte) : (ch.reply q st b).regions = ch.regions := rfl
@[simp] theorem Chip.reply_parts (ch : Chip) (q : Req) (st : Status) (b : List Byte) : (ch.reply q st b).parts = ch.parts := rfl
@[simp] theorem Chip.reply_hbms (ch : Chip) (q : Req) (st : Status) (b : List Byte) : (ch.reply q st b).hbms = ch.hbms := rfl
@[simp] theorem Chip.reply_hbm (ch : Chip) (q : Req) (st : Status) (b : List Byte) : (ch.reply q st b).hbm = ch.hbm := rfl
@[simp] theorem Chip.reply_hbmErr (ch : Chip) (q : Req) (st : Status) (b : List Byte) : (ch.reply q st b).hbmErr = ch.hbmErr := rfl
@[simp] theorem Chip.reply_frames (ch : Chip) (q : Req) (st : Status) (b : List Byte) : (ch.reply q st b).frames = ch.frames := rfl
@[simp] theorem Chip.reply_ledger (ch : Chip) (q : Req) (st : Status) (b : List Byte) : (ch.reply q st b).ledger = ch.ledger := rfl
@[simp] theorem Chip.reply_flash (ch : Chip) (q : Req) (st : Status) (b : List Byte) : (ch.reply q st b).flash = ch.flash := rfl
@[simp] theorem Chip.reply_models (ch : Chip) (q : Req) (st : Status) (b : List Byte) : (ch.reply q st b).models = ch.models := rfl
@[simp] theorem Chip.reply_seqs (ch : Chip) (q : Req) (st : Status) (b : List Byte) : (ch.reply q st b).seqs = ch.seqs := rfl
@[simp] theorem Chip.reply_wheels (ch : Chip) (q : Req) (st : Status) (b : List Byte) : (ch.reply q st b).wheels = ch.wheels := rfl
@[simp] theorem Chip.reply_wheelOrder (ch : Chip) (q : Req) (st : Status) (b : List Byte) : (ch.reply q st b).wheelOrder = ch.wheelOrder := rfl
@[simp] theorem Chip.reply_lcidMap (ch : Chip) (q : Req) (st : Status) (b : List Byte) : (ch.reply q st b).lcidMap = ch.lcidMap := rfl
@[simp] theorem Chip.reply_runs (ch : Chip) (q : Req) (st : Status) (b : List Byte) : (ch.reply q st b).runs = ch.runs := rfl
@[simp] theorem Chip.reply_nextRun (ch : Chip) (q : Req) (st : Status) (b : List Byte) : (ch.reply q st b).nextRun = ch.nextRun := rfl
@[simp] theorem Chip.reply_works (ch : Chip) (q : Req) (st : Status) (b : List Byte) : (ch.reply q st b).works = ch.works := rfl
@[simp] theorem Chip.reply_nextWork (ch : Chip) (q : Req) (st : Status) (b : List Byte) : (ch.reply q st b).nextWork = ch.nextWork := rfl
@[simp] theorem Chip.reply_sec (ch : Chip) (q : Req) (st : Status) (b : List Byte) : (ch.reply q st b).sec = ch.sec := rfl
@[simp] theorem Chip.reply_boot (ch : Chip) (q : Req) (st : Status) (b : List Byte) : (ch.reply q st b).boot = ch.boot := rfl
@[simp] theorem Chip.reply_fabric (ch : Chip) (q : Req) (st : Status) (b : List Byte) : (ch.reply q st b).fabric = ch.fabric := rfl
@[simp] theorem Chip.reply_power (ch : Chip) (q : Req) (st : Status) (b : List Byte) : (ch.reply q st b).power = ch.power := rfl
@[simp] theorem Chip.reply_rcv (ch : Chip) (q : Req) (st : Status) (b : List Byte) : (ch.reply q st b).rcv = ch.rcv := rfl
@[simp] theorem Chip.reply_free (ch : Chip) (q : Req) (st : Status) (b : List Byte) : (ch.reply q st b).free = ch.free := rfl
@[simp] theorem Chip.reply_wire (ch : Chip) (q : Req) (st : Status) (b : List Byte) :
    (ch.reply q st b).wire = ch.wire ++ [.reply q.port q.src q.part q.session q.seq st b] := rfl

@[simp] theorem Chip.acceptReply_clusters (ch : Chip) (k : Clock) (q : Req) (op : Nat) (w : WorkKind) (b : List Byte) :
    (ch.acceptReply k q op w b).clusters = ch.clusters := rfl
@[simp] theorem Chip.acceptReply_dies (ch : Chip) (k : Clock) (q : Req) (op : Nat) (w : WorkKind) (b : List Byte) :
    (ch.acceptReply k q op w b).dies = ch.dies := rfl
@[simp] theorem Chip.acceptReply_regions (ch : Chip) (k : Clock) (q : Req) (op : Nat) (w : WorkKind) (b : List Byte) :
    (ch.acceptReply k q op w b).regions = ch.regions := rfl
@[simp] theorem Chip.acceptReply_parts (ch : Chip) (k : Clock) (q : Req) (op : Nat) (w : WorkKind) (b : List Byte) :
    (ch.acceptReply k q op w b).parts = ch.parts := rfl
@[simp] theorem Chip.acceptReply_hbms (ch : Chip) (k : Clock) (q : Req) (op : Nat) (w : WorkKind) (b : List Byte) :
    (ch.acceptReply k q op w b).hbms = ch.hbms := rfl
@[simp] theorem Chip.acceptReply_hbm (ch : Chip) (k : Clock) (q : Req) (op : Nat) (w : WorkKind) (b : List Byte) :
    (ch.acceptReply k q op w b).hbm = ch.hbm := rfl
@[simp] theorem Chip.acceptReply_hbmErr (ch : Chip) (k : Clock) (q : Req) (op : Nat) (w : WorkKind) (b : List Byte) :
    (ch.acceptReply k q op w b).hbmErr = ch.hbmErr := rfl
@[simp] theorem Chip.acceptReply_frames (ch : Chip) (k : Clock) (q : Req) (op : Nat) (w : WorkKind) (b : List Byte) :
    (ch.acceptReply k q op w b).frames = ch.frames := rfl
@[simp] theorem Chip.acceptReply_ledger (ch : Chip) (k : Clock) (q : Req) (op : Nat) (w : WorkKind) (b : List Byte) :
    (ch.acceptReply k q op w b).ledger = ch.ledger := rfl
@[simp] theorem Chip.acceptReply_flash (ch : Chip) (k : Clock) (q : Req) (op : Nat) (w : WorkKind) (b : List Byte) :
    (ch.acceptReply k q op w b).flash = ch.flash := rfl
@[simp] theorem Chip.acceptReply_models (ch : Chip) (k : Clock) (q : Req) (op : Nat) (w : WorkKind) (b : List Byte) :
    (ch.acceptReply k q op w b).models = ch.models := rfl
@[simp] theorem Chip.acceptReply_seqs (ch : Chip) (k : Clock) (q : Req) (op : Nat) (w : WorkKind) (b : List Byte) :
    (ch.acceptReply k q op w b).seqs = ch.seqs := rfl
@[simp] theorem Chip.acceptReply_wheels (ch : Chip) (k : Clock) (q : Req) (op : Nat) (w : WorkKind) (b : List Byte) :
    (ch.acceptReply k q op w b).wheels = ch.wheels := rfl
@[simp] theorem Chip.acceptReply_wheelOrder (ch : Chip) (k : Clock) (q : Req) (op : Nat) (w : WorkKind) (b : List Byte) :
    (ch.acceptReply k q op w b).wheelOrder = ch.wheelOrder := rfl
@[simp] theorem Chip.acceptReply_lcidMap (ch : Chip) (k : Clock) (q : Req) (op : Nat) (w : WorkKind) (b : List Byte) :
    (ch.acceptReply k q op w b).lcidMap = ch.lcidMap := rfl
@[simp] theorem Chip.acceptReply_runs (ch : Chip) (k : Clock) (q : Req) (op : Nat) (w : WorkKind) (b : List Byte) :
    (ch.acceptReply k q op w b).runs = ch.runs := rfl
@[simp] theorem Chip.acceptReply_nextRun (ch : Chip) (k : Clock) (q : Req) (op : Nat) (w : WorkKind) (b : List Byte) :
    (ch.acceptReply k q op w b).nextRun = ch.nextRun := rfl
@[simp] theorem Chip.acceptReply_sec (ch : Chip) (k : Clock) (q : Req) (op : Nat) (w : WorkKind) (b : List Byte) :
    (ch.acceptReply k q op w b).sec = ch.sec := rfl
@[simp] theorem Chip.acceptReply_boot (ch : Chip) (k : Clock) (q : Req) (op : Nat) (w : WorkKind) (b : List Byte) :
    (ch.acceptReply k q op w b).boot = ch.boot := rfl
@[simp] theorem Chip.acceptReply_fabric (ch : Chip) (k : Clock) (q : Req) (op : Nat) (w : WorkKind) (b : List Byte) :
    (ch.acceptReply k q op w b).fabric = ch.fabric := rfl
@[simp] theorem Chip.acceptReply_power (ch : Chip) (k : Clock) (q : Req) (op : Nat) (w : WorkKind) (b : List Byte) :
    (ch.acceptReply k q op w b).power = ch.power := rfl
@[simp] theorem Chip.acceptReply_rcv (ch : Chip) (k : Clock) (q : Req) (op : Nat) (w : WorkKind) (b : List Byte) :
    (ch.acceptReply k q op w b).rcv = ch.rcv := rfl
@[simp] theorem Chip.acceptReply_free (ch : Chip) (k : Clock) (q : Req) (op : Nat) (w : WorkKind) (b : List Byte) :
    (ch.acceptReply k q op w b).free = ch.free := rfl

/-! ### The part updated, in a canonical store -/

theorem Chip.modCl_cl (ch : Chip) (i : Nat) (f : Cluster → Cluster) (h : Store.wf {} ch.clusters = true) (j : Nat) :
    (ch.modCl i f).cl j = if j = i then f (ch.cl i) else ch.cl j := look_upd i f h j
theorem Chip.modCl_cl_ne (ch : Chip) {i j : Nat} (f : Cluster → Cluster) (h : j ≠ i) : (ch.modCl i f).cl j = ch.cl j := look_upd_ne ({} : Cluster) ch.clusters f h
theorem Chip.modCl_wf (ch : Chip) (i : Nat) (f : Cluster → Cluster) (h : Store.wf {} ch.clusters = true) : Store.wf {} (ch.modCl i f).clusters = true := upd_wf i f h

theorem Chip.modDie_die (ch : Chip) (i : Nat) (f : Die → Die) (h : Store.wf {} ch.dies = true) (j : Nat) :
    (ch.modDie i f).die j = if j = i then f (ch.die i) else ch.die j := look_upd i f h j
theorem Chip.modDie_die_ne (ch : Chip) {i j : Nat} (f : Die → Die) (h : j ≠ i) : (ch.modDie i f).die j = ch.die j := look_upd_ne ({} : Die) ch.dies f h
theorem Chip.modDie_wf (ch : Chip) (i : Nat) (f : Die → Die) (h : Store.wf {} ch.dies = true) : Store.wf {} (ch.modDie i f).dies = true := upd_wf i f h

theorem Chip.modRg_rg (ch : Chip) (i : Nat) (f : Region → Region) (h : Store.wf {} ch.regions = true) (j : Nat) :
    (ch.modRg i f).rg j = if j = i then f (ch.rg i) else ch.rg j := look_upd i f h j
theorem Chip.modRg_rg_ne (ch : Chip) {i j : Nat} (f : Region → Region) (h : j ≠ i) : (ch.modRg i f).rg j = ch.rg j := look_upd_ne ({} : Region) ch.regions f h
theorem Chip.modRg_wf (ch : Chip) (i : Nat) (f : Region → Region) (h : Store.wf {} ch.regions = true) : Store.wf {} (ch.modRg i f).regions = true := upd_wf i f h

theorem Chip.modPt_pt (ch : Chip) (i : Nat) (f : Partition → Partition) (h : Store.wf {} ch.parts = true) (j : Nat) :
    (ch.modPt i f).pt j = if j = i then f (ch.pt i) else ch.pt j := look_upd i f h j
theorem Chip.modPt_pt_ne (ch : Chip) {i j : Nat} (f : Partition → Partition) (h : j ≠ i) : (ch.modPt i f).pt j = ch.pt j := look_upd_ne ({} : Partition) ch.parts f h
theorem Chip.modPt_wf (ch : Chip) (i : Nat) (f : Partition → Partition) (h : Store.wf {} ch.parts = true) : Store.wf {} (ch.modPt i f).parts = true := upd_wf i f h

theorem Chip.modSk_sk (ch : Chip) (i : Nat) (f : Stack → Stack) (h : Store.wf {} ch.hbms = true) (j : Nat) :
    (ch.modSk i f).sk j = if j = i then f (ch.sk i) else ch.sk j := look_upd i f h j
theorem Chip.modSk_sk_ne (ch : Chip) {i j : Nat} (f : Stack → Stack) (h : j ≠ i) : (ch.modSk i f).sk j = ch.sk j := look_upd_ne ({} : Stack) ch.hbms f h
theorem Chip.modSk_wf (ch : Chip) (i : Nat) (f : Stack → Stack) (h : Store.wf {} ch.hbms = true) : Store.wf {} (ch.modSk i f).hbms = true := upd_wf i f h

theorem Chip.modFr_fr (ch : Chip) (i : Nat) (f : Frame → Frame) (h : Store.wf {} ch.frames = true) (j : Nat) :
    (ch.modFr i f).fr j = if j = i then f (ch.fr i) else ch.fr j := look_upd i f h j
theorem Chip.modFr_fr_ne (ch : Chip) {i j : Nat} (f : Frame → Frame) (h : j ≠ i) : (ch.modFr i f).fr j = ch.fr j := look_upd_ne ({} : Frame) ch.frames f h
theorem Chip.modFr_wf (ch : Chip) (i : Nat) (f : Frame → Frame) (h : Store.wf {} ch.frames = true) : Store.wf {} (ch.modFr i f).frames = true := upd_wf i f h

theorem Chip.modLed_led (ch : Chip) (i : Nat) (f : LedgerEntry → LedgerEntry) (h : Store.wf {} ch.ledger = true) (j : Nat) :
    (ch.modLed i f).led j = if j = i then f (ch.led i) else ch.led j := look_upd i f h j
theorem Chip.modLed_led_ne (ch : Chip) {i j : Nat} (f : LedgerEntry → LedgerEntry) (h : j ≠ i) : (ch.modLed i f).led j = ch.led j := look_upd_ne ({} : LedgerEntry) ch.ledger f h
theorem Chip.modLed_wf (ch : Chip) (i : Nat) (f : LedgerEntry → LedgerEntry) (h : Store.wf {} ch.ledger = true) : Store.wf {} (ch.modLed i f).ledger = true := upd_wf i f h

theorem Chip.modMdl_mdl (ch : Chip) (i : Nat) (f : Model → Model) (h : Store.wf {} ch.models = true) (j : Nat) :
    (ch.modMdl i f).mdl j = if j = i then f (ch.mdl i) else ch.mdl j := look_upd i f h j
theorem Chip.modMdl_mdl_ne (ch : Chip) {i j : Nat} (f : Model → Model) (h : j ≠ i) : (ch.modMdl i f).mdl j = ch.mdl j := look_upd_ne ({} : Model) ch.models f h
theorem Chip.modMdl_wf (ch : Chip) (i : Nat) (f : Model → Model) (h : Store.wf {} ch.models = true) : Store.wf {} (ch.modMdl i f).models = true := upd_wf i f h

theorem Chip.modSq_sq (ch : Chip) (i : Nat) (f : KvSeq → KvSeq) (h : Store.wf {} ch.seqs = true) (j : Nat) :
    (ch.modSq i f).sq j = if j = i then f (ch.sq i) else ch.sq j := look_upd i f h j
theorem Chip.modSq_sq_ne (ch : Chip) {i j : Nat} (f : KvSeq → KvSeq) (h : j ≠ i) : (ch.modSq i f).sq j = ch.sq j := look_upd_ne ({} : KvSeq) ch.seqs f h
theorem Chip.modSq_wf (ch : Chip) (i : Nat) (f : KvSeq → KvSeq) (h : Store.wf {} ch.seqs = true) : Store.wf {} (ch.modSq i f).seqs = true := upd_wf i f h

theorem Chip.modPort_prt (ch : Chip) (i : Nat) (f : Port → Port) (h : Store.wf {} ch.fabric.ports = true) (j : Nat) :
    (ch.modPort i f).prt j = if j = i then f (ch.prt i) else ch.prt j := look_upd i f h j
theorem Chip.modPort_prt_ne (ch : Chip) {i j : Nat} (f : Port → Port) (h : j ≠ i) : (ch.modPort i f).prt j = ch.prt j := look_upd_ne ({} : Port) ch.fabric.ports f h

theorem Chip.modSlot_slot (ch : Chip) (c n : Nat) (f : Slot → Slot) (h : Store.wf {} ch.clusters = true) (h' : Store.wf {} (ch.cl c).slots = true) (m : Nat) :
    ((ch.modSlot c n f).cl c).slot m = if m = n then f ((ch.cl c).slot n) else (ch.cl c).slot m := by
  unfold Chip.modSlot; rw [ch.modCl_cl c _ h c, if_pos rfl]; exact look_upd n f h' m

theorem Chip.modStr_str (ch : Chip) (r n : Nat) (f : Stream → Stream) (h : Store.wf {} ch.regions = true) (h' : Store.wf {} (ch.rg r).streams = true) (m : Nat) :
    (ch.modStr r n f).str r m = if m = n then f (ch.str r n) else ch.str r m := by
  unfold Chip.modStr Chip.str; rw [ch.modRg_rg r _ h r, if_pos rfl]; exact look_upd n f h' m

theorem Chip.modBar_bar (ch : Chip) (p b : Nat) (f : Barrier → Barrier) (h : Store.wf {} ch.parts = true) (h' : Store.wf {} (ch.pt p).barriers = true) (m : Nat) :
    ((ch.modBar p b f).pt p).bar m = if m = b then f ((ch.pt p).bar b) else (ch.pt p).bar m := by
  unfold Chip.modBar; rw [ch.modPt_pt p _ h p, if_pos rfl]; exact look_upd b f h' m

end Sys2Proof.Machine
end

