-- ==== Sys2Proof/Laws/Memory.lean ====
section
/-! SUPPORT. HBM's bytes: the canonical form and what keeps it (spec/08_dram_flash.md R244, R245; spec/12_partitions_security.md R356). -/

namespace Sys2Proof.Machine

theorem State.reset_memory_wf : Memory.wf State.reset.chip.hbm = true := rfl

/-- Bytes put at consecutive addresses keep the form. -/
theorem putBytes_wf {m : List Host.Cell} (a : Nat) (bs : List Byte) (h : Memory.wf m = true) : Memory.wf (putBytes m a bs) = true := by
  induction bs generalizing m a with
  | nil => exact h
  | cons b t ih => exact ih _ (put_wf (d := (0 : Byte)) a b h)

/-- A write below its code words keeps the form, whichever words it leaves. -/
theorem Chip.writeWords_wf (part : List Nat) (n : Nat) {ch : Chip} (a : Nat) (bs : List Byte) (h : Memory.wf ch.hbm = true) : Memory.wf (ch.writeWords part a bs n).hbm = true := by
  induction n generalizing ch a bs with
  | zero => exact h
  | succ n ih =>
    simp only [Chip.writeWords]
    split
    · exact h
    · apply ih
      split
      · exact h
      · refine putBytes_wf a _ ?_
        split
        · exact putBytes_wf _ _ h
        · exact h

/-- An event sent, put into a ring or raised leaves memory. -/
@[simp] theorem Chip.sendEvent_hbm (ch : Chip) (sid : Nat) (ev : Event) : (ch.sendEvent sid ev).hbm = ch.hbm := by
  unfold Chip.sendEvent; split
  · rfl
  · dsimp only; split <;> rfl

@[simp] theorem Chip.raiseTo_hbm (ch : Chip) (k : Clock) (p : Nat) (sids : List Nat) (ev : Event) : (ch.raiseTo k p sids ev).hbm = ch.hbm := by
  have h : ∀ (l : List Nat) (c : Chip), (l.foldl (fun c i => c.sendEvent i ev) c).hbm = c.hbm := by
    intro l; induction l with
    | nil => intro c; rfl
    | cons a t ih => intro c; rw [List.foldl_cons, ih]; simp
  unfold Chip.raiseTo; rw [h]; rfl

@[simp] theorem Chip.raise_hbm (ch : Chip) (k : Clock) (p code : Nat) (st : Status) (ctx : Nat) (b : List Byte) : (ch.raise k p code st ctx b).hbm = ch.hbm := by simp [Chip.raise]
@[simp] theorem Chip.notice_hbm (ch : Chip) (k : Clock) (kind unit : Nat) : (ch.notice k kind unit).hbm = ch.hbm := by simp [Chip.notice]

/-- A corrected error counted, and an uncorrectable word, leave the bytes as they are. -/
@[simp] theorem Chip.countHbmCe_hbm (ch : Chip) (k : Clock) (w : Nat) : (ch.countHbmCe k w).hbm = ch.hbm := by
  unfold Chip.countHbmCe; dsimp only; split <;> simp

@[simp] theorem Chip.markFrame_hbm (ch : Chip) (f : Nat) : (ch.markFrame f).hbm = ch.hbm := by simp [Chip.markFrame]
@[simp] theorem Chip.pteTo_hbm (ch : Chip) (p page : Nat) (f : Option Nat) : (ch.pteTo p page f).hbm = ch.hbm := by simp [Chip.pteTo, Chip.dropTlb]
@[simp] theorem Chip.freeFrame_hbm (ch : Chip) (f p : Nat) (t : Bool) : (ch.freeFrame f p t).hbm = ch.hbm := by
  rfl

@[simp] theorem Chip.openRows_hbm (ch : Chip) (a n : Nat) : (ch.openRows a n).hbm = ch.hbm := rfl

@[simp] theorem Chip.hbmUe_hbm (ch : Chip) (w : Nat) : (ch.hbmUe w).hbm = ch.hbm := by
  unfold Chip.hbmUe; dsimp only; split
  · simp
  · split <;> simp

theorem foldl_hbm {α : Type} (f : Chip → α → Chip) (h : ∀ c a, (f c a).hbm = c.hbm) (l : List α) (ch : Chip) : (l.foldl f ch).hbm = ch.hbm := by
  induction l generalizing ch with
  | nil => rfl
  | cons a t ih => rw [List.foldl_cons, ih, h]

/-- Reading memory, by physical address or by DVA, leaves its bytes. -/
@[simp] theorem Chip.touchPhys_hbm (ch : Chip) (k : Clock) (a n : Nat) : (ch.touchPhys k a n).hbm = ch.hbm := by
  unfold Chip.touchPhys; rw [foldl_hbm, Chip.openRows_hbm]; intro c w; split
  · simp
  · split <;> simp

@[simp] theorem Chip.touchDva_hbm (ch : Chip) (k : Clock) (p dva n : Nat) : (ch.touchDva k p dva n).hbm = ch.hbm := by
  unfold Chip.touchDva; exact foldl_hbm _ (fun c r => by simp) _ _

/-- A range written keeps the form, by physical address and by DVA. -/
theorem Chip.writePhys_wf {ch : Chip} (k : Clock) (a : Nat) (bs : List Byte) (h : Memory.wf ch.hbm = true) : Memory.wf (ch.writePhys k a bs).hbm = true := by
  unfold Chip.writePhys
  rw [foldl_hbm _ (fun c w => by simp)]
  refine Chip.writeWords_wf _ _ a bs ?_
  rw [foldl_hbm _ (fun c w => by simp), Chip.openRows_hbm]; exact h

theorem Chip.writeDva_wf {ch : Chip} (k : Clock) (p dva : Nat) (bs : List Byte) (h : Memory.wf ch.hbm = true) : Memory.wf (ch.writeDva k p dva bs).hbm = true := by
  have g : ∀ (l : List (Nat × Nat × Nat)) (c : Chip), Memory.wf c.hbm = true →
      Memory.wf (l.foldl (fun c r => c.writePhys k r.1 (slice bs r.2.1 r.2.2)) c).hbm = true := by
    intro l; induction l with
    | nil => intro c hc; exact hc
    | cons a t ih => intro c hc; exact ih _ (Chip.writePhys_wf k _ _ hc)
  exact g _ _ h

/-- A frame zeroed keeps the form, and so does the block cleared. -/
theorem Chip.zeroFrame_wf {ch : Chip} (f : Nat) (h : Memory.wf ch.hbm = true) : Memory.wf (ch.zeroFrame f).hbm = true := filter_wf (d := (0 : Byte)) _ h

theorem Chip.cleared_wf (ch : Chip) : Memory.wf ch.cleared.hbm = true := rfl

end Sys2Proof.Machine
end

