-- ==== Sys2Proof/Laws/Ops.lean ====
section
/-! SUPPORT. What the shared operations answer, case by case: the frames of a command, the gate and checks of a host command, a field of a
schedule entry, a step of recovery. -/

namespace Sys2Proof.Machine

/-! ### Frames of a command -/

@[simp] theorem onChip_eq (s : State) (f : Clock → Chip → Chip) : onChip s f = .next { s with chip := f s.clk s.chip } := rfl

theorem step_idle {s : State} (h : s.pending = []) : step s = .next (tick s) := by simp [step, h]

theorem step_front {s : State} {i : Instr} {rest : List Instr} (h : s.pending = i :: rest) : step s = exec i { s with pending := rest } := by simp [step, h]

/-! ### Host commands -/

theorem firstFail_cons (b : Bool) (r : Refuse) (t : List (Bool × Refuse)) : firstFail ((b, r) :: t) = if b then some r else firstFail t := rfl

/-- Checks of which none holds refuse nothing, and the converse. -/
theorem firstFail_eq_none {l : List (Bool × Refuse)} : firstFail l = none ↔ ∀ x ∈ l, x.1 = false := by
  induction l with
  | nil => simp [firstFail]
  | cons a t ih =>
    obtain ⟨b, r⟩ := a
    cases b <;> simp [firstFail, ih]

theorem checked_ok {cs : List (Bool × Refuse)} (ch : Chip) (h : ∀ x ∈ cs, x.1 = false) : checked cs ch = .ok ch := by
  simp [checked, firstFail_eq_none.2 h]

theorem checked_error {cs : List (Bool × Refuse)} {r : Refuse} (ch : Chip) (h : firstFail cs = some r) : checked cs ch = .error r := by
  simp [checked, h]

/-- A device that does not answer drops a command. -/
theorem runCmd_silent (op : Nat) (q : Req) (body : Clock → Chip → Cmd) (k : Clock) {ch : Chip} (h : ch.answers = false) : runCmd op q body k ch = ch := by
  simp [runCmd, h]

/-- A command its gate refuses gets that refusal. -/
theorem runCmd_refused {op : Nat} {q : Req} (body : Clock → Chip → Cmd) (k : Clock) {ch : Chip} {r : Refuse} (h : ch.answers = true) (g : ch.gate op q = some r) :
    runCmd op q body k ch = ch.refuse q r := by
  simp [runCmd, h, g]

/-- A command taken does what its body does, or gets its body's refusal. -/
theorem runCmd_taken {op : Nat} {q : Req} (body : Clock → Chip → Cmd) (k : Clock) {ch : Chip} (h : ch.answers = true) (g : ch.gate op q = none) :
    runCmd op q body k ch = match body k ch with | .ok ch' => ch' | .error r => ch.refuse q r := by
  unfold runCmd; rw [h, g]; rfl

/-- A command taken with none of its checks holding does its effect. -/
theorem runCmd_checked {op : Nat} {q : Req} {cs : Chip → List (Bool × Refuse)} {f : Clock → Chip → Chip} (k : Clock) {ch : Chip} (h : ch.answers = true)
    (g : ch.gate op q = none) (hc : ∀ x ∈ cs ch, x.1 = false) : runCmd op q (fun k ch => checked (cs ch) (f k ch)) k ch = f k ch := by
  rw [runCmd_taken _ _ h g]; simp only [checked_ok _ hc]

/-- What a refusal, a body and a dropped command keep, a command keeps. -/
theorem runCmd_keeps {β : Type} (g : Chip → β) (op : Nat) (q : Req) (body : Clock → Chip → Cmd) (k : Clock) (ch : Chip) (hr : ∀ r, g (ch.refuse q r) = g ch)
    (hb : ∀ ch', body k ch = .ok ch' → g ch' = g ch) : g (runCmd op q body k ch) = g ch := by
  unfold runCmd; split
  · rfl
  · split
    · exact hr _
    · split
      · rename_i h; exact hb _ h
      · exact hr _

theorem Chip.worksFull_false {ch : Chip} {q : Req} (h : (ch.works.filter fun w => decide (w.part = q.part)).length < 256) : (ch.worksFull q).1 = false := by
  simp only [Chip.worksFull, decide_eq_false_iff_not]; omega

/-! ### Fields of a schedule entry -/

/-- An operation that the issuing entry does not hold as a field to act has no effect. -/
theorem field_notDue {c : Nat} {i : Instr} (k : Clock) {ch : Chip} (h : (ch.cl c).fieldDue c i = none) : field c i k ch = ch := by simp [field, h]

/-- A cluster that does not issue ignores a field. -/
theorem field_idle (c : Nat) (i : Instr) (k : Clock) {ch : Chip} (h : (ch.cl c).issuing = false) : field c i k ch = ch :=
  field_notDue k (by simp [Cluster.fieldDue, h])

/-- A field that does not wait acts when the rest of its entry is legal. -/
theorem field_acts {c j : Nat} {i : Instr} {k : Clock} {ch t : Chip} (h : (ch.cl c).fieldDue c i = some j) (hw : waitOf i = none) (hr : (ch.rest k c).isSome = true)
    (hf : fieldOf i k ch (ch.cl c) = some t) : field c i k ch = t.act c j := by
  obtain ⟨r, hr⟩ := Option.isSome_iff_exists.1 hr
  simp [field, h, hw, hr, hf]

/-- No field of an illegal entry acts, and its slot stops. -/
theorem field_illegal {c j : Nat} {i : Instr} {k : Clock} {ch : Chip} (h : (ch.cl c).fieldDue c i = some j) (hw : waitOf i = none) (hr : ch.rest k c = none) :
    field c i k ch = ch.illegal k c := by
  simp [field, h, hw, hr]

/-- A field that waits presents its wait. -/
theorem field_waits {c j : Nat} {i : Instr} {k : Clock} {ch : Chip} {dl : BitVec 2} {f : WaitField} (h : (ch.cl c).fieldDue c i = some j) (hw : waitOf i = some (dl, f)) :
    field c i k ch = ch.present k c dl f := by
  simp [field, h, hw]

/-- The control field ends its entry when its turn has come and the entry is legal. -/
theorem controlField_acts {c : Nat} {i : Instr} {k : Clock} {ch : Chip} (h : (ch.cl c).controlDue c i = true) (hr : (ch.rest k c).isSome = true) :
    controlField c i k ch = ch.control k c i := by
  obtain ⟨r, hr⟩ := Option.isSome_iff_exists.1 hr
  simp [controlField, h, hr]

theorem controlField_notDue {c : Nat} {i : Instr} (k : Clock) {ch : Chip} (h : (ch.cl c).controlDue c i = false) : controlField c i k ch = ch := by
  simp [controlField, h]

/-! ### Steps of recovery -/

/-- Before the device is ready no step starts. -/
theorem stepRow_unready (u : RecUnit) (cause : Nat) (d : Bool) (act : Clock → Chip → FaultRec → Chip) (k : Clock) {ch : Chip} (h : ch.ready = false) :
    stepRow u cause d act k ch = ch := by
  simp [stepRow, h]

/-- A step whose fault heads a free queue begins and acts. -/
theorem stepRow_starts {u : RecUnit} {cause : Nat} (d : Bool) {act : Clock → Chip → FaultRec → Chip} (k : Clock) {ch c : Chip} {f : FaultRec} {pkg : Bool} (h : ch.ready = true)
    (ht : ch.takeFault u cause = some (f, pkg, c)) : stepRow u cause d act k ch = act k (c.beginStep k f pkg) f := by
  simp [stepRow, h, ht]

/-- With none to start and nothing to detect nothing happens. -/
theorem stepRow_none {u : RecUnit} {cause : Nat} (act : Clock → Chip → FaultRec → Chip) (k : Clock) {ch : Chip} (ht : ch.takeFault u cause = none) :
    stepRow u cause false act k ch = ch := by
  simp [stepRow, ht]

/-- A fault that the row detects is queued, and its step starts when it then heads a free queue. -/
theorem stepRow_detects {u : RecUnit} {cause : Nat} {act : Clock → Chip → FaultRec → Chip} (k : Clock) {ch c : Chip} {f : FaultRec} {pkg : Bool} (h : ch.ready = true)
    (ht : ch.takeFault u cause = none) (hd : (ch.fault k cause u 0).takeFault u cause = some (f, pkg, c)) :
    stepRow u cause true act k ch = act k (c.beginStep k f pkg) f := by
  simp [stepRow, h, ht, hd]

end Sys2Proof.Machine
end

