-- ==== Sys2Proof/Safety.lean ====
section
/-! DEFINITION. What a safe step and a safe run are: the block answers with a next state, never with a fault or a refusal of the model. -/

namespace Sys2Proof.Machine

/-- The step answers a next state. -/
def StepSafe (s : State) : Prop := ∃ t, step s = .next t

/-- n steps from a state answer a next state. -/
def RunSafe (n : Nat) (s : State) : Prop := ∃ t, Sys2Proof.core.run n s = .next t

end Sys2Proof.Machine
end

