-- ==== Sys2Proof/WellFormed.lean ====
section
/-! DEFINITION. Which commands name parts the block has (spec/01_architecture.md R7, R9; the counts of each part as its own rule gives
them). -/

namespace Sys2Proof

/-- 80 clusters, 64 logical clusters, 16 regions, 4 dies (R7, R8). -/
def pcidOk (c : Nat) : Bool := decide (c < 80)
def lcidOk (l : Nat) : Bool := decide (l < 64)
def regionOk (r : Nat) : Bool := decide (r < 16)
def dieOk (d : Nat) : Bool := decide (d < 4)
/-- One attention engine a region (R316). -/
def engineOk (e : Nat) : Bool := decide (e < 16)
/-- 8 partitions and 4,096 contexts (R30, R348). -/
def partOk (p : Nat) : Bool := decide (p < 8)
def ctxOk (c : Nat) : Bool := decide (c < 4096)
/-- 4 task slots a cluster (R115), 16 banks (R155), 16 buffer pairs (R164), 2 address generators (R110), 8 lanes (R279). -/
def slotOk (n : Nat) : Bool := decide (n < 4)
def bankOk (b : Nat) : Bool := decide (b < 16)
def swapOk (n : Nat) : Bool := decide (n < 16)
def oagOk (g : Nat) : Bool := decide (g < 2)
def laneOk (l : Nat) : Bool := decide (l < 8)
/-- 64 streams and 256 semaphores a region (R7, R207), 32 barriers a partition (R213). -/
def streamOk (n : Nat) : Bool := decide (n < 64)
def semOk (k : Nat) : Bool := decide (k < 256)
def barOk (b : Nat) : Bool := decide (b < 32)
def genOk (g : Nat) : Bool := decide (g < 65536)
/-- 4 memory wheels and 8 remote ones of 64 positions (R200, R201). -/
def wheelOk (w : Nat) : Bool := decide (w < 12)
def posOk (i : Nat) : Bool := decide (i < 64)
/-- 4 stacks of 32 pseudo-channels of 12 refresh groups (R244, R250); frames by physical number (R215). -/
def stackOk (s : Nat) : Bool := decide (s < 4)
def pchOk (p : Nat) : Bool := decide (p < 32)
def groupOk (g : Nat) : Bool := decide (g < 12)
def frameOk (f : Nat) : Bool := decide (f < 2097152)
/-- Page slots of flash, their 16 sectors, ledger entries (R226, R232). -/
def pageSlotOk (s : Nat) : Bool := decide (s < 67108864)
def sectorOk (s : Nat) : Bool := decide (s < 16)
def lidxOk (i : Nat) : Bool := decide (i < 8388608)
/-- 16 model handles of two epochs, shards by 16-bit number (R315, R293). -/
def handleOk (h : Nat) : Bool := decide (h < 16)
def epochOk (e : Nat) : Bool := decide (e < 2)
def shardOk (s : Nat) : Bool := decide (s < 65536)
/-- 2 host ports, 8 fabric ports of two virtual channels, system device ids of 9 bits, jobs of 16 (R374, R401, R405). -/
def hostPortOk (p : Nat) : Bool := decide (p < 2)
def portOk (p : Nat) : Bool := decide (p < 8)
def vcOk (v : Nat) : Bool := decide (v < 2)
def devOk (d : Nat) : Bool := decide (d < 512)
def jobOk (j : Nat) : Bool := decide (j < 65536)
/-- 40 sensors and 17 rails (R426, R511). -/
def sensorOk (s : Nat) : Bool := decide (s < 40)
def tempsOk (ts : List Int) : Bool := decide (ts.length = 40)
def railsOk (rs : List RailReading) : Bool := rs.all fun r => decide (r.rail < 17)

/-- A request as a packet can carry it (R376, R379). -/
def reqOk (q : Req) : Bool :=
  decide (q.session < 2 ^ 64) && decide (q.seq < 2 ^ 32) && partOk q.part && ctxOk q.ctx && hostPortOk q.port && decide (q.payload.length ≤ 8896)

/-- Whether a command names only parts that exist. -/
def Instr.wf (i : Instr) : Bool :=
  match i with
  | .hostDatagramArrival port _ _ => hostPortOk port
  | .sessionOpen q => reqOk q
  | .sessionConfirm q => reqOk q
  | .sessionClose q => reqOk q
  | .pendingSessionLapse _ => true
  | .attest q => reqOk q
  | .keyPut q => reqOk q
  | .keyDrop q => reqOk q
  | .parCreate q => reqOk q
  | .parSet q => reqOk q
  | .parDestroy q => reqOk q
  | .teardownComplete p => partOk p
  | .ctxCreate q => reqOk q
  | .ctxDestroy q => reqOk q
  | .regRead q => reqOk q
  | .regWrite q => reqOk q
  | .registerWrite p _ _ => partOk p
  | .memMap q => reqOk q
  | .memUnmap q => reqOk q
  | .memProtect q => reqOk q
  | .translationChangeComplete _ => true
  | .memWrite q => reqOk q
  | .memRead q => reqOk q
  | .modelStage q => reqOk q
  | .modelLoad q => reqOk q
  | .modelUnload q => reqOk q
  | .switchWeights q => reqOk q
  | .shardPut q => reqOk q
  | .shardTryTimeout h e sh => handleOk h && epochOk e && shardOk sh
  | .shardTryComplete h e sh _ _ => handleOk h && epochOk e && shardOk sh
  | .shardPlaced h e sh => handleOk h && epochOk e && shardOk sh
  | .loadComplete h e => handleOk h && epochOk e
  | .shardRetryDue h e => handleOk h && epochOk e
  | .rehashDue h e sh => handleOk h && epochOk e && shardOk sh
  | .rehashComplete h e sh => handleOk h && epochOk e && shardOk sh
  | .peerShardRequest job src _ _ _ => jobOk job && devOk src
  | .peerMismatchReport job src _ _ _ => jobOk job && devOk src
  | .epochRelease h e => handleOk h && epochOk e
  | .tableLoad q => reqOk q
  | .tableClear q => reqOk q
  | .tableLoadComplete _ => true
  | .tableBuild q => reqOk q
  | .tableBuildComplete _ => true
  | .slotLoad q => reqOk q
  | .runStart q => reqOk q
  | .runCancel q => reqOk q
  | .streamArm q => reqOk q
  | .streamWithdraw q => reqOk q
  | .reqAdmit q => reqOk q
  | .reqEnd q => reqOk q
  | .kvCreate q => reqOk q
  | .kvDestroy q => reqOk q
  | .kvTruncate q => reqOk q
  | .kvCopy q => reqOk q
  | .kvSet q => reqOk q
  | .kvQuery q => reqOk q
  | .kvCarryOut _ => true
  | .pwrCap q => reqOk q
  | .pwrQuery q => reqOk q
  | .hbmPoint q => reqOk q
  | .hbmPointChangeComplete stack => stackOk stack
  | .telSet q => reqOk q
  | .telemetryPeriod p => partOk p
  | .evtAck q => reqOk q
  | .eventResend p _ => partOk p
  | .reset q => reqOk q
  | .ckptWrite q => reqOk q
  | .ckptRead q => reqOk q
  | .ckptTransferComplete _ => true
  | .dumpRead q => reqOk q
  | .flashUpdate q => reqOk q
  | .flashWriteComplete _ => true
  | .jobSetup q => reqOk q
  | .jobEnd q => reqOk q
  | .fabStatus q => reqOk q
  | .dbgOpen q => reqOk q
  | .dbgClose q => reqOk q
  | .dbgRead q => reqOk q
  | .dbgWrite q => reqOk q
  | .timeSyncMessage port _ => hostPortOk port
  | .timeSyncLoss _ port => hostPortOk port
  | .hostPortLinkChange port _ => hostPortOk port
  | .next c => pcidOk c
  | .loop c _ _ => pcidOk c
  | .endLoop c _ => pcidOk c
  | .endSlot c => pcidOk c
  | .phaseHint c _ => pcidOk c
  | .anop c => pcidOk c
  | .front c _ _ _ _ _ => pcidOk c
  | .issue c _ _ _ _ _ _ => pcidOk c
  | .mode c _ => pcidOk c
  | .vnop c => pcidOk c
  | .vld c _ _ _ _ _ _ _ => pcidOk c
  | .vst c _ _ _ _ _ _ _ _ _ => pcidOk c
  | .accrd c _ _ => pcidOk c
  | .vadd c _ _ _ => pcidOk c
  | .vsub c _ _ _ => pcidOk c
  | .vmul c _ _ _ => pcidOk c
  | .vfma c _ _ _ => pcidOk c
  | .vmax c _ _ _ => pcidOk c
  | .vmin c _ _ _ => pcidOk c
  | .vadds c _ _ _ => pcidOk c
  | .vmuls c _ _ _ => pcidOk c
  | .vexp2 c _ _ => pcidOk c
  | .vexp c _ _ => pcidOk c
  | .vrcp c _ _ => pcidOk c
  | .vrsqrt c _ _ => pcidOk c
  | .vdiv c _ _ _ => pcidOk c
  | .vsumr c _ _ => pcidOk c
  | .vmaxr c _ _ => pcidOk c
  | .vabs c _ _ => pcidOk c
  | .vneg c _ _ => pcidOk c
  | .vcvtif c _ _ => pcidOk c
  | .vcvtfi c _ _ => pcidOk c
  | .viadd c _ _ _ => pcidOk c
  | .vmov c _ _ => pcidOk c
  | .snop c => pcidOk c
  | .li c _ _ => pcidOk c
  | .lui c _ _ => pcidOk c
  | .add c _ _ _ => pcidOk c
  | .sub c _ _ _ => pcidOk c
  | .addi c _ _ _ => pcidOk c
  | .and c _ _ _ => pcidOk c
  | .or c _ _ _ => pcidOk c
  | .xor c _ _ _ => pcidOk c
  | .shl c _ _ _ => pcidOk c
  | .shr c _ _ _ => pcidOk c
  | .ldn c _ _ _ => pcidOk c
  | .stn c _ _ _ => pcidOk c
  | .wreg c _ _ => pcidOk c
  | .rdreg c _ _ => pcidOk c
  | .ynop c => pcidOk c
  | .waitsem c _ _ _ => pcidOk c
  | .sigsem c _ _ _ => pcidOk c
  | .arrive c _ _ => pcidOk c
  | .waitbar c _ _ => pcidOk c
  | .arrwait c _ _ _ => pcidOk c
  | .ckpt c _ _ _ => pcidOk c
  | .waithalf c _ _ _ => pcidOk c
  | .relhalf c _ _ _ => pcidOk c
  | .swap c _ => pcidOk c
  | .yieldpt c => pcidOk c
  | .barrierRelease p b => partOk p && barOk b
  | .fillerRampDown c => pcidOk c
  | .waitSatisfied c n => pcidOk c && slotOk n
  | .waitBudgetExpiry c => pcidOk c
  | .heartbeat c => pcidOk c
  | .heartbeatLoss c => pcidOk c
  | .seedHiWrite p lcid _ => partOk p && lcidOk lcid
  | .oagStart p lcid gen _ => partOk p && lcidOk lcid && oagOk gen
  | .slotCfgWrite p lcid n _ => partOk p && lcidOk lcid && slotOk n
  | .dbufWrite p lcid n _ => partOk p && lcidOk lcid && swapOk n
  | .scratchpadFill p lcid => partOk p && lcidOk lcid
  | .scratchpadCopy p lcid => partOk p && lcidOk lcid
  | .fillCopyComplete c => pcidOk c
  | .bankPwrWrite p lcid _ => partOk p && lcidOk lcid
  | .bankPowerOnComplete c bank => pcidOk c && bankOk bank
  | .semWrite p region k _ => partOk p && regionOk region && semOk k
  | .barMaskWrite p bar _ _ => partOk p && barOk bar
  | .smbusWrite _ _ _ => true
  | .smbusAlertResponse => true
  | .wheelPosition wheel pos => wheelOk wheel && posOk pos
  | .streamRequestComplete region stream => regionOk region && streamOk stream
  | .streamIdleReturn region stream => regionOk region && streamOk stream
  | .translationWalkComplete region stream => regionOk region && streamOk stream
  | .halfDeadline region stream _ => regionOk region && streamOk stream
  | .blockEmission c lane => pcidOk c && laneOk lane
  | .outboundBlockCoding region => regionOk region
  | .liftComplete lidx => lidxOk lidx
  | .dropComplete lidx => lidxOk lidx
  | .flashSectorReadComplete slot sector _ => pageSlotOk slot && sectorOk sector
  | .hbmRefreshDue stack pch group => stackOk stack && pchOk pch && groupOk group
  | .refreshMakeupBurst stack pch group => stackOk stack && pchOk pch && groupOk group
  | .maintenanceWindow stack pch => stackOk stack && pchOk pch
  | .driveStrengthCalibration stack => stackOk stack
  | .frameZeroed frame => frameOk frame
  | .attentionTaskReady e => engineOk e
  | .attentionTaskComplete e => engineOk e
  | .collapseSupplySample c _ => pcidOk c
  | .collapseFailure c => pcidOk c
  | .clusterReintegration c _ => pcidOk c
  | .powerSample rails temps => railsOk rails && tempsOk temps
  | .loopBoundary _ => true
  | .oppSwitch d => dieOk d
  | .thermalTrip sensor _ => sensorOk sensor
  | .contextReset p ctx _ => partOk p && ctxOk ctx
  | .clusterSubstitution c _ => pcidOk c
  | .attentionEngineReset e _ => engineOk e
  | .streamEngineReset region _ => regionOk region
  | .partitionReset p _ => partOk p
  | .dieReset d _ _ _ _ => dieOk d
  | .packageReset _ => true
  | .recoveryStepComplete _ => true
  | .stepWatchdogExpiry _ => true
  | .mgmtStartTimeout => true
  | .tallyScan => true
  | .suspectReplay p ctx => partOk p && ctxOk ctx
  | .noProgressWatchdog p ctx => partOk p && ctxOk ctx
  | .portBringUp port _ => portOk port
  | .portBringUpRetry port => portOk port
  | .hello port _ => portOk port
  | .cablePresenceChange port _ => portOk port
  | .hopAcknowledge port _ => portOk port
  | .hopReplayRequest port _ => portOk port
  | .fecUncorrectable port => portOk port
  | .linkCreditTimeout port vc => portOk port && vcOk vc
  | .linkSilenceTimeout port _ => portOk port
  | .portFrameSend port => portOk port
  | .dataFrame port _ => portOk port
  | .flowAcknowledge job dst _ _ => jobOk job && devOk dst
  | .flowNegativeAcknowledge job dst _ _ => jobOk job && devOk dst
  | .flowResendTimer job dst _ _ => jobOk job && devOk dst
  | .epochNotice port _ => portOk port
  | .barrierFrame port job bar gen src dst _ => portOk port && jobOk job && barOk bar && genOk gen && devOk src && devOk dst
  | .jobBarrierTimeout p bar => partOk p && barOk bar
  | .collectiveComplete _ _ => true
  | .pwrEnRise => true
  | .pwrEnFall => true
  | .powerOffHoldEnd => true
  | .resetNAssert _ => true
  | .vinLockout _ _ => true
  | .tripHoldEnd => true
  | .bootSequence _ => true
  | .bootReady => true
  | .repairRecordWrite => true
  | .resetNRelease => true
  | .vauxChange _ => true
  | .vinEntersRange _ => true
  | .debugScanAccess _ _ => true
  | .oppTransitionEnd d => dieOk d
  | .sectorRefreshRewriteComplete slot sector => pageSlotOk slot && sectorOk sector
  | .checkpointCaptureComplete c => pcidOk c

end Sys2Proof
end

