-- ==== Sys2Proof/Tests/Slice0.lean ====
section
/-! SUPPORT. Tests of the model against the spec's worked examples, a check of WellFormed by ill-formed commands, and for every clause of
the statements that has hypotheses a state and operands that meet them (witness_<clause>). -/

set_option maxRecDepth 8000
set_option Elab.async false

open Sys2Proof Sys2Proof.Machine

namespace Sys2Proof.Tests

/-! ### States that meet the statements' hypotheses -/

/-- A slot that runs a table of four entries. -/
def runSlot : Slot := { st := .running, len := 4, cnt := [(0, 2)] }

/-- A cluster that serves lcid 0 and issues. -/
def runCl : Cluster := { svc := .owned, lcid := some 0, slots := [(0, runSlot), (1, { st := .yielded, prio := 1, wait := some { on := .sem 0 0, budget := 1, since := 0 } })] }

/-- The management partition with a part of everything. -/
def mgmt : Partition :=
  { valid := true, lcids := 3, engines := 1, ctxCount := 4, contexts := [(0, some {})], seqCount := 4, hndCount := 4, strCount := [(0, 4)], semCount := [(0, 4)],
    quota := [(0, 64)], ways := [(0, 1)], power := 8, barriers := [(0, { mask := 3 })] }

/-- A block that is ready, with one issuing cluster. -/
def readyChip : Chip :=
  { clusters := [(0, runCl)], parts := [(0, mgmt)], lcidMap := [(0, some 0)], boot := { phase := 6 }, sec := { idOk := true } }

def ready : State := { State.reset with chip := readyChip, mod := { vaux := true, pwrEn := true, st := .on, rails := true } }

/-- The ready state with its cluster replaced. -/
def withCl (x : Cluster) : State := { ready with chip := { readyChip with clusters := [(0, x)] } }

/-- A request of the management partition. -/
def req (payload : List Byte) : Req := { session := 1, seq := 1, part := 0, ctx := 0, port := 0, src := 0, stamp := 0, payload := payload }

/-- An entry of four fields, a control code with its level and count, and a hint (spec/04_cluster.md R120). -/
def ent (array vector sync scalar : Nat) (cop : Nat := 0) (level : Nat := 0) (count : Nat := 0) (hint : Nat := 0) : BitVec 128 :=
  .ofNat 128 (scalar + 2 ^ 20 * sync + 2 ^ 40 * vector + 2 ^ 72 * array + 2 ^ 104 * count + 2 ^ 120 * hint + 2 ^ 124 * level + 2 ^ 126 * cop)

/-- A state whose cluster 0 has an entry at its slot's pointer. -/
def withTab (e : BitVec 128) (s : State) : State := { s with chip := s.chip.modCl 0 fun x => { x with table := [(0, e)] } }

/-- The ready state with semaphores, streams and the like of region 0 replaced. -/
def withRg (g : Region) : State := { ready with chip := { readyChip with regions := [(0, g)] } }

/-- The ready state with a barrier of partition 0 replaced. -/
def withBar (b : Barrier) : State := { ready with chip := { readyChip with parts := [(0, { mgmt with barriers := [(0, b)] })] } }

/-- The ready state at an instant. -/
def atNs (t : Nat) : State := { ready with clk := { localNs := t, timebase := t } }

def capSt : State := withCl { runCl with capture := some { endAt := 0, keys := [] } }

/-- The current slot waits past its budget, and another is ready. -/
def budgetSt : State := withCl { runCl with slots := [(0, { runSlot with st := .waiting, wait := some { on := .sem 0 1, budget := 0, since := 0 } }), (1, { st := .yielded })] }

/-- An open session of partition 0, and one not confirmed yet. -/
def sess : Session :=
  { id := 1, part := 0, confirmed := true, closed := false, transcript := [], h2d := [], d2h := [], ivH := [], ivD := [], repliedAt := 0, highest := 0, window := [], evtNo := 1, addr := 0, port := 0 }
def pendingSess : Session := { sess with confirmed := false }

def withSess (l : List Session) : State := { ready with chip := { readyChip with host := { sessions := l } } }

/-- A datagram's 32 header bytes: opcode, payload length, session. -/
def header (op len sid : Nat) : List Byte := toBe 0xA5C1 2 ++ [1, 0] ++ toBe op 2 ++ zeros 4 ++ toBe len 2 ++ zeros 4 ++ toBe sid 8 ++ zeros 8

def withPt (p : Partition) : State := { ready with chip := { readyChip with parts := [(0, p)] } }

def withDbg : State := { ready with chip := { readyChip with sec := { idOk := true, dbgOpen := true } } }

/-- An accepted command of partition 0, and the ready state with it. -/
def wk (kind : WorkKind) : Work := { id := 1, part := 0, ctx := 0, session := 1, seqNo := 1, opcode := 0x0303, kind := kind }
def withWork (kind : WorkKind) : State := { ready with chip := { readyChip with works := [wk kind] } }

/-- The payload of a PAR_CREATE of partition 1 with lcid 4. -/
def createPayload (flags : Byte) : List Byte :=
  [1, flags, 0, 8] ++ toBe 16 8 ++ zeros 12 ++ ([0, 1] ++ zeros 14) ++ zeros 16 ++ zeros 32 ++ zeros 16 ++ zeros 24 ++ ([1] ++ zeros 31)

/-- The ready state with a clean cluster 5 for lcid 4. -/
def cleanSt : State := { ready with chip := { readyChip with clusters := [(0, runCl), (5, { svc := .clean, lcid := some 4 })], lcidMap := [(0, some 0), (4, some 5)] } }

/-- A state whose partition 0 has page 1 mapped, readable and writable, to frame 7. -/
def mapped : State := withPt { mgmt with pages := [(1, { v := true, rd := true, wr := true, frame := 7 })] }

def idleCl : Cluster := { svc := .owned, lcid := some 0, opLen := 128 }

def fillOp : FillCopy := { copy := false, dst := 0, src := 0, len := 128, part := 0 }
def fillDone : FillCopy := { fillOp with moved := 128 }
def fillCl : Cluster := { runCl with opBusy := some fillOp }
def fillSt : State := { ready with chip := { readyChip with clusters := [(0, { idleCl with opBusy := some fillDone })], works := [wk (.fillCopy 0)] } }
def idleSt : State := withCl idleCl

/-- The ready state with model handle 0. -/
def withModel (m : Model) (works : List Work) : State := { ready with chip := { readyChip with models := [(0, m)], works := works } }

/-- A handle of partition 0 with one epoch of revision 1 and one shard. -/
def oneShard (st : EpochState) (x : Shard) : Model :=
  { valid := true, modelId := 1, ep0 := { st := st, revision := 1, nshards := 1, shards := [(0, x)], work := if st = .loading then some 1 else none } }

def withJob (h : Model) (j : Job) : State :=
  { ready with chip := { readyChip with models := [(0, h)], fabric := { jobs := [(0, j)] }, flash := { kept := [{ part := 0, model := 1, rev := 1, manifest := [], shards := [(0, [1])] }] } } }

def job5 : Job := { valid := true, part := 0, job := 5, members := [0, 1] }

/-- A table image of one symbol. -/
def image1 : List Byte := buildImage 0 (1 :: List.replicate 15 0)

def putPayload (off : Nat) (data : List Byte) : List Byte := toBe 1 8 ++ toBe 1 4 ++ zeros 4 ++ toBe off 4 ++ zeros 4 ++ data
def laterNs (s : State) (t : Nat) : State := { s with clk := { localNs := t, timebase := t } }

/-- The end of a table: an entry whose control field is END. -/
def endEntry : List Byte := zeros 15 ++ [0xC0]

/-- The mapped state with bytes in its page's frame. -/
def memAt (m : List Host.Cell) : State := { mapped with chip := { mapped.chip with hbm := m } }

/-- A run of the context, and the ready state with it. -/
def run1 : Run := { id := 1, part := 0, ctx := 0, session := 1, seqNo := 1, handle := none, epoch := 0, slots := [(0, 0)], engines := [], requests := [], ended := [], recovering := false, fidelity := 0 }

/-- An admitted request. -/
def req7 : Request := { id := 7, handle := 0, epoch := 0, rev := 1, ctx := 0, session := 1, seqNo := 1, ending := false, fidelity := 0, runs := 0, served := 0 }

/-- Slot 2 of the cluster holds a table. -/
def loadedSt : State := withCl { runCl with slots := [(0, runSlot), (2, { st := .loaded, len := 1 })] }

/-- A state with a partition that has a stream, and that stream. -/
def withStr (x : Stream) : State := withRg { streams := [(0, x)] }

/-- The 64 bytes of an inbound descriptor of one page. -/
def descBytes (len : Nat) : List Byte :=
  toLe 65536 8 ++ toLe len 4 ++ toLe 4096 2 ++ toLe 1 2 ++ toLe 1 2 ++ toLe 1 2 ++ zeros 12 ++ toLe 0 2 ++ toLe 8 2 ++ zeros 28

def armReq (len : Nat) : Req := req (zeros 4 ++ descBytes len)

def desc1 : Desc := { descOf (descBytes 4096) with session := 1, seqNo := 1 }
def descDue : Desc := { desc1 with deadline := 9 }
def activeStr : Stream := { st := .active, active := some desc1, h0 := { desc := some desc1, eng := true, want := 4096 } }

/-- A request of stream 0 for 256 bytes of HBM. -/
def sreq (write drop : Bool) : StreamReq :=
  { write := write, kind := .data, half := false, idx := 0, dva := 65536, len := 256, data := if write then zeros 256 else [], credit := 256, walking := false, phys := some 0,
    flash := none, lidx := none, window := none, await := 0, remoteLeft := 0, left := 0, drop := drop }

/-- A read position of wheel 0 that partition 0 owns. -/
def withWheel (own : Option Nat) (parts : Store Partition) (rg : Region) : State :=
  { ready with chip := { readyChip with wheels := [(wheelKey 0 5, { owner := own })], parts := parts, regions := [(0, rg)] } }

/-- The descriptor of a sequence of one layer and one head. -/
def kvBytes : List Byte := toLe 65536 8 ++ toLe 65536 8 ++ [1, 1, 1, 0] ++ toLe 32 4 ++ [0, 1] ++ zeros 18 ++ toLe 0x3F800000 4 ++ toLe 0 4 ++ toLe 1 2 ++ zeros 10

/-- A state with sequence 0 of partition 0, whose page is mapped. -/
def kvSt (works : List Work) (eng : Engine) : State :=
  { mapped with chip := { mapped.chip with seqs := [(0, { kvDescriptor kvBytes with lists := [(0, emptyList)] })], works := works, regions := [(0, { eng := eng })],
                                           parts := [(0, { mgmt with pages := (List.range 4).map fun i => (i + 1, ({ v := true, rd := true, wr := true, frame := 7 + i } : Pte)) })] } }
def kvNoSeq : State := { kvSt [] {} with chip := { (kvSt [] {}).chip with seqs := [] } }

def walk1 : Walk := { part := 0, page := 1, stream := 0, reads := [], remote := false, addrs := [0] }
/-- A finished walk of partition 0's page 1. -/
def withWalk (v : Bool) : State :=
  { ready with chip := { readyChip with regions := [(0, { walks := [walk1] })], parts := [(0, { mgmt with pages := [(1, { v := v })] })] } }

def lane1 : LaneBuf := { region := 0, stream := 0, half := false, block := 0, dva := 65536, bytes := zeros 64, asked := 64, got := 64, need := 64, headBack := true, complete := some 0, failed := false }
/-- A block complete in lane 0 of cluster 0, at an aclk. -/
def withLane (n : Nat) : State :=
  { ready with chip := { readyChip with clusters := [(0, { runCl with aclk := n, lanes := [(0, { bufs := [lane1] })] })], regions := [(0, { streams := [(0, activeStr)] })] } }

def descRun : Desc := { desc1 with dir := 1, run := 32768 }
/-- A raw block queued for the region's encoder. -/
def withEnc (t : CodecSlot) : State :=
  { ready with chip := { readyChip with
      clusters := [(0, { runCl with codec := [(0, t)] })],
      regions := [(0, { streams := [(0, { activeStr with active := some descRun, h0 := { desc := some descRun } })], encQueue := [(0, false, 0)], encData := List.replicate 4096 0 })] } }

/-- Engine 0 at its first task, which is the 64 bytes at DVA 65536: the list of head 0, one token, and wn units of semaphore 0. -/
def taskEng (g : Engine) (h wn sem : Nat) (works : List Work) : State :=
  let s := kvSt works { g with part := some 0, dva := 65536, count := 1 }
  { s with chip := { s.chip with hbm := (if h = 0 then [] else [(458756, 1)]) ++ [(458758, 1)] ++ (if wn = 0 then [] else [(458800, BitVec.ofNat 8 wn)]),
                                 regions := [(0, { eng := { g with part := some 0, dva := 65536, count := 1 }, sems := if sem = 0 then [] else [(0, sem)] })] } }

def task1 : List Byte := [0, 0, 0, 0, 1, 0, 1] ++ zeros 57
def taskWait (n : Nat) : List Byte := [0, 0, 0, 0, 1, 0, 1] ++ zeros 41 ++ [BitVec.ofNat 8 n] ++ zeros 15
/-- A change of the map whose old request is still out. -/
def stillOutSt : State := { withStr { activeStr with reqs := [sreq false false] } with
  chip := { (withStr { activeStr with reqs := [sreq false false] }).chip with works := [wk (.protect [(0, 0, 65536)])] } }
/-- A peer that asks for a shard this device has nowhere. -/
def jobFlows : Job := { job5 with flows := 4 }
def peerMissSt : State := { withJob (oneShard .current {}) jobFlows with chip := { (withJob (oneShard .current {}) jobFlows).chip with flash := {} } }
/-- A run of another context. -/
def run2 : Run := { run1 with ctx := 1 }

/-- A staging buffer that is full. -/
def fullSt : State := { withStr { activeStr with reqs := [sreq false false] } with
  chip := { (withStr { activeStr with reqs := [sreq false false] }).chip with
    clusters := [(0, { runCl with staged := List.replicate 4 { region := 0, stream := 0, half := false, addr := 0, bytes := List.replicate 4096 0, form := 0 } })] } }

/-- The word at address 0 has two symbols in error. -/
def lostWalk : State := { withWalk true with chip := { (withWalk true).chip with hbmErr := [(0, 0x101)] } }

def descFall : Desc := { descDue with fallback := 131072 }
def halfDue (d : Desc) : State := laterNs (withStr { activeStr with h0 := { desc := some d, eng := true } }) 9
def engReq1 : EngReq := { write := false, phys := some 0, len := 64, remoteLeft := 0, left := 64 }
def attnDone (reqs : List EngReq) : AttnWork := { task := attnTask task1, lists := [], evicted := 0, outs := [], ready := 0, reqs := reqs }

/-- A table of one entry at DVA 65536 with a plan behind it, of one record without ranges. -/
def plan1 : List Byte := planMarker ++ toLe 1 2 ++ zeros 2 ++ toLe 24 4 ++ toLe (crc32c (zeros 8)).toNat 4 ++ zeros 8
def planSt : State := memAt (writeBytes [(458767, 0xC0)] 458768 plan1)

theorem except_ok {ε α : Type} {x : Except ε α} {a : α} (h : x.toOption = some a) : x = .ok a := by
  cases x <;> simp_all [Except.toOption]

/-- A state with one ledger entry. -/
def withLed (e : LedgerEntry) : State := { ready with chip := { readyChip with ledger := [(0, e)] } }
def withFrame (u : FrameUse) : State := { ready with chip := { readyChip with frames := [(7, { use := u })] } }

/-- A stack with a request at risk: stream 0 of region 0 reads its first bytes. -/
def withSk (x : Stack) (risk : Bool) (hotAt : Int) : State :=
  { ready with chip := { readyChip with hbms := [(0, x)], dies := [(0, { stackTemp := hotAt })],
                                        regions := if risk then [(0, { streams := [(0, { activeStr with dry := some 0, reqs := [sreq false false] })] })] else [] } }

def withDie (d : Die) : State := { ready with chip := { readyChip with dies := [(0, d)] } }

def ev1 : Event := { code := 0xE010, status := 0, part := 0, ctx := 0, origSeq := 0, origOp := 0, payload := [], stamp := 0 }
def ring1 : RingEntry := { id := 1, ev := ev1, due := [(1, 1)], toAll := false, sends := 1, last := 0 }

/-- Partition 0 with a checkpoint key and a page. -/
def ckptPt : Partition := { mgmt with ckptKey := some (zeros 32), pages := [(1, { v := true, rd := true, wr := true, frame := 7 })] }
def ckpt1 : FlashCkpt := { part := 0, id := 9, len := 0, sealed := zeros 28, good := true }
def withFlash (p : Partition) (f : Flash) (works : List Work) : State :=
  { ready with chip := { readyChip with parts := [(0, p)], flash := f, works := works } }

def dirtySt : State := { ready with chip := { readyChip with boot := { phase := 6, repairDirty := true } } }

/-- Sector 0 of page slot 3 with its header, its page lifting, or in flash with a granted request of a stream for it. -/
def sec3 : Flash := { heads := [(48, { slot := 3, sector := 0 })] }
def lift3 : LedgerEntry := { st := .lifting, slot := some 3 }
def liftSec : State := { withLed lift3 with chip := { (withLed lift3).chip with flash := sec3 } }
def secReq : StreamReq := { sreq false false with phys := none, flash := some (3, 0) }
def flashSec : State :=
  { withLed { st := .flash, slot := some 3 } with chip := { (withLed { st := .flash, slot := some 3 }).chip with flash := sec3, regions := [(0, { streams := [(0, { activeStr with reqs := [secReq] })] })] } }

/-- A frame under zeroing that is marked, and one whose stack refreshes itself. -/
def frameMarked : State := { ready with chip := { readyChip with frames := [(7, { use := .zeroing 1 false, marked := true })] } }
def frameShut : State := { ready with chip := { readyChip with frames := [(7, { use := .zeroing 1 false })], hbms := [(0, { selfRefresh := true })] } }

/-- A checkpoint's range in a stack that refreshes itself. -/
def ckptShut : State :=
  { withFlash ckptPt {} [wk (.ckptWrite 9 65536 65536)] with chip := { (withFlash ckptPt {} [wk (.ckptWrite 9 65536 65536)]).chip with hbms := [(0, { selfRefresh := true })] } }

/-- A state with only its pins. -/
def pinned (m : ModulePins) : State := { State.reset with mod := m }

/-- The ready state with port 0, and one with the job and fabric given. -/
def withPort (x : Port) : State := { ready with chip := { readyChip with fabric := { enabled := 255, xs := 2, ports := [(0, x)] } } }
def withFab (f : Fabric) (p : Partition) (works : List Work) : State := { ready with chip := { readyChip with fabric := f, parts := [(0, p)], works := works } }

def txf (barrier : Bool) : TxFrame := { bytes := zeros 36, job := 5, vc := 0, barrier := barrier }
def goodLink : LinkMeasure := { lock := true, loss := 200, fecUe := 0, medianRtt := 500 }
def hello1 : HelloMsg := { xs := 2, ys := 1, zs := 1, self := 1, epoch := 0, fwVersion := 0, caps := 0, idPub := [], sig := [] }

/-- A frame of hseq n for device d. -/
def frameTo (d n : Nat) : List Byte := ({ type := 0, srcEpoch := 0, src := 1, dst := d, job := 5, hseq := n } : FrameHdr).bytes

def kept1 : KeptFrame := { fseq := 3, payload := [], codec := false, sends := 1, sentAt := 0 }
def jobSeven : Job := { job5 with timeout := 7 }
def flow1 (n : Nat) : Flow := { job := 5, peer := 1, flow := n, outbound := true, nextSeq := 4, kept := [kept1], ahead := [], failed := false }
def fab5 (n : Nat) : Fabric := { xs := 2, jobs := [(0, jobSeven)], flows := [flow1 n], ports := [(0, { st := .up })] }

/-- Partition 0 with barrier 0 bound to job 5. -/
def jobPt (t : Option Nat) : Partition := { mgmt with barriers := [(0, { job := some 5, localDone := t })] }

def coll0 : CollEntry := { op := 1, dtype := 0, bar := 0, codec := false, width := 0, src := 65536, dst := 65536, len := 0, table := 0, region := 0, sem := 0, n := 1 }
def collSt (c : Collective) : State := withFab { fab5 0 with colls := [c] } mgmt []
def coll1 (len : Nat) (started failed : Bool) : Collective := { id := 7, part := 0, job := 5, idx := 0, entry := { coll0 with len := len }, started := started, failed := failed }

/-- A JOB_SETUP of job 5 whose only member is this device. -/
def jobReq5 : Req := req (toBe 5 2 ++ zeros 6 ++ [1, 0] ++ toBe 1 2 ++ zeros 4 ++ [1] ++ zeros 79)

def bootOk : BootResults := { railsOk := true, pufOk := true, bistFail := [], regionFail := [], badRows := [], patterns := [], ucieFail := [] }
def bootFails : BootResults := { bootOk with railsOk := false }
def find (idOk : Bool) (l : List (Option Bool)) : BootFind := { sec := { idOk := idOk }, picks := l, bad := 0, owner := none }
def bootable : State :=
  { ready with chip := { readyChip with boot := { phase := 5, bistDone := true, hbmDone := true }, host := { link0 := true } } }

/-- A state with recovery's part given. -/
def withRcv (r : Recovery) : State := { ready with chip := { readyChip with rcv := r } }
def faultOf (u : RecUnit) (cause : Nat) : FaultRec := { cause := cause, unit := u, detail := 0, seen := 0 }
/-- A fault at the head of the package's queue, or of partition 0's. -/
def pkgQueued (u : RecUnit) (cause : Nat) : State := withRcv { pkgQueue := [faultOf u cause] }
def partQueued (u : RecUnit) (cause : Nat) : State := withRcv { queues := [(0, [faultOf u cause])] }

def step1 (u : RecUnit) : RecStep := { id := 1, unit := u, parts := [0], cause := 4, detail := 0, startNs := 0, pkg := false, works := [], next := [] }

/-- Cluster 0 fails, and cluster 1 stands clean in its region. -/
def reserveSt (logFull : Bool) (res : Bool) : Chip :=
  { readyChip with clusters := (0, runCl) :: (if res then [(1, ({ svc := .clean } : Cluster))] else []), regions := [(0, { mirror := [(0, { overflow := logFull })] })] }

def withSvc (v : ClusterSvc) : State := { ready with chip := { readyChip with clusters := [(0, { svc := v })] } }
def quarCtx : Partition := { mgmt with contexts := [(0, some { quarantined := true })] }
def recMode : State := { ready with chip := { readyChip with boot := { phase := 7, recCause := 1 } } }

/-- A slot that waits at a barrier nobody will complete, seen once already. -/
def deadSt : State :=
  { ready with chip := { readyChip with
      clusters := [(0, { runCl with slots := [(0, { runSlot with st := .waiting, wait := some { on := .bar 0 0, budget := 9, since := 0 } })] })],
      parts := [(0, { mgmt with barriers := [(0, { mask := 1 })] })],
      rcv := { table := [{ party := .slot 0 0, obj := .bar 0 0 0, scans := 1, live := false }] } } }

def img1 : Image :=
  { slots := [(0, runSlot)], cur := 0, sreg := [], oag0 := {}, oag1 := {}, satFp := false, seed := 0, mixed := none, dbuf := [], role := 0, streams := [], arrivals := [], carry := [], dvas := [] }

/-- A semaphore log with no room left. -/
def fullLog : Chip := { readyChip with regions := [(0, { mirror := [(0, { log := List.replicate 64 { wait := true, sem := 0, n := 1 } })] })] }

/-! ### Witnesses of the statements' hypotheses -/

def loopRow_s1 : State := withTab (ent 0 0 0 0 1 0 1) ready
def loopRow_s2 : State := withTab (ent 0 0 0 0 1 2 0) ready
def endLoopRow_s1 : State := withTab (ent 0 0 0 0 2 0) ready
def endLoopRow_s2 : State := withTab (ent 0 0 0 0 2 1) ready
def endSlotRow_s1 : State := withTab (ent 0 0 0 0 3) ready
def phaseHintRow_s1 : State := withTab (ent 0 0 0 0 0 0 0 15) ready
def badLevel_s1 : State := withTab (ent 0 0 0 0 1 3 5) ready
def badLevel_s2 : State := withTab (ent 0 0 0 0 2 3) ready
def rdregRow_s1 : State := withTab (ent 0 0 0 0xEF300) ready
def rdregRow_s2 : State := withTab (ent 0 0 0 0xEF200) ready
def wregRow_s1 : State := withTab (ent 0 0 0 0xD2000) ready
def ldnRow_s1 : State := withTab (ent 0 0 0 0xBF0FF) ready
def stnRow_s1 : State := withTab (ent 0 0 0 0xCF0FF) ready
def vldRow_s1 : State := withTab (ent 0 0x404a700 0 0) ready
def vldRow_s2 : State := withTab (ent 0 0x404b080 0 0) ready
def vstRow_s1 : State := withTab (ent 0 0x804a070 0 0) (withCl { runCl with sreg := [(2, 256)] })
def vstRow_s2 : State := withTab (ent 0 0x8048302 0 0) ready
def vecMisaligned_s1 : State := withTab (ent 0 0x404a700 0 0) (withCl { runCl with sreg := [(1, 31)] })
def vecMisaligned_s2 : State := withTab (ent 0 0x804a070 0 0) (withCl { runCl with sreg := [(1, 31)] })
def frontRow_s1 : State := withTab (ent 0x20e80000 0 0 0) (withCl { runCl with arr := { mode := 2 } })
def issueEmptyRow_s1 : State := withTab (ent 0x40000400 0 0 0) ready
def issueRow_s1 : State := withTab (ent 0x40001400 0 0 0) ready
def modeRow_s1 : State := withTab (ent 0x70000000 0 0 0) ready

theorem witness_nextRow :
  Claims.Ends ready 0 (Instr.next 0) := by decide

theorem witness_loopRow_1 :
  Claims.Ends loopRow_s1 0 (Instr.loop 0 0 1) ∧ 0 ≠ 3 ∧ 1 ≠ 0 := by decide

theorem witness_loopRow_2 :
  Claims.Ends loopRow_s2 0 (Instr.loop 0 2 0) ∧ 2 ≠ 3 ∧ 0 = 0 := by decide

theorem witness_endLoopRow_1 :
  Claims.Ends endLoopRow_s1 0 (Instr.endLoop 0 0) ∧
  0 ≠ 3 ∧
    let x := Claims.cur endLoopRow_s1 0;
    let n := look 0 x.cnt 0 - 1;
    n ≠ 0 := by dsimp only; and_intros <;> decide

theorem witness_endLoopRow_2 :
  Claims.Ends endLoopRow_s2 0 (Instr.endLoop 0 1) ∧
  1 ≠ 3 ∧
    let x := Claims.cur endLoopRow_s2 0;
    let n := look 0 x.cnt 1 - 1;
    n = 0 := by dsimp only; and_intros <;> decide

theorem witness_endSlotRow :
  Claims.Ends endSlotRow_s1 0 (Instr.endSlot 0) := by decide

theorem witness_phaseHintRow :
  Claims.Fires phaseHintRow_s1 0 (Instr.phaseHint 0 7) 4 := by decide

theorem witness_nopRows_1 :
  Claims.Fires ready 0 (Instr.anop 0) 0 := by decide

theorem witness_nopRows_2 :
  Claims.Fires ready 0 (Instr.vnop 0) 1 := by decide

theorem witness_nopRows_3 :
  Claims.Fires ready 0 (Instr.ynop 0) 2 := by decide

theorem witness_nopRows_4 :
  Claims.Fires ready 0 (Instr.snop 0) 3 := by decide

theorem witness_badLevel_1 :
  Claims.Ends badLevel_s1 0 (Instr.loop 0 3 5) := by decide

theorem witness_badLevel_2 :
  Claims.Ends badLevel_s2 0 (Instr.endLoop 0 3) := by decide

theorem witness_notDueRows_1 :
  (readyChip.cl 0).fieldDue 0 (Instr.snop 1) = none := by decide

theorem witness_notDueRows_2 :
  (readyChip.cl 0).controlDue 0 (Instr.endSlot 0) = false := by decide

theorem witness_illegalEntry :
  ((withTab (ent 2147483648 0 0 0) ready).chip.cl 0).fieldDue 0 (Instr.snop 0) = some 3 ∧
  waitOf (Instr.snop 0) = none ∧ (withTab (ent 2147483648 0 0 0) ready).chip.rest { : Clock } 0 = none := by decide

theorem witness_rdregRow_1 :
  localReg 48 = true ∧ Claims.Fires rdregRow_s1 0 (Instr.rdreg 0 15 48) 3 ∧ Claims.SdFree rdregRow_s1 0 15 := by decide

theorem witness_rdregRow_2 :
  localReg 32 = true ∧ Claims.Fires rdregRow_s2 0 (Instr.rdreg 0 15 32) 3 ∧ Claims.SdFree rdregRow_s2 0 15 := by decide

theorem witness_wregRow :
  Claims.Fires wregRow_s1 0 (Instr.wreg 0 32 0) 3 ∧
  (wregRow_s1.chip.cl 0).wregBad 32 (BitVec.setWidth 32 ((wregRow_s1.chip.cl 0).s 0)) = false := by decide

theorem witness_ldnRow :
  Claims.Fires ldnRow_s1 0 (Instr.ldn 0 15 0 255) 3 ∧
  Claims.SdFree ldnRow_s1 0 15 ∧
    let x := ldnRow_s1.chip.cl 0;
    let w := Claims.narrowWord x 0 255;
    x.errs w = 0 ∧ x.bankOn (bankOf w) = true ∧ Claims.SlotFree x x.aclk 2 (bankOf w) := by dsimp only; and_intros <;> decide

theorem witness_stnRow :
  Claims.Fires stnRow_s1 0 (Instr.stn 0 15 0 255) 3 ∧
  let x := stnRow_s1.chip.cl 0;
  let w := Claims.narrowWord x 0 255;
  x.errs w = 0 ∧ x.bankOn (bankOf w) = true ∧ Claims.SlotFree x x.aclk 2 (bankOf w) ∧ Claims.SlotFree x (x.aclk + 2) 3 (bankOf w) := by dsimp only; and_intros <;> decide

theorem witness_vldRow_1 :
  Claims.Fires vldRow_s1 0 (Instr.vld 0 0 1 2 true false 7 false) 1 ∧
  let x := vldRow_s1.chip.cl 0;
  let f := 7;
  let mx := isMx f && !false;
  let occ := occupancy f false;
  let parts := Claims.vecWords x (BitVec.toNat (x.s 1)) occ;
  let sw := Claims.scaleWords x mx (BitVec.toNat (x.s 2));
  let uses := List.flatMap (fun j => slotUses (x.aclk + j) 0 (parts.getD j [])) (List.range occ) ++ slotUses x.aclk 2 sw;
  let ps := List.map (fun j => (x.aclk + j, optBool false)) (List.range occ);
  BitVec.toNat (x.s 1) % 32 = 0 ∧
    (if false = true then f = 0 else vecFmt f = true) ∧
      Claims.UsesFree x uses ∧ Claims.PortsFree x ps ∧ Claims.IncFree x 1 2 true mx ∧ ∀ (w : Nat), w ∈ sw → x.errs w = 0 := by dsimp only; and_intros <;> decide

theorem witness_vldRow_2 :
  Claims.Fires vldRow_s2 0 (Instr.vld 0 0 1 2 true true 0 true) 1 ∧
  let x := vldRow_s2.chip.cl 0;
  let f := 0;
  let mx := isMx f && !true;
  let occ := occupancy f true;
  let parts := Claims.vecWords x (BitVec.toNat (x.s 1)) occ;
  let sw := Claims.scaleWords x mx (BitVec.toNat (x.s 2));
  let uses := List.flatMap (fun j => slotUses (x.aclk + j) 0 (parts.getD j [])) (List.range occ) ++ slotUses x.aclk 2 sw;
  let ps := List.map (fun j => (x.aclk + j, optBool true)) (List.range occ);
  BitVec.toNat (x.s 1) % 32 = 0 ∧
    (if true = true then f = 0 else vecFmt f = true) ∧
      Claims.UsesFree x uses ∧ Claims.PortsFree x ps ∧ Claims.IncFree x 1 2 true mx ∧ ∀ (w : Nat), w ∈ sw → x.errs w = 0 := by dsimp only; and_intros <;> decide

theorem witness_vstRow_1 :
  Claims.Fires vstRow_s1 0 (Instr.vst 0 0 1 2 true 0 7 false false false) 1 ∧
  let x := vstRow_s1.chip.cl 0;
  let f := 7;
  let a := BitVec.toNat (x.s 1) % spdSize;
  let mx := isMx f && !false;
  let occ := occupancy f false;
  let parts := Claims.vecWords x (BitVec.toNat (x.s 1)) occ;
  let sw := Claims.scaleWords x mx (BitVec.toNat (x.s 2));
  let uses := List.flatMap (fun j => slotUses (x.aclk + 4 + j) 3 (parts.getD j [])) (List.range occ) ++ slotUses (x.aclk + 3 + occ) 3 sw;
  let ps := List.map (fun j => (x.aclk + 4 + j, 2)) (List.range occ);
  a % 32 = 0 ∧
    (if false = true then f = 0 ∧ false = false else vecFmt f = true) ∧
      (0 ≠ 0 → false = true ∧ (false = true ∨ f < 2)) ∧ Claims.UsesFree x uses ∧ Claims.PortsFree x ps ∧ Claims.IncFree x 1 2 true mx := by dsimp only; and_intros <;> decide

theorem witness_vstRow_2 :
  Claims.Fires vstRow_s2 0 (Instr.vst 0 0 1 2 false 3 0 false false true) 1 ∧
  let x := vstRow_s2.chip.cl 0;
  let f := 0;
  let a := BitVec.toNat (x.s 1) % spdSize;
  let mx := isMx f && !false;
  let occ := occupancy f false;
  let parts := Claims.vecWords x (BitVec.toNat (x.s 1)) occ;
  let sw := Claims.scaleWords x mx (BitVec.toNat (x.s 2));
  let uses := List.flatMap (fun j => slotUses (x.aclk + 4 + j) 3 (parts.getD j [])) (List.range occ) ++ slotUses (x.aclk + 3 + occ) 3 sw;
  let ps := List.map (fun j => (x.aclk + 4 + j, 2)) (List.range occ);
  a % 32 = 0 ∧
    (if false = true then f = 0 ∧ false = false else vecFmt f = true) ∧
      (3 ≠ 0 → true = true ∧ (false = true ∨ f < 2)) ∧ Claims.UsesFree x uses ∧ Claims.PortsFree x ps ∧ Claims.IncFree x 1 2 false mx := by dsimp only; and_intros <;> decide

theorem witness_vecMisaligned_1 :
  BitVec.toNat ((vecMisaligned_s1.chip.cl 0).s 1) % 32 ≠ 0 ∧
  ((vecMisaligned_s1.chip.cl 0).acted.getLsbD 0 = true ∨ (vecMisaligned_s1.chip.cl 0).opAt 0 0 = some (some (Instr.anop 0))) ∧
    (vecMisaligned_s1.chip.cl 0).fieldDue 0 (Instr.vld 0 0 1 2 true false 7 false) = some 1 := by decide

theorem witness_vecMisaligned_2 :
  BitVec.toNat ((vecMisaligned_s2.chip.cl 0).s 1) % 32 ≠ 0 ∧
  ((vecMisaligned_s2.chip.cl 0).acted.getLsbD 0 = true ∨ (vecMisaligned_s2.chip.cl 0).opAt 0 0 = some (some (Instr.anop 0))) ∧
    (vecMisaligned_s2.chip.cl 0).fieldDue 0 (Instr.vst 0 0 1 2 true 0 7 false false false) = some 1 := by decide

theorem witness_frontRow :
  Claims.Fires frontRow_s1 0 (Instr.front 0 0 7 4 0 0) 0 ∧
  let x := frontRow_s1.chip.cl 0;
  let a := (BitVec.toNat (x.s 0) + 0 * 512) % spdSize;
  pairing 7 4 = some (pairOf 7 4) ∧
    let fr := 0;
    let side := x.arr.side;
    let start := x.aclk + fr / perOf side * segsOf side;
    x.arr.modeUntil ≤ x.aclk ∧
      fr < perOf side * perOf side ∧
        a % 512 = 0 ∧
          (∀ (v : Nat), (x.arr.frondAt fr).lastVec = some v → v + 1 ≤ start) ∧
            ((pairOf (x.arr.frondAt fr).wfmt (x.arr.frondAt fr).afmt).row = (pairOf 7 4).row ∨ x.arr.frondEmpty start fr = true) ∧
              (∀ (y : Front),
                  y ∈ x.arr.fronts →
                    y.frond = fr → y.pair.row = (pairOf 7 4).row → entersSegment y start (pairOf 7 4).q (pairOf 7 4).row = false) ∧
                (∀ (y : Front), y ∈ x.arr.fronts → y.col = fr % perOf side → y.issued + y.groups ≤ x.aclk) ∧
                  Claims.UsesFree x (frontUses x x.aclk 7 side (side / (pairOf 7 4).q) a) := by dsimp only; and_intros <;> decide

theorem witness_issueEmptyRow :
  Claims.Fires issueEmptyRow_s1 0 (Instr.issue 0 0 0 0 false 0 1) 0 ∧
  let x := issueEmptyRow_s1.chip.cl 0;
  let fr := 0;
  let f := x.arr.frondAt fr;
  let p := pairOf f.wfmt f.afmt;
  let ps := (if true = true then [(x.aclk, 0)] else []) ++ if false = true then [(x.aclk, 1)] else [];
  x.arr.modeUntil ≤ x.aclk ∧
    fr < perOf x.arr.side * perOf x.arr.side ∧
      0 ≠ 3 ∧
        x.vecTimely fr = true ∧
          1 ≠ 0 ∧
            p.lanes * x.arr.side * elemBits f.afmt ≤ 1024 * (optBool true + optBool false) ∧
              Claims.PortsFree x ps ∧ (x.oag false).done = true ∧ hasScale f.afmt = false := by dsimp only; and_intros <;> decide

theorem witness_issueRow :
  Claims.Fires issueRow_s1 0 (Instr.issue 0 0 0 0 false 1 1) 0 ∧
  let x := issueRow_s1.chip.cl 0;
  let fr := 0;
  let f := x.arr.frondAt fr;
  let p := pairOf f.wfmt f.afmt;
  let side := x.arr.side;
  let d := (x.oag false).draw p.lanes;
  let scaled := (x.oag false).scaleEn && hasScale f.afmt;
  let lanes := List.filterMap id d.fst;
  let ws := List.map (fun l => laneWords f.afmt side scaled l.snd) (List.filter (fun l => !l.snd.masked) lanes);
  let uses := List.flatMap (fun w => slotUses x.aclk 0 (List.map x.physWord w.fst) ++ slotUses x.aclk 2 (List.map x.physWord w.snd)) ws;
  let ps := (if true = true then [(x.aclk, 0)] else []) ++ if false = true then [(x.aclk, 1)] else [];
  shareSet (perOf side) fr 0 = some [0] ∧
    x.arr.modeUntil ≤ x.aclk ∧
      fr < perOf side * perOf side ∧
        1 ≠ 3 ∧
          (∀ (g : Nat),
              g ∈ [0] →
                (x.arr.frondAt g).afmt = f.afmt ∧
                  (pairOf (x.arr.frondAt g).wfmt f.afmt).lanes = p.lanes ∧
                    (pairOf (x.arr.frondAt g).wfmt f.afmt).row = p.row ∧ x.vecTimely g = true) ∧
            1 ≠ 0 ∧
              p.lanes * side * elemBits f.afmt ≤ 1024 * (optBool true + optBool false) ∧
                Claims.UsesFree x uses ∧
                  Claims.PortsFree x ps ∧ ∀ (w : List Nat × List Nat), w ∈ ws → ∀ (b : Nat), b ∈ w.fst ++ w.snd → x.errs (x.physWord b) = 0 := by dsimp only; and_intros <;> decide

theorem witness_modeRow :
  Claims.Fires modeRow_s1 0 (Instr.mode 0 2) 0 ∧ 2 ≠ 3 ∧ (modeRow_s1.chip.cl 0).arr.empty (modeRow_s1.chip.cl 0).aclk = true := by decide

/-- An entry for each row of the scalar field that writes a register. -/
def scalarEntries : List (Instr × BitVec 4 × Nat) :=
  [(.li 0 15 0, 15, 0x1f000), (.lui 0 0 255, 0, 0x200ff), (.add 0 15 1 2, 15, 0x3f120), (.sub 0 15 1 2, 15, 0x4f120), (.addi 0 15 1 255, 15, 0x5f1ff),
   (.and 0 0 1 2, 0, 0x60120), (.or 0 15 0 15, 15, 0x7f0f0), (.xor 0 1 1 1, 1, 0x81110), (.shl 0 15 1 63, 15, 0x9f13f), (.shr 0 15 1 63, 15, 0xaf13f)]

theorem witness_writesS : ∀ x ∈ scalarEntries, Claims.Fires (withTab (ent 0 0 0 x.2.2) ready) 0 x.1 3 ∧ Claims.SdFree (withTab (ent 0 0 0 x.2.2) ready) 0 x.2.1 := by
  decide +kernel

/-- An entry for each arithmetic row of the vector field. -/
def vectorEntries : List (Instr × Nat) :=
  [(.vadd 0 15 0 1, 0x13c04000), (.vsub 0 15 0 1, 0x17c04000), (.vmul 0 15 0 1, 0x1bc04000), (.vfma 0 15 0 1, 0x1fc04000), (.vmax 0 15 0 1, 0x23c04000),
   (.vmin 0 15 0 1, 0x27c04000), (.vadds 0 15 0 1, 0x2bc04000), (.vmuls 0 15 0 1, 0x2fc04000), (.vexp2 0 15 1, 0x33c40000), (.vexp 0 15 1, 0x37c40000),
   (.vrcp 0 15 1, 0x3bc40000), (.vrsqrt 0 15 1, 0x3fc40000), (.vsumr 0 15 1, 0x47c40000), (.vmaxr 0 15 1, 0x4bc40000), (.vabs 0 15 1, 0x4fc40000),
   (.vneg 0 15 1, 0x53c40000), (.vcvtif 0 15 1, 0x57c40000), (.vcvtfi 0 15 1, 0x5bc40000), (.vmov 0 15 1, 0x63c40000), (.vdiv 0 15 0 1, 0x43c04000),
   (.viadd 0 15 0 1, 0x5fc04000), (.accrd 0 15 255, 0xfffc000)]

theorem witness_writesV : ∀ x ∈ vectorEntries, Claims.Fires (withTab (ent 0 x.2 0 0) ready) 0 x.1 1 := by decide +kernel

theorem witness_loneField : (readyChip.cl 0).fieldDue 0 (.snop 0) = some 3 ∧ waitOf (.snop 0) = none ∧
    ∀ n ≤ 4, n ≠ 3 → (readyChip.cl 0).acted.getLsbD n = true ∨ (readyChip.cl 0).opAt 0 n = some none ∨
      ∃ y, (readyChip.cl 0).opAt 0 n = some (some y) ∧ isNop y = true := by
  refine ⟨by decide +kernel, rfl, fun n hn h => ?_⟩
  have : n = 0 ∨ n = 1 ∨ n = 2 ∨ n = 4 := by omega
  rcases this with rfl | rfl | rfl | rfl
  · exact .inr (.inr ⟨.anop 0, by decide +kernel, rfl⟩)
  · exact .inr (.inr ⟨.vnop 0, by decide +kernel, rfl⟩)
  · exact .inr (.inr ⟨.ynop 0, by decide +kernel, rfl⟩)
  · exact .inr (.inl (by decide +kernel))

theorem witness_wholeEntry : (readyChip.rest {} 0).isSome = true := by decide +kernel

def waitsemRow_s1 : State := withTab (ent 0 0 0x101c3 0) (withRg { sems := [(1, 2)] })
def waitsemRow_s2 : State := withTab (ent 0 0 0x10102 0) (withRg { sems := [(1, 2)] })
def waitsemRow_s3 : State := withTab (ent 0x80000000 0 0x10102 0) (withRg { sems := [(1, 2)] })
def sigsemRow_s1 : State := withTab (ent 0 0 0x2033f 0) ready
def arriveRow_s1 : State := withTab (ent 0 0 0x30000 0) ready
def arriveRow_s2 : State := withTab (ent 0 0 0x30000 0) (withBar { mask := 3, arrived := 2 })
def waitbarRow_s1 : State := withTab (ent 0 0 0x40000 0) (withBar { mask := 3, lastArr := [(0, 1)] })
def waitbarRow_s2 : State := withTab (ent 0 0 0x40600 0) (withBar { mask := 3, gen := 1, lastArr := [(0, 1)] })
def waitbarRow_s3 : State := withTab (ent 0x80000000 0 0x40600 0) (withBar { mask := 3, gen := 1, lastArr := [(0, 1)] })
def arrwaitRow_s1 : State := withTab (ent 0 0 0x50000 0) ready
def arrwaitRow_s2 : State := withTab (ent 0 0 0x50000 0) (withBar { mask := 3, released := 65535 })
def arrwaitRow_s3 : State := withTab (ent 0x80000000 0 0x50000 0) (withBar { mask := 3, released := 65535 })
def ckptRow_s1 : State := withTab (ent 0 0 0x60000 0) ready
def ckptRow_s2 : State := withTab (ent 0 0 0x60000 0) (withBar { mask := 3, released := 65535 })
def ckptRow_s3 : State := withTab (ent 0x80000000 0 0x60000 0) (withBar { mask := 3, released := 65535 })
def waithalfRow_s1 : State := withTab (ent 0 0 0x70180 0) ready
def waithalfRow_s2 : State := withTab (ent 0 0 0x70e00 0) (withRg { streams := [(3, { h1 := { ready := true } })] })
def waithalfRow_s3 : State := withTab (ent 0x80000000 0 0x70e00 0) (withRg { streams := [(3, { h1 := { ready := true } })] })
def relhalfRow_s1 : State := withTab (ent 0 0 0x80e00 0) (withRg { streams := [(3, { st := .faulted })] })
def relhalfRow_s2 : State := withTab (ent 0 0 0x80c00 0) (withRg { streams := [(3, { st := .active })] })
def swapRow_s1 : State := withTab (ent 0 0 0x9f000 0) (withCl { runCl with dbuf := [(15, 0x80000000)] })
def yieldptRow_s1 : State := withTab (ent 0 0 0xa0000 0) (withCl { runCl with slots := [(0, runSlot), (3, { st := .yielded, prio := 1 })] })
def yieldptRow_s2 : State := withTab (ent 0 0 0xa0000 0) (withCl { runCl with slots := [(0, runSlot)] })
def waitSatisfiedRow_s1 : State := withCl { runCl with slots := [(0, { runSlot with st := .waiting, wait := some { on := .sem 0 1, budget := 1, since := 0 } })] }
def waitSatisfiedRow_s2 : State := withCl { runCl with slots := [(0, { runSlot with st := .waiting, wait := some { on := .sem 0 0, budget := 1, since := 0 } })] }
def waitSatisfiedRow_s3 : State := withTab (ent 0x80000000 0 0 0) (withCl { runCl with slots := [(0, { runSlot with st := .waiting, wait := some { on := .sem 0 0, budget := 1, since := 0 } })] })
def barrierReleaseRow_s1 : State := withBar { mask := 3, released := 1 }
def fillerRampRow_s1 : State := withCl { runCl with filler := { downDue := some 0 } }

theorem witness_cancelAtWait :
  ((withCl
              (let __src := runCl;
              { svc := __src.svc, lcid := __src.lcid, epoch := __src.epoch, bistPass := __src.bistPass, failed := __src.failed,
                retired := __src.retired, failCount := __src.failCount, aclk := __src.aclk, parked := __src.parked,
                unparkAt := __src.unparkAt, lastBeat := __src.lastBeat,
                slots :=
                  [(0,
                      let __src := runSlot;
                      { st := __src.st, prio := __src.prio, base := __src.base, len := __src.len, ptr := __src.ptr, depth := __src.depth,
                        cnt := __src.cnt, start := __src.start, total := __src.total, part := __src.part, ctx := __src.ctx,
                        dva := __src.dva, budgets := __src.budgets, yields := __src.yields, hint := __src.hint, wait := __src.wait,
                        cancelling := true, run := __src.run, plan := __src.plan, held := __src.held : Slot })],
                cur := __src.cur, issueAt := __src.issueAt, acted := __src.acted, yielding := __src.yielding, table := __src.table,
                loads := __src.loads, sreg := __src.sreg, vreg := __src.vreg, flight := __src.flight, vlds := __src.vlds,
                entryW := __src.entryW, uses := __src.uses, ports := __src.ports, arr := __src.arr, oag0 := __src.oag0, oag1 := __src.oag1,
                satFp := __src.satFp, num := __src.num, seedLo := __src.seedLo, seedHi := __src.seedHi, seed := __src.seed,
                mixed := __src.mixed, draws := __src.draws, dbuf := __src.dbuf, role := __src.role, bankPwr := __src.bankPwr,
                bankReady := __src.bankReady, opDst := __src.opDst, opSrc := __src.opSrc, opLen := __src.opLen, opPat := __src.opPat,
                op := __src.op, opBusy := __src.opBusy, staged := __src.staged, spd := __src.spd, written := __src.written,
                subst := __src.subst, spdErr := __src.spdErr, ecc := __src.ecc, codec := __src.codec, fail1 := __src.fail1,
                fail2 := __src.fail2, rawBlocks := __src.rawBlocks, lanes := __src.lanes, activity := __src.activity,
                filler := __src.filler, replay := __src.replay, capture := __src.capture : Cluster })).chip.cl
        0).curSlot.cancelling =
  true := by dsimp only; and_intros <;> decide

theorem witness_takeWaitRule :
  (readyChip.cl 0).replay = none := by decide

theorem witness_waitsemRow_1 :
  Claims.Waits waitsemRow_s1 0 (Instr.waitsem 0 1 3 3) ∧
  (waitsemRow_s1.chip.pt (Claims.owner waitsemRow_s1 0)).ownsSem (regionOf 0) 1 = true ∧
    let n := (waitsemRow_s1.chip.cl 0).cur;
    let w :=
      { on := WaitOn.sem 1 3, budget := look 16777215 (Claims.cur waitsemRow_s1 0).budgets 3, since := (waitsemRow_s1.chip.cl 0).aclk :
        WaitRec };
    let h :=
      waitsemRow_s1.chip.modSlot 0 n fun y =>
        { st := SlotState.waiting, prio := y.prio, base := y.base, len := y.len, ptr := y.ptr, depth := y.depth, cnt := y.cnt,
          start := y.start, total := y.total, part := y.part, ctx := y.ctx, dva := y.dva, budgets := y.budgets, yields := y.yields,
          hint := y.hint, wait := some w, cancelling := y.cancelling, run := y.run, plan := y.plan, held := y.held : Slot };
    h.waitTurn 0 n (WaitOn.sem 1 3) = false := by dsimp only; and_intros <;> decide

theorem witness_waitsemRow_2 :
  Claims.Waits waitsemRow_s2 0 (Instr.waitsem 0 1 0 2) ∧
  (waitsemRow_s2.chip.pt (Claims.owner waitsemRow_s2 0)).ownsSem (regionOf 0) 1 = true ∧
    let n := (waitsemRow_s2.chip.cl 0).cur;
    let w :=
      { on := WaitOn.sem 1 2, budget := look 16777215 (Claims.cur waitsemRow_s2 0).budgets 0, since := (waitsemRow_s2.chip.cl 0).aclk :
        WaitRec };
    let h :=
      waitsemRow_s2.chip.modSlot 0 n fun y =>
        { st := SlotState.waiting, prio := y.prio, base := y.base, len := y.len, ptr := y.ptr, depth := y.depth, cnt := y.cnt,
          start := y.start, total := y.total, part := y.part, ctx := y.ctx, dva := y.dva, budgets := y.budgets, yields := y.yields,
          hint := y.hint, wait := some w, cancelling := y.cancelling, run := y.run, plan := y.plan, held := y.held : Slot };
    h.waitTurn 0 n (WaitOn.sem 1 2) = true ∧ (h.rest waitsemRow_s2.clk 0).isSome = true := by dsimp only; and_intros <;> decide

theorem witness_waitsemRow_3 :
  Claims.Waits waitsemRow_s3 0 (Instr.waitsem 0 1 0 2) ∧
  (waitsemRow_s3.chip.pt (Claims.owner waitsemRow_s3 0)).ownsSem (regionOf 0) 1 = true ∧
    let n := (waitsemRow_s3.chip.cl 0).cur;
    let w :=
      { on := WaitOn.sem 1 2, budget := look 16777215 (Claims.cur waitsemRow_s3 0).budgets 0, since := (waitsemRow_s3.chip.cl 0).aclk :
        WaitRec };
    let h :=
      waitsemRow_s3.chip.modSlot 0 n fun y =>
        { st := SlotState.waiting, prio := y.prio, base := y.base, len := y.len, ptr := y.ptr, depth := y.depth, cnt := y.cnt,
          start := y.start, total := y.total, part := y.part, ctx := y.ctx, dva := y.dva, budgets := y.budgets, yields := y.yields,
          hint := y.hint, wait := some w, cancelling := y.cancelling, run := y.run, plan := y.plan, held := y.held : Slot };
    h.waitTurn 0 n (WaitOn.sem 1 2) = true ∧ h.rest waitsemRow_s3.clk 0 = none := by dsimp only; and_intros <;> decide

theorem witness_semTurn :
  (readyChip.cl 0).capture = none ∧ ((readyChip.cl 0).slot 0).held = false ∧ (readyChip.cl 0).replay = none := by decide

theorem witness_sigsemRow :
  Claims.Fresh sigsemRow_s1 0 0 ∧
  Claims.Fires sigsemRow_s1 0 (Instr.sigsem 0 0 3 63) 2 ∧
    Claims.Live sigsemRow_s1 0 ∧ (sigsemRow_s1.chip.pt (Claims.owner sigsemRow_s1 0)).ownsSem (regionOf 0) 3 = true := by decide

theorem witness_arriveRow_1 :
  Claims.Fresh arriveRow_s1 0 0 ∧
  Claims.Fires arriveRow_s1 0 (Instr.arrive 0 0 0) 2 ∧
    Claims.Live arriveRow_s1 0 ∧
      Claims.ArrivalOpen arriveRow_s1 0 0 0 0 false ∧
        let y := ((arriveRow_s1.chip.pt 0).bar 0).join 0 false (Claims.entryKey arriveRow_s1 0);
        y.count < y.members.length := by dsimp only; and_intros <;> decide

theorem witness_arriveRow_2 :
  Claims.Fresh arriveRow_s2 0 0 ∧
  Claims.Fires arriveRow_s2 0 (Instr.arrive 0 0 0) 2 ∧
    Claims.Live arriveRow_s2 0 ∧
      Claims.ArrivalOpen arriveRow_s2 0 0 0 0 false ∧
        let y := ((arriveRow_s2.chip.pt 0).bar 0).join 0 false (Claims.entryKey arriveRow_s2 0);
        y.members.length ≤ y.count ∧ y.job = none := by dsimp only; and_intros <;> decide

theorem witness_waitbarRow_1 :
  Claims.Waits waitbarRow_s1 0 (Instr.waitbar 0 0 0) ∧
  let n := waitbarRow_s1.chip.lastArrival 0 (Claims.owner waitbarRow_s1 0) 0;
  n ≠ 0 ∧
    let n_1 := (waitbarRow_s1.chip.cl 0).cur;
    let w :=
      { on := WaitOn.bar 0 (n - 1), budget := look 16777215 (Claims.cur waitbarRow_s1 0).budgets 0,
        since := (waitbarRow_s1.chip.cl 0).aclk : WaitRec };
    let h :=
      waitbarRow_s1.chip.modSlot 0 n_1 fun y =>
        { st := SlotState.waiting, prio := y.prio, base := y.base, len := y.len, ptr := y.ptr, depth := y.depth, cnt := y.cnt,
          start := y.start, total := y.total, part := y.part, ctx := y.ctx, dva := y.dva, budgets := y.budgets, yields := y.yields,
          hint := y.hint, wait := some w, cancelling := y.cancelling, run := y.run, plan := y.plan, held := y.held : Slot };
    h.waitTurn 0 n_1 (WaitOn.bar 0 (n - 1)) = false := by dsimp only; and_intros <;> decide

theorem witness_waitbarRow_2 :
  Claims.Waits waitbarRow_s2 0 (Instr.waitbar 0 0 3) ∧
  let n := waitbarRow_s2.chip.lastArrival 0 (Claims.owner waitbarRow_s2 0) 0;
  n ≠ 0 ∧
    let n_1 := (waitbarRow_s2.chip.cl 0).cur;
    let w :=
      { on := WaitOn.bar 0 (n - 1), budget := look 16777215 (Claims.cur waitbarRow_s2 0).budgets 3,
        since := (waitbarRow_s2.chip.cl 0).aclk : WaitRec };
    let h :=
      waitbarRow_s2.chip.modSlot 0 n_1 fun y =>
        { st := SlotState.waiting, prio := y.prio, base := y.base, len := y.len, ptr := y.ptr, depth := y.depth, cnt := y.cnt,
          start := y.start, total := y.total, part := y.part, ctx := y.ctx, dva := y.dva, budgets := y.budgets, yields := y.yields,
          hint := y.hint, wait := some w, cancelling := y.cancelling, run := y.run, plan := y.plan, held := y.held : Slot };
    h.waitTurn 0 n_1 (WaitOn.bar 0 (n - 1)) = true ∧ (h.rest waitbarRow_s2.clk 0).isSome = true := by dsimp only; and_intros <;> decide

theorem witness_waitbarRow_3 :
  Claims.Waits waitbarRow_s3 0 (Instr.waitbar 0 0 3) ∧
  let n := waitbarRow_s3.chip.lastArrival 0 (Claims.owner waitbarRow_s3 0) 0;
  n ≠ 0 ∧
    let n_1 := (waitbarRow_s3.chip.cl 0).cur;
    let w :=
      { on := WaitOn.bar 0 (n - 1), budget := look 16777215 (Claims.cur waitbarRow_s3 0).budgets 3,
        since := (waitbarRow_s3.chip.cl 0).aclk : WaitRec };
    let h :=
      waitbarRow_s3.chip.modSlot 0 n_1 fun y =>
        { st := SlotState.waiting, prio := y.prio, base := y.base, len := y.len, ptr := y.ptr, depth := y.depth, cnt := y.cnt,
          start := y.start, total := y.total, part := y.part, ctx := y.ctx, dva := y.dva, budgets := y.budgets, yields := y.yields,
          hint := y.hint, wait := some w, cancelling := y.cancelling, run := y.run, plan := y.plan, held := y.held : Slot };
    h.waitTurn 0 n_1 (WaitOn.bar 0 (n - 1)) = true ∧ h.rest waitbarRow_s3.clk 0 = none := by dsimp only; and_intros <;> decide

theorem witness_barTurn :
  (readyChip.cl 0).capture = none ∧ ((readyChip.cl 0).slot 0).held = false := by decide

theorem witness_arrwaitRow_1 :
  Claims.Fresh arrwaitRow_s1 0 0 ∧
  Claims.Waits arrwaitRow_s1 0 ((fun c e b d => Instr.arrwait c e b d) 0 0 0 0) ∧
    Claims.Live arrwaitRow_s1 0 ∧
      Claims.owner arrwaitRow_s1 0 = 0 ∧
        Claims.ArrivalOpen arrwaitRow_s1 0 0 0 0 false ∧
          let y := ((arrwaitRow_s1.chip.pt 0).bar 0).join 0 false (Claims.entryKey arrwaitRow_s1 0);
          y.count < y.members.length ∧
            let n := (arrwaitRow_s1.chip.cl 0).cur;
            let w :=
              { on := WaitOn.bar 0 ((arrwaitRow_s1.chip.pt 0).bar 0).arrGen.toNat,
                budget := look 16777215 (Claims.cur arrwaitRow_s1 0).budgets 0, since := (arrwaitRow_s1.chip.cl 0).aclk : WaitRec };
            let h :=
              (arrwaitRow_s1.chip.modBar 0 0 fun x => y).modSlot 0 n fun y =>
                { st := SlotState.waiting, prio := y.prio, base := y.base, len := y.len, ptr := y.ptr, depth := y.depth, cnt := y.cnt,
                  start := y.start, total := y.total, part := y.part, ctx := y.ctx, dva := y.dva, budgets := y.budgets, yields := y.yields,
                  hint := y.hint, wait := some w, cancelling := y.cancelling, run := y.run, plan := y.plan, held := y.held : Slot };
            h.waitTurn 0 n (WaitOn.bar 0 ((arrwaitRow_s1.chip.pt 0).bar 0).arrGen.toNat) = false := by dsimp only; and_intros <;> decide

theorem witness_arrwaitRow_2 :
  Claims.Fresh arrwaitRow_s2 0 0 ∧
  Claims.Waits arrwaitRow_s2 0 ((fun c e b d => Instr.arrwait c e b d) 0 0 0 0) ∧
    Claims.Live arrwaitRow_s2 0 ∧
      Claims.owner arrwaitRow_s2 0 = 0 ∧
        Claims.ArrivalOpen arrwaitRow_s2 0 0 0 0 false ∧
          let y := ((arrwaitRow_s2.chip.pt 0).bar 0).join 0 false (Claims.entryKey arrwaitRow_s2 0);
          y.count < y.members.length ∧
            let n := (arrwaitRow_s2.chip.cl 0).cur;
            let w :=
              { on := WaitOn.bar 0 ((arrwaitRow_s2.chip.pt 0).bar 0).arrGen.toNat,
                budget := look 16777215 (Claims.cur arrwaitRow_s2 0).budgets 0, since := (arrwaitRow_s2.chip.cl 0).aclk : WaitRec };
            let h :=
              (arrwaitRow_s2.chip.modBar 0 0 fun x => y).modSlot 0 n fun y =>
                { st := SlotState.waiting, prio := y.prio, base := y.base, len := y.len, ptr := y.ptr, depth := y.depth, cnt := y.cnt,
                  start := y.start, total := y.total, part := y.part, ctx := y.ctx, dva := y.dva, budgets := y.budgets, yields := y.yields,
                  hint := y.hint, wait := some w, cancelling := y.cancelling, run := y.run, plan := y.plan, held := y.held : Slot };
            h.waitTurn 0 n (WaitOn.bar 0 ((arrwaitRow_s2.chip.pt 0).bar 0).arrGen.toNat) = true ∧ (h.rest arrwaitRow_s2.clk 0).isSome = true := by dsimp only; and_intros <;> decide

theorem witness_arrwaitRow_3 :
  Claims.Fresh arrwaitRow_s3 0 0 ∧
  Claims.Waits arrwaitRow_s3 0 ((fun c e b d => Instr.arrwait c e b d) 0 0 0 0) ∧
    Claims.Live arrwaitRow_s3 0 ∧
      Claims.owner arrwaitRow_s3 0 = 0 ∧
        Claims.ArrivalOpen arrwaitRow_s3 0 0 0 0 false ∧
          let y := ((arrwaitRow_s3.chip.pt 0).bar 0).join 0 false (Claims.entryKey arrwaitRow_s3 0);
          y.count < y.members.length ∧
            let n := (arrwaitRow_s3.chip.cl 0).cur;
            let w :=
              { on := WaitOn.bar 0 ((arrwaitRow_s3.chip.pt 0).bar 0).arrGen.toNat,
                budget := look 16777215 (Claims.cur arrwaitRow_s3 0).budgets 0, since := (arrwaitRow_s3.chip.cl 0).aclk : WaitRec };
            let h :=
              (arrwaitRow_s3.chip.modBar 0 0 fun x => y).modSlot 0 n fun y =>
                { st := SlotState.waiting, prio := y.prio, base := y.base, len := y.len, ptr := y.ptr, depth := y.depth, cnt := y.cnt,
                  start := y.start, total := y.total, part := y.part, ctx := y.ctx, dva := y.dva, budgets := y.budgets, yields := y.yields,
                  hint := y.hint, wait := some w, cancelling := y.cancelling, run := y.run, plan := y.plan, held := y.held : Slot };
            h.waitTurn 0 n (WaitOn.bar 0 ((arrwaitRow_s3.chip.pt 0).bar 0).arrGen.toNat) = true ∧ h.rest arrwaitRow_s3.clk 0 = none := by dsimp only; and_intros <;> decide

theorem witness_ckptRow_1 :
  Claims.Fresh ckptRow_s1 0 0 ∧
  Claims.Waits ckptRow_s1 0 ((fun c e b d => Instr.ckpt c e b d) 0 0 0 0) ∧
    Claims.Live ckptRow_s1 0 ∧
      Claims.owner ckptRow_s1 0 = 0 ∧
        Claims.ArrivalOpen ckptRow_s1 0 0 0 0 true ∧
          let y := ((ckptRow_s1.chip.pt 0).bar 0).join 0 true (Claims.entryKey ckptRow_s1 0);
          y.count < y.members.length ∧
            let n := (ckptRow_s1.chip.cl 0).cur;
            let w :=
              { on := WaitOn.bar 0 ((ckptRow_s1.chip.pt 0).bar 0).arrGen.toNat, budget := look 16777215 (Claims.cur ckptRow_s1 0).budgets 0,
                since := (ckptRow_s1.chip.cl 0).aclk : WaitRec };
            let h :=
              (ckptRow_s1.chip.modBar 0 0 fun x => y).modSlot 0 n fun y =>
                { st := SlotState.waiting, prio := y.prio, base := y.base, len := y.len, ptr := y.ptr, depth := y.depth, cnt := y.cnt,
                  start := y.start, total := y.total, part := y.part, ctx := y.ctx, dva := y.dva, budgets := y.budgets, yields := y.yields,
                  hint := y.hint, wait := some w, cancelling := y.cancelling, run := y.run, plan := y.plan, held := y.held : Slot };
            h.waitTurn 0 n (WaitOn.bar 0 ((ckptRow_s1.chip.pt 0).bar 0).arrGen.toNat) = false := by dsimp only; and_intros <;> decide

theorem witness_ckptRow_2 :
  Claims.Fresh ckptRow_s2 0 0 ∧
  Claims.Waits ckptRow_s2 0 ((fun c e b d => Instr.ckpt c e b d) 0 0 0 0) ∧
    Claims.Live ckptRow_s2 0 ∧
      Claims.owner ckptRow_s2 0 = 0 ∧
        Claims.ArrivalOpen ckptRow_s2 0 0 0 0 true ∧
          let y := ((ckptRow_s2.chip.pt 0).bar 0).join 0 true (Claims.entryKey ckptRow_s2 0);
          y.count < y.members.length ∧
            let n := (ckptRow_s2.chip.cl 0).cur;
            let w :=
              { on := WaitOn.bar 0 ((ckptRow_s2.chip.pt 0).bar 0).arrGen.toNat, budget := look 16777215 (Claims.cur ckptRow_s2 0).budgets 0,
                since := (ckptRow_s2.chip.cl 0).aclk : WaitRec };
            let h :=
              (ckptRow_s2.chip.modBar 0 0 fun x => y).modSlot 0 n fun y =>
                { st := SlotState.waiting, prio := y.prio, base := y.base, len := y.len, ptr := y.ptr, depth := y.depth, cnt := y.cnt,
                  start := y.start, total := y.total, part := y.part, ctx := y.ctx, dva := y.dva, budgets := y.budgets, yields := y.yields,
                  hint := y.hint, wait := some w, cancelling := y.cancelling, run := y.run, plan := y.plan, held := y.held : Slot };
            h.waitTurn 0 n (WaitOn.bar 0 ((ckptRow_s2.chip.pt 0).bar 0).arrGen.toNat) = true ∧ (h.rest ckptRow_s2.clk 0).isSome = true := by dsimp only; and_intros <;> decide

theorem witness_ckptRow_3 :
  Claims.Fresh ckptRow_s3 0 0 ∧
  Claims.Waits ckptRow_s3 0 ((fun c e b d => Instr.ckpt c e b d) 0 0 0 0) ∧
    Claims.Live ckptRow_s3 0 ∧
      Claims.owner ckptRow_s3 0 = 0 ∧
        Claims.ArrivalOpen ckptRow_s3 0 0 0 0 true ∧
          let y := ((ckptRow_s3.chip.pt 0).bar 0).join 0 true (Claims.entryKey ckptRow_s3 0);
          y.count < y.members.length ∧
            let n := (ckptRow_s3.chip.cl 0).cur;
            let w :=
              { on := WaitOn.bar 0 ((ckptRow_s3.chip.pt 0).bar 0).arrGen.toNat, budget := look 16777215 (Claims.cur ckptRow_s3 0).budgets 0,
                since := (ckptRow_s3.chip.cl 0).aclk : WaitRec };
            let h :=
              (ckptRow_s3.chip.modBar 0 0 fun x => y).modSlot 0 n fun y =>
                { st := SlotState.waiting, prio := y.prio, base := y.base, len := y.len, ptr := y.ptr, depth := y.depth, cnt := y.cnt,
                  start := y.start, total := y.total, part := y.part, ctx := y.ctx, dva := y.dva, budgets := y.budgets, yields := y.yields,
                  hint := y.hint, wait := some w, cancelling := y.cancelling, run := y.run, plan := y.plan, held := y.held : Slot };
            h.waitTurn 0 n (WaitOn.bar 0 ((ckptRow_s3.chip.pt 0).bar 0).arrGen.toNat) = true ∧ h.rest ckptRow_s3.clk 0 = none := by dsimp only; and_intros <;> decide

theorem witness_waithalfRow_1 :
  Claims.Waits waithalfRow_s1 0 (Instr.waithalf 0 0 false 3) ∧
  (waithalfRow_s1.chip.pt (Claims.owner waithalfRow_s1 0)).ownsStream (regionOf 0) 0 = true ∧
    let n := (waithalfRow_s1.chip.cl 0).cur;
    let w :=
      { on := WaitOn.half 0 (waithalfRow_s1.chip.halfOf 0 0 false), budget := look 16777215 (Claims.cur waithalfRow_s1 0).budgets 3,
        since := (waithalfRow_s1.chip.cl 0).aclk : WaitRec };
    let h :=
      waithalfRow_s1.chip.modSlot 0 n fun y =>
        { st := SlotState.waiting, prio := y.prio, base := y.base, len := y.len, ptr := y.ptr, depth := y.depth, cnt := y.cnt,
          start := y.start, total := y.total, part := y.part, ctx := y.ctx, dva := y.dva, budgets := y.budgets, yields := y.yields,
          hint := y.hint, wait := some w, cancelling := y.cancelling, run := y.run, plan := y.plan, held := y.held : Slot };
    h.waitTurn 0 n (WaitOn.half 0 (waithalfRow_s1.chip.halfOf 0 0 false)) = false := by dsimp only; and_intros <;> decide

theorem witness_waithalfRow_2 :
  Claims.Waits waithalfRow_s2 0 (Instr.waithalf 0 3 true 0) ∧
  (waithalfRow_s2.chip.pt (Claims.owner waithalfRow_s2 0)).ownsStream (regionOf 0) 3 = true ∧
    let n := (waithalfRow_s2.chip.cl 0).cur;
    let w :=
      { on := WaitOn.half 3 (waithalfRow_s2.chip.halfOf 0 3 true), budget := look 16777215 (Claims.cur waithalfRow_s2 0).budgets 0,
        since := (waithalfRow_s2.chip.cl 0).aclk : WaitRec };
    let h :=
      waithalfRow_s2.chip.modSlot 0 n fun y =>
        { st := SlotState.waiting, prio := y.prio, base := y.base, len := y.len, ptr := y.ptr, depth := y.depth, cnt := y.cnt,
          start := y.start, total := y.total, part := y.part, ctx := y.ctx, dva := y.dva, budgets := y.budgets, yields := y.yields,
          hint := y.hint, wait := some w, cancelling := y.cancelling, run := y.run, plan := y.plan, held := y.held : Slot };
    h.waitTurn 0 n (WaitOn.half 3 (waithalfRow_s2.chip.halfOf 0 3 true)) = true ∧ (h.rest waithalfRow_s2.clk 0).isSome = true := by dsimp only; and_intros <;> decide

theorem witness_waithalfRow_3 :
  Claims.Waits waithalfRow_s3 0 (Instr.waithalf 0 3 true 0) ∧
  (waithalfRow_s3.chip.pt (Claims.owner waithalfRow_s3 0)).ownsStream (regionOf 0) 3 = true ∧
    let n := (waithalfRow_s3.chip.cl 0).cur;
    let w :=
      { on := WaitOn.half 3 (waithalfRow_s3.chip.halfOf 0 3 true), budget := look 16777215 (Claims.cur waithalfRow_s3 0).budgets 0,
        since := (waithalfRow_s3.chip.cl 0).aclk : WaitRec };
    let h :=
      waithalfRow_s3.chip.modSlot 0 n fun y =>
        { st := SlotState.waiting, prio := y.prio, base := y.base, len := y.len, ptr := y.ptr, depth := y.depth, cnt := y.cnt,
          start := y.start, total := y.total, part := y.part, ctx := y.ctx, dva := y.dva, budgets := y.budgets, yields := y.yields,
          hint := y.hint, wait := some w, cancelling := y.cancelling, run := y.run, plan := y.plan, held := y.held : Slot };
    h.waitTurn 0 n (WaitOn.half 3 (waithalfRow_s3.chip.halfOf 0 3 true)) = true ∧ h.rest waithalfRow_s3.clk 0 = none := by dsimp only; and_intros <;> decide

theorem witness_halfTurn :
  (readyChip.cl 0).capture = none ∧ ((readyChip.cl 0).slot 0).held = false := by decide

theorem witness_relhalfRow_1 :
  Claims.Fresh relhalfRow_s1 0 0 ∧
  Claims.Fires relhalfRow_s1 0 (Instr.relhalf 0 0 3 true) 2 ∧
    (relhalfRow_s1.chip.pt (Claims.owner relhalfRow_s1 0)).ownsStream (regionOf 0) 3 = true ∧
      let r := regionOf 0;
      let x := relhalfRow_s1.chip.str r 3;
      x.st = StreamState.faulted ∨ x.st = StreamState.stopping ∨ ∃ d, x.last = some d ∧ d.dir = 2 := by dsimp only; and_intros <;> decide

theorem witness_relhalfRow_2 :
  Claims.Fresh relhalfRow_s2 0 0 ∧
  Claims.Fires relhalfRow_s2 0 (Instr.relhalf 0 0 3 false) 2 ∧
    (relhalfRow_s2.chip.pt (Claims.owner relhalfRow_s2 0)).ownsStream (regionOf 0) 3 = true ∧
      let r := regionOf 0;
      let x := relhalfRow_s2.chip.str r 3;
      (x.st = StreamState.idle ∨ x.st = StreamState.active) ∧ ∀ (d : Desc), x.last = some d → d.dir ≠ 2 := by dsimp only; and_intros <;> decide

theorem witness_handOverRule_1 :
  let x := (withRg { streams := [(3, { st := StreamState.faulted : Machine.Stream })] : Region }).chip.str 0 3;
x.st = StreamState.faulted ∨ x.st = StreamState.stopping := by dsimp only; and_intros <;> decide

theorem witness_handOverRule_2 :
  let x := (withRg { streams := [(3, { st := StreamState.active, h1 := { eng := true : Half } : Machine.Stream })] : Region }).chip.str 0 3;
(x.st = StreamState.idle ∨ x.st = StreamState.active) ∧ (x.half true).eng = true := by dsimp only; and_intros <;> decide

theorem witness_handOverRule_3 :
  let x := (withRg { streams := [(3, { st := StreamState.active : Machine.Stream })] : Region }).chip.str 0 3;
(x.st = StreamState.idle ∨ x.st = StreamState.active) ∧ (x.half false).eng = false := by dsimp only; and_intros <;> decide

theorem witness_swapRow :
  Claims.Fires swapRow_s1 0 (Instr.swap 0 15) 2 ∧ pairValid (look 0 (swapRow_s1.chip.cl 0).dbuf 15) = true := by decide

theorem witness_yieldptRow_1 :
  Claims.Fires yieldptRow_s1 0 (Instr.yieldpt 0) 2 ∧ Claims.Outranked yieldptRow_s1 0 := by decide

theorem witness_yieldptRow_2 :
  Claims.Fires yieldptRow_s2 0 (Instr.yieldpt 0) 2 ∧ ¬Claims.Outranked yieldptRow_s2 0 := by decide

theorem witness_staleRows :
  ready.chip.fresh? 0 1 = false := by decide

theorem witness_waitSatisfiedRow_1 :
  ((waitSatisfiedRow_s1.chip.cl 0).slot 0).wait = some { on := WaitOn.sem 0 1, budget := 1, since := 0 : WaitRec } ∧
  { on := WaitOn.sem 0 1, budget := 1, since := 0 : WaitRec }.taken = none ∧
    waitSatisfiedRow_s1.chip.waitTurn 0 0 { on := WaitOn.sem 0 1, budget := 1, since := 0 : WaitRec }.on = false := by decide

theorem witness_waitSatisfiedRow_2 :
  ((waitSatisfiedRow_s2.chip.cl 0).slot 0).wait = some { on := WaitOn.sem 0 0, budget := 1, since := 0 : WaitRec } ∧
  { on := WaitOn.sem 0 0, budget := 1, since := 0 : WaitRec }.taken = none ∧
    let st := ((waitSatisfiedRow_s2.chip.cl 0).slot 0).st;
    waitSatisfiedRow_s2.chip.waitTurn 0 0 { on := WaitOn.sem 0 0, budget := 1, since := 0 : WaitRec }.on = true ∧
      (st ≠ SlotState.waiting ∨ (waitSatisfiedRow_s2.chip.rest waitSatisfiedRow_s2.clk 0).isSome = true) := by dsimp only; and_intros <;> decide

theorem witness_waitSatisfiedRow_3 :
  ((ready.chip.cl 0).slot 1).wait = some { on := WaitOn.sem 0 0, budget := 1, since := 0 : WaitRec } ∧
  { on := WaitOn.sem 0 0, budget := 1, since := 0 : WaitRec }.taken = none ∧
    let st := ((ready.chip.cl 0).slot 1).st;
    ready.chip.waitTurn 0 1 { on := WaitOn.sem 0 0, budget := 1, since := 0 : WaitRec }.on = true ∧
      (st ≠ SlotState.waiting ∨ (ready.chip.rest ready.clk 0).isSome = true) := by dsimp only; and_intros <;> decide

theorem witness_waitSatisfiedRow_4 :
  ((waitSatisfiedRow_s3.chip.cl 0).slot 0).wait = some { on := WaitOn.sem 0 0, budget := 1, since := 0 : WaitRec } ∧
  { on := WaitOn.sem 0 0, budget := 1, since := 0 : WaitRec }.taken = none ∧
    let st := ((waitSatisfiedRow_s3.chip.cl 0).slot 0).st;
    waitSatisfiedRow_s3.chip.waitTurn 0 0 { on := WaitOn.sem 0 0, budget := 1, since := 0 : WaitRec }.on = true ∧
      st = SlotState.waiting ∧ waitSatisfiedRow_s3.chip.rest waitSatisfiedRow_s3.clk 0 = none := by dsimp only; and_intros <;> decide

theorem witness_waitBudgetRow_1 :
  budgetSt.chip.budgetOut 0 = true ∧ (budgetSt.chip.cl 0).choose ≠ none := by decide

theorem witness_waitBudgetRow_2 :
  ready.chip.budgetOut 0 = false ∨ (ready.chip.cl 0).choose = none := by decide

theorem witness_heartbeatRow :
  (ready.chip.cl 0).beats = true := by decide

theorem witness_heartbeatLossRow_1 :
  ((atNs 2000).chip.cl 0).beats = true ∧ ((atNs 2000).chip.cl 0).lastBeat + 2000 ≤ (atNs 2000).clk.localNs := by decide

theorem witness_heartbeatLossRow_2 :
  ((atNs 1999).chip.cl 0).beats = true ∧ (atNs 1999).clk.localNs < ((atNs 1999).chip.cl 0).lastBeat + 2000 := by decide

theorem witness_captureRow :
  (capSt.chip.cl 0).capture = some { endAt := 0, keys := [] : Capture } ∧
  (capSt.chip.cl 0).lcid = some 0 ∧
    { endAt := 0, keys := [] : Capture }.endAt ≤ (capSt.chip.cl 0).aclk ∧
      (∀ (x : PlanRange),
          x ∈ (capSt.chip.cl 0).carried { endAt := 0, keys := [] : Capture }.keys →
            ∀ (w : Nat), w ∈ spdWords x.spd x.len → (capSt.chip.cl 0).errs w = 0) ∧
        (capSt.chip.cl 0).svc ≠ ClusterSvc.outOfService := by decide

theorem witness_barrierReleaseRow :
  let x := (barrierReleaseRow_s1.chip.pt 0).bar 0;
barrierReleaseRow_s1.chip.releaseDue x = true := by dsimp only; and_intros <;> decide

theorem witness_fillerRampRow :
  (fillerRampRow_s1.chip.cl 0).filler.downDue = some 0 ∧ 0 ≤ fillerRampRow_s1.clk.localNs := by decide

theorem witness_releaseDueRule_1 :
  { released := 1, relAt := [some (0, 2)] : Barrier }.released ≠ 0 ∧
  { released := 1, relAt := [some (0, 2)] : Barrier }.relAt.headD none = some (0, 2) := by decide

theorem witness_releaseDueRule_2 :
  { released := 1 : Barrier }.released ≠ 0 ∧ { released := 1 : Barrier }.relAt.headD none = none := by decide

def datagramDrops_s1 : State := { ready with chip := { readyChip with host := { rx := List.replicate 512 (0, req []) } } }
def datagramSealed_s1 : State := withSess [sess]
def sessionOpenRow_q1 : Req := req (zeros 96)
def sessionConfirmRow_s1 : State := withSess [pendingSess]
def sessionConfirmRow_q2 : Req := req (zeros 64)
def attestRow_q1 : Req := req (zeros 36)
def keyPutRow_q1 : Req := req ([1] ++ zeros 3 ++ toBe 1 4 ++ zeros 64)
def keyPutRow_q2 : Req := req ([2] ++ zeros 3 ++ toBe 0xFFFF0000 4 ++ zeros 32)
def keyPutRow_q3 : Req := req ([3] ++ zeros 39)
def keyDropRow_q1 : Req := req ([1] ++ zeros 3 ++ toBe 1 4)
def keyDropRow_s2 : State := { ready with chip := { readyChip with models := [(0, { valid := true, ep0 := { st := .current, keyId := 1 } })] } }
def keyDropRow_q3 : Req := req ([2] ++ zeros 7)
def keyDropRow_q4 : Req := req ([3] ++ zeros 7)
def dbgPortRows_s1 : State := withPt { mgmt with conf := true }
def dbgMemRows_q1 : Req := req ([1] ++ zeros 3 ++ toBe 137438953471 8 ++ toBe 1 4)
def dbgMemRows_q2 : Req := req ([0, 0] ++ zeros 2 ++ toBe 4194303 8 ++ toBe 1 4)
def dbgMemRows_q3 : Req := req ([1] ++ zeros 3 ++ toBe 137438953471 8 ++ toBe 1 4 ++ [5])
def dbgMemRows_q4 : Req := req ([0, 0] ++ zeros 2 ++ toBe 4194303 8 ++ toBe 1 4 ++ [5])

theorem witness_datagramRow :
  ready.chip.answers = true ∧
  ready.chip.host.rx.length < 512 ∧
    (header 257 96 0 ++ zeros 96).length = 32 + beAt (header 257 96 0 ++ zeros 96) 10 2 ∧
      beAt (header 257 96 0 ++ zeros 96) 10 2 ≤ ready.chip.maxPayload 0 ∧
        beAt (header 257 96 0 ++ zeros 96) 0 2 = 42433 ∧
          beAt (header 257 96 0 ++ zeros 96) 2 1 = 1 ∧
            beAt (header 257 96 0 ++ zeros 96) 4 2 = 257 ∧
              beAt (header 257 96 0 ++ zeros 96) 16 8 = 0 ∧
                beAt (header 257 96 0 ++ zeros 96) 3 1 = 0 ∧
                  beAt (header 257 96 0 ++ zeros 96) 6 2 = 0 ∧
                    bitAt (beAt (header 257 96 0 ++ zeros 96) 8 2) 0 = false ∧
                      ready.chip.gate 257 (reqOf 0 0 (header 257 96 0 ++ zeros 96) (List.drop 32 (header 257 96 0 ++ zeros 96))) = none := by decide

theorem witness_datagramDrops_1 :
  State.reset.chip.answers = false := by decide

theorem witness_datagramDrops_2 :
  datagramDrops_s1.chip.answers = true ∧ 512 ≤ datagramDrops_s1.chip.host.rx.length := by decide

theorem witness_datagramDrops_3 :
  ready.chip.answers = true ∧
  ready.chip.host.rx.length < 512 ∧ ((zeros 31).length < 32 ∨ beAt (zeros 31) 0 2 ≠ 42433 ∨ beAt (zeros 31) 2 1 ≠ 1) := by decide

theorem witness_datagramSealed :
  datagramSealed_s1.chip.answers = true ∧
  datagramSealed_s1.chip.host.rx.length < 512 ∧
    (header 259 0 1 ++ zeros 16).length = 48 + beAt (header 259 0 1 ++ zeros 16) 10 2 ∧
      beAt (header 259 0 1 ++ zeros 16) 10 2 ≤ datagramSealed_s1.chip.maxPayload 0 ∧
        beAt (header 259 0 1 ++ zeros 16) 0 2 = 42433 ∧
          beAt (header 259 0 1 ++ zeros 16) 2 1 = 1 ∧
            beAt (header 259 0 1 ++ zeros 16) 4 2 ≠ 257 ∧
              datagramSealed_s1.chip.session? (beAt (header 259 0 1 ++ zeros 16) 16 8) = some sess ∧
                sess.closed = false ∧ sess.confirmed = true := by decide

theorem witness_sessionOpenRow :
  Claims.Taken ready 257 sessionOpenRow_q1 ∧ ready.chip.sessionCount sessionOpenRow_q1.part < 4 := by decide

theorem witness_sessionConfirmRow :
  Claims.Taken sessionConfirmRow_s1 258 sessionConfirmRow_q2 ∧
  sessionConfirmRow_s1.chip.session? sessionConfirmRow_q2.session = some pendingSess ∧ pendingSess.confirmed = false := by decide

theorem witness_sessionCloseRow :
  Claims.Taken datagramSealed_s1 259 (req []) := by decide

theorem witness_attestRow :
  Claims.Taken ready 260 attestRow_q1 ∧
  let p := leAt attestRow_q1.payload 32 1;
  (p = attestRow_q1.part ∨ attestRow_q1.part = 0) ∧ Claims.Zero attestRow_q1 33 3 ∧ p < 8 ∧ (ready.chip.pt p).valid = true := by dsimp only; and_intros <;> decide

theorem witness_keyPutRow_1 :
  Claims.Taken ready 261 keyPutRow_q1 ∧
  let kind := leAt keyPutRow_q1.payload 0 1;
  let id := beAt keyPutRow_q1.payload 4 4;
  let p := ready.chip.pt keyPutRow_q1.part;
  Claims.Zero keyPutRow_q1 1 3 ∧
    kind = 1 ∧ keyPutRow_q1.payload.length = 72 ∧ id ≠ 0 ∧ ready.chip.keyInUse keyPutRow_q1.part id = false ∧ p.modelKeys.length < 64 := by dsimp only; and_intros <;> decide

theorem witness_keyPutRow_2 :
  Claims.Taken ready 261 keyPutRow_q2 ∧
  let kind := leAt keyPutRow_q2.payload 0 1;
  let id := beAt keyPutRow_q2.payload 4 4;
  let p := ready.chip.pt keyPutRow_q2.part;
  Claims.Zero keyPutRow_q2 1 3 ∧ kind = 2 ∧ keyPutRow_q2.payload.length = 40 ∧ id % 65536 = 0 ∧ p.jobKeys.length < 64 := by dsimp only; and_intros <;> decide

theorem witness_keyPutRow_3 :
  Claims.Taken ready 261 keyPutRow_q3 ∧
  let kind := leAt keyPutRow_q3.payload 0 1;
  let id := beAt keyPutRow_q3.payload 4 4;
  Claims.Zero keyPutRow_q3 1 3 ∧ kind = 3 ∧ keyPutRow_q3.payload.length = 40 ∧ id = 0 := by dsimp only; and_intros <;> decide

theorem witness_keyDropRow_1 :
  Claims.Taken ready 262 keyDropRow_q1 ∧
  let kind := leAt keyDropRow_q1.payload 0 1;
  let id := beAt keyDropRow_q1.payload 4 4;
  Claims.Zero keyDropRow_q1 1 3 ∧ kind = 1 ∧ ready.chip.keyInUse keyDropRow_q1.part id = false := by dsimp only; and_intros <;> decide

theorem witness_keyDropRow_2 :
  Claims.Taken keyDropRow_s2 262 keyDropRow_q1 ∧
  let kind := leAt keyDropRow_q1.payload 0 1;
  let id := beAt keyDropRow_q1.payload 4 4;
  Claims.Zero keyDropRow_q1 1 3 ∧ kind = 1 ∧ keyDropRow_s2.chip.keyInUse keyDropRow_q1.part id = true := by dsimp only; and_intros <;> decide

theorem witness_keyDropRow_3 :
  Claims.Taken ready 262 keyDropRow_q3 ∧
  let kind := leAt keyDropRow_q3.payload 0 1;
  Claims.Zero keyDropRow_q3 1 3 ∧ kind = 2 := by dsimp only; and_intros <;> decide

theorem witness_keyDropRow_4 :
  Claims.Taken ready 262 keyDropRow_q4 ∧
  let kind := leAt keyDropRow_q4.payload 0 1;
  Claims.Zero keyDropRow_q4 1 3 ∧ kind = 3 := by dsimp only; and_intros <;> decide

theorem witness_dbgPortRows_1 :
  Claims.Taken ready 3841 (req []) ∧ ready.chip.anyConf = false := by decide

theorem witness_dbgPortRows_2 :
  Claims.Taken dbgPortRows_s1 3841 (req []) ∧ dbgPortRows_s1.chip.anyConf = true := by decide

theorem witness_dbgPortRows_3 :
  Claims.Taken ready 3842 (req []) := by decide

theorem witness_dbgMemRows_1 :
  withDbg.chip.sec.dbgOpen = true ∧
  Claims.Zero dbgMemRows_q1 2 2 ∧
    let l := beAt dbgMemRows_q1.payload 1 1;
    let a := beAt dbgMemRows_q1.payload 4 8;
    let n := beAt dbgMemRows_q1.payload 12 4;
    Claims.Taken withDbg 3843 dbgMemRows_q1 ∧
      beAt dbgMemRows_q1.payload 0 1 = 1 ∧
        l = 0 ∧ a + n ≤ 2 ^ 37 ∧ n ≤ withDbg.chip.maxPayload dbgMemRows_q1.port ∧ withDbg.chip.physShut withDbg.clk a n = false := by dsimp only; and_intros <;> decide

theorem witness_dbgMemRows_2 :
  withDbg.chip.sec.dbgOpen = true ∧
  Claims.Zero dbgMemRows_q2 2 2 ∧
    let l := beAt dbgMemRows_q2.payload 1 1;
    let a := beAt dbgMemRows_q2.payload 4 8;
    let n := beAt dbgMemRows_q2.payload 12 4;
    Claims.Taken withDbg 3843 dbgMemRows_q2 ∧
      beAt dbgMemRows_q2.payload 0 1 = 0 ∧
        l < 64 ∧
          withDbg.chip.pcid l = some 0 ∧
            a + n ≤ spdSize ∧ n ≤ withDbg.chip.maxPayload dbgMemRows_q2.port ∧ (withDbg.chip.cl 0).rangeOn a n = true := by dsimp only; and_intros <;> decide

theorem witness_dbgMemRows_3 :
  withDbg.chip.sec.dbgOpen = true ∧
  Claims.Zero dbgMemRows_q3 2 2 ∧
    let l := beAt dbgMemRows_q3.payload 1 1;
    let a := beAt dbgMemRows_q3.payload 4 8;
    let n := beAt dbgMemRows_q3.payload 12 4;
    Claims.Taken withDbg 3844 dbgMemRows_q3 ∧
      beAt dbgMemRows_q3.payload 0 1 = 1 ∧
        l = 0 ∧ a + n ≤ 2 ^ 37 ∧ dbgMemRows_q3.payload.length = 16 + n ∧ withDbg.chip.physShut withDbg.clk a n = false := by dsimp only; and_intros <;> decide

theorem witness_dbgMemRows_4 :
  withDbg.chip.sec.dbgOpen = true ∧
  Claims.Zero dbgMemRows_q4 2 2 ∧
    let l := beAt dbgMemRows_q4.payload 1 1;
    let a := beAt dbgMemRows_q4.payload 4 8;
    let n := beAt dbgMemRows_q4.payload 12 4;
    Claims.Taken withDbg 3844 dbgMemRows_q4 ∧
      beAt dbgMemRows_q4.payload 0 1 = 0 ∧
        l < 64 ∧
          withDbg.chip.pcid l = some 0 ∧ a + n ≤ spdSize ∧ dbgMemRows_q4.payload.length = 16 + n ∧ (withDbg.chip.cl 0).rangeOn a n = true := by dsimp only; and_intros <;> decide

def parCreateRow_q1 : Req := req (createPayload 0)
def parCreateDebug_q1 : Req := req (createPayload 1)
def parSetRow_q1 : Req := req ([0, 7, 64, 7] ++ zeros 16)
def parDestroyRow_s1 : State := { ready with chip := { readyChip with parts := [(0, mgmt), (7, { valid := true })] } }
def parDestroyRow_q2 : Req := req ([7] ++ zeros 3)
def teardownRow_s1 : State := { ready with chip := { readyChip with parts := [(0, mgmt), (7, { tearing := true, tearStep := 5 })], works := [wk (.teardown 7)] } }
def ctxCreateRow_s1 : State := withPt { mgmt with ctxCount := 1 }
def supplySampleRow_s1 : State := withCl { svc := .collapsing 0 198 0 }
def supplySampleRow_s2 : State := withCl { svc := .collapsing 0 199 0 }
def memMapRow_q1 : Req := req (toBe 65536 8 ++ toBe 1 4 ++ [3, 0] ++ zeros 2)
def memChangeRow_q1 : Req := req (toBe 65536 8 ++ toBe 1 4 ++ zeros 4)
def translationChangeRow_s1 : State := withWork (.unmap [7] [])
def translationChangeRow_s2 : State := withWork (.protect [])
def memWriteRow_q1 : Req := req (toBe 131071 8 ++ toBe 1 4 ++ zeros 4 ++ [9])
def memReadRow_q1 : Req := req (toBe 131071 8 ++ toBe 1 4 ++ zeros 4)
def regReadRow_q1 : Req := req (toBe 1 2 ++ zeros 2 ++ toBe (mkAddr 1 0 0 0x20) 4)
def bankOnRow_s1 : State := withCl { runCl with bankReady := [(15, 5)] }
def fillCompleteRow_s1 : State := withCl { runCl with opBusy := some fillOp }
def fillCopyRows_s1 : State := withCl { idleCl with opSrc := 4096 }

theorem witness_parCreateRow :
  Claims.Taken cleanSt 513 parCreateRow_q1 ∧
  let c := createReq parCreateRow_q1.payload;
  let rs := cleanSt.chip.regionsOf c.lcids;
  Claims.Clear (c.above ++ c.bad cleanSt.chip parCreateRow_q1.payload rs ++ c.taken cleanSt.chip rs ++ c.waits cleanSt.chip) ∧
    (c.conf = true → cleanSt.chip.sec.dbgOpen = false) := by dsimp only; and_intros <;> decide

theorem witness_parCreateDebug :
  Claims.Taken
    (let __src := cleanSt;
    { clk := __src.clk, mod := __src.mod,
      chip :=
        let __src := cleanSt.chip;
        { clusters := __src.clusters, dies := __src.dies, regions := __src.regions, parts := __src.parts, hbms := __src.hbms,
          hbm := __src.hbm, hbmErr := __src.hbmErr, frames := __src.frames, ledger := __src.ledger, flash := __src.flash,
          models := __src.models, seqs := __src.seqs, wheels := __src.wheels, wheelOrder := __src.wheelOrder, lcidMap := __src.lcidMap,
          runs := __src.runs, nextRun := __src.nextRun, works := __src.works, nextWork := __src.nextWork, host := __src.host,
          sec := { idOk := true, dbgOpen := true : Security }, boot := __src.boot, fabric := __src.fabric, power := __src.power,
          rcv := __src.rcv, wire := __src.wire, free := __src.free : Chip },
      pending := __src.pending : State })
    513 parCreateDebug_q1 ∧
  let c := createReq parCreateDebug_q1.payload;
  let rs :=
    (let __src := cleanSt;
          { clk := __src.clk, mod := __src.mod,
            chip :=
              let __src := cleanSt.chip;
              { clusters := __src.clusters, dies := __src.dies, regions := __src.regions, parts := __src.parts, hbms := __src.hbms,
                hbm := __src.hbm, hbmErr := __src.hbmErr, frames := __src.frames, ledger := __src.ledger, flash := __src.flash,
                models := __src.models, seqs := __src.seqs, wheels := __src.wheels, wheelOrder := __src.wheelOrder,
                lcidMap := __src.lcidMap, runs := __src.runs, nextRun := __src.nextRun, works := __src.works, nextWork := __src.nextWork,
                host := __src.host, sec := { idOk := true, dbgOpen := true : Security }, boot := __src.boot, fabric := __src.fabric,
                power := __src.power, rcv := __src.rcv, wire := __src.wire, free := __src.free : Chip },
            pending := __src.pending : State }).chip.regionsOf
      c.lcids;
  Claims.Clear
      (c.above ++
        c.bad
          (let __src := cleanSt;
            { clk := __src.clk, mod := __src.mod,
              chip :=
                let __src := cleanSt.chip;
                { clusters := __src.clusters, dies := __src.dies, regions := __src.regions, parts := __src.parts, hbms := __src.hbms,
                  hbm := __src.hbm, hbmErr := __src.hbmErr, frames := __src.frames, ledger := __src.ledger, flash := __src.flash,
                  models := __src.models, seqs := __src.seqs, wheels := __src.wheels, wheelOrder := __src.wheelOrder,
                  lcidMap := __src.lcidMap, runs := __src.runs, nextRun := __src.nextRun, works := __src.works, nextWork := __src.nextWork,
                  host := __src.host, sec := { idOk := true, dbgOpen := true : Security }, boot := __src.boot, fabric := __src.fabric,
                  power := __src.power, rcv := __src.rcv, wire := __src.wire, free := __src.free : Chip },
              pending := __src.pending : State }).chip
          parCreateDebug_q1.payload rs) ∧
    c.conf = true ∧
      (let __src := cleanSt;
              { clk := __src.clk, mod := __src.mod,
                chip :=
                  let __src := cleanSt.chip;
                  { clusters := __src.clusters, dies := __src.dies, regions := __src.regions, parts := __src.parts, hbms := __src.hbms,
                    hbm := __src.hbm, hbmErr := __src.hbmErr, frames := __src.frames, ledger := __src.ledger, flash := __src.flash,
                    models := __src.models, seqs := __src.seqs, wheels := __src.wheels, wheelOrder := __src.wheelOrder,
                    lcidMap := __src.lcidMap, runs := __src.runs, nextRun := __src.nextRun, works := __src.works,
                    nextWork := __src.nextWork, host := __src.host, sec := { idOk := true, dbgOpen := true : Security }, boot := __src.boot,
                    fabric := __src.fabric, power := __src.power, rcv := __src.rcv, wire := __src.wire, free := __src.free : Chip },
                pending := __src.pending : State }).chip.sec.dbgOpen =
        true := by dsimp only; and_intros <;> decide

theorem witness_parSetRow :
  Claims.Taken ready 514 parSetRow_q1 ∧
  let b := parSetRow_q1.payload;
  let p := leAt b 0 1;
  let rd := awnWord b 4;
  let wr := awnWord b 8;
  let rm := awnWord b 12;
  p < 8 ∧
    (ready.chip.pt p).valid = true ∧
      (ready.chip.pt p).tearing = false ∧
        leAt b 1 1 < 8 ∧
          leAt b 3 1 < 8 ∧
            Claims.Clear (awnBad b 4) ∧
              Claims.Zero parSetRow_q1 16 4 ∧
                leAt b 2 1 +
                      (List.map (fun i => if i ≠ p ∧ (ready.chip.pt i).valid = true then (ready.chip.pt i).power else 0)
                          (List.range 8)).sum ≤
                    64 ∧
                  ready.chip.sharesOver p rd wr rm = false ∧ ready.chip.sharesHeld p rd wr = false ∧ ready.chip.anyArmed p = false := by dsimp only; and_intros <;> decide

theorem witness_parDestroyRow :
  Claims.Taken parDestroyRow_s1 515 parDestroyRow_q2 ∧
  let p := leAt parDestroyRow_q2.payload 0 1;
  p ≠ 0 ∧
    p < 8 ∧
      (parDestroyRow_s1.chip.pt p).valid = true ∧
        (parDestroyRow_s1.chip.pt p).tearing = false ∧ Claims.Zero parDestroyRow_q2 1 3 ∧ Claims.WorksFit parDestroyRow_s1 parDestroyRow_q2 := by dsimp only; and_intros <;> decide

theorem witness_teardownRow_1 :
  let done :=
  (teardownRow_s1.chip.pt 7).tearing && decide ((teardownRow_s1.chip.pt 7).tearStep = 5) &&
    !List.any teardownRow_s1.chip.frames fun f => decide (f.snd.use = FrameUse.zeroing 7 true);
done = true ∧ List.find? (fun w => decide (w.kind = WorkKind.teardown 7)) teardownRow_s1.chip.works = some (wk (WorkKind.teardown 7)) := by dsimp only; and_intros <;> decide

theorem witness_teardownRow_2 :
  let done :=
  (ready.chip.pt 7).tearing && decide ((ready.chip.pt 7).tearStep = 5) &&
    !List.any ready.chip.frames fun f => decide (f.snd.use = FrameUse.zeroing 7 true);
done = false := by dsimp only; and_intros <;> decide

theorem witness_ctxCreateRow_1 :
  Claims.Taken ready 516 (req []) ∧ (ready.chip.pt (req []).part).freeCtx = some 1 := by decide

theorem witness_ctxCreateRow_2 :
  Claims.Taken ctxCreateRow_s1 516 (req []) ∧ (ctxCreateRow_s1.chip.pt (req []).part).freeCtx = none := by decide

theorem witness_ctxDestroyRow :
  Claims.Taken ready 517 (req []) := by decide

theorem witness_supplySampleRow_1 :
  (supplySampleRow_s1.chip.cl 0).svc = ClusterSvc.collapsing 0 198 0 ∧ 198 < 200 ∧ 149 < 150 ∧ 198 + 1 < 200 := by decide

theorem witness_supplySampleRow_2 :
  (supplySampleRow_s1.chip.cl 0).svc = ClusterSvc.collapsing 0 198 0 ∧ 198 < 200 ∧ 150 ≤ 150 := by decide

theorem witness_supplySampleRow_3 :
  (supplySampleRow_s2.chip.cl 0).svc = ClusterSvc.collapsing 0 199 0 ∧ 199 < 200 ∧ 149 < 150 ∧ 199 + 1 = 200 := by decide

theorem witness_collapsedCluster :
  (readyChip.cl 0).epoch ≠ 65535 := by decide

theorem witness_collapseFailureRow :
  ((let __src := withCl { svc := ClusterSvc.collapsing 0 199 1, lcid := some 0 : Cluster };
            { clk := { localNs := 2000000 : Clock }, mod := __src.mod, chip := __src.chip, pending := __src.pending : State }).chip.cl
        0).svc =
    ClusterSvc.collapsing 0 199 1 ∧
  199 < 200 ∧
    1 < 16 ∧
      0 + 2000000 ≤
          (let __src := withCl { svc := ClusterSvc.collapsing 0 199 1, lcid := some 0 : Cluster };
              { clk := { localNs := 2000000 : Clock }, mod := __src.mod, chip := __src.chip, pending := __src.pending :
                State }).clk.localNs ∧
        ((let __src := withCl { svc := ClusterSvc.collapsing 0 199 1, lcid := some 0 : Cluster };
                  { clk := { localNs := 2000000 : Clock }, mod := __src.mod, chip := __src.chip, pending := __src.pending : State }).chip.cl
              0).lcid =
          some 0 := by dsimp only; and_intros <;> decide

theorem witness_memMapRow :
  Claims.Taken ready 771 memMapRow_q1 ∧
  let m := mapReq memMapRow_q1.payload;
  m.inRange = true ∧
    m.dva % 65536 = 0 ∧
      m.pages ≠ 0 ∧
        beAt memMapRow_q1.payload 12 1 < 8 ∧
          Claims.Zero memMapRow_q1 14 2 ∧
            (m.stack < 4 ∨ m.stack = 255) ∧
              (m.lg = true → m.dva % 2097152 = 0 ∧ m.pages % 32 = 0) ∧
                (∀ (g : Nat), g ∈ m.list → ((ready.chip.pt memMapRow_q1.part).pte g).v = false) ∧
                  m.inWindow ready.chip memMapRow_q1.part = false ∧
                    List.find? (ready.chip.fitsNow memMapRow_q1.part m) m.places = some 0 ∧ Claims.WorksFit ready memMapRow_q1 := by dsimp only; and_intros <;> decide

theorem witness_memChangeRow :
  Claims.Taken mapped 772 memChangeRow_q1 ∧ Claims.ChangeOk mapped memChangeRow_q1 := by decide

theorem witness_memProtectRow :
  Claims.Taken mapped 773 memChangeRow_q1 ∧ Claims.ChangeOk mapped memChangeRow_q1 := by decide

theorem witness_translationChangeRow_1 :
  translationChangeRow_s1.chip.work? 1 = some (wk (WorkKind.unmap [7] [])) ∧
  (wk (WorkKind.unmap [7] [])).kind = WorkKind.unmap [7] [] ∧ [].any translationChangeRow_s1.chip.stillOut = false := by decide

theorem witness_translationChangeRow_2 :
  translationChangeRow_s2.chip.work? 1 = some (wk (WorkKind.protect [])) ∧
  (wk (WorkKind.protect [])).kind = WorkKind.protect [] ∧ [].any translationChangeRow_s2.chip.stillOut = false := by decide

theorem witness_translationChangeRow_3 :
  stillOutSt.chip.work? 1 = some (wk (WorkKind.protect [(0, 0, 65536)])) ∧
  ((wk (WorkKind.protect [(0, 0, 65536)])).kind = WorkKind.unmap [] [(0, 0, 65536)] ∨
      (wk (WorkKind.protect [(0, 0, 65536)])).kind = WorkKind.protect [(0, 0, 65536)]) ∧
    [(0, 0, 65536)].any stillOutSt.chip.stillOut = true := by decide

theorem witness_memWriteRow :
  Claims.Taken mapped 774 memWriteRow_q1 ∧
  let dva := beAt memWriteRow_q1.payload 0 8;
  let n := beAt memWriteRow_q1.payload 8 4;
  (mapped.chip.pt memWriteRow_q1.part).rangeBad dva n true = false ∧
    Claims.Zero memWriteRow_q1 12 4 ∧
      memWriteRow_q1.payload.length = 16 + n ∧
        mapped.chip.rangeShut mapped.clk memWriteRow_q1.part dva n = false ∧ mapped.chip.rangeOwed memWriteRow_q1.part dva n true = false := by dsimp only; and_intros <;> decide

theorem witness_memReadRow :
  Claims.Taken mapped 775 memReadRow_q1 ∧
  let dva := beAt memReadRow_q1.payload 0 8;
  let n := beAt memReadRow_q1.payload 8 4;
  (mapped.chip.pt memReadRow_q1.part).rangeBad dva n false = false ∧
    Claims.Zero memReadRow_q1 12 4 ∧
      n + 16 ≤ mapped.chip.maxPayload memReadRow_q1.port ∧
        mapped.chip.rangeShut mapped.clk memReadRow_q1.part dva n = false ∧ mapped.chip.rangeOwed memReadRow_q1.part dva n false = false := by dsimp only; and_intros <;> decide

theorem witness_regReadRow :
  Claims.Taken ready 769 regReadRow_q1 ∧
  let n := beAt regReadRow_q1.payload 0 2;
  let a := fun i => regAddr (beAt regReadRow_q1.payload (4 + 4 * i) 4);
  n ≠ 0 ∧
    n ≤ 256 ∧
      regReadRow_q1.payload.length = 4 + 4 * n ∧
        Claims.Zero regReadRow_q1 2 2 ∧ ∀ (i : Nat), i < n → Claims.RegOk ready regReadRow_q1.part false (a i) := by dsimp only; and_intros <;> decide

theorem witness_bankOnRow_1 :
  14 < 16 ∧ look 0 (bankOnRow_s1.chip.cl 0).bankReady 14 ≤ bankOnRow_s1.clk.localNs := by decide

theorem witness_bankOnRow_2 :
  15 < 16 ∧
  look 0
      ((let __src :=
                withCl
                  (let __src := runCl;
                  { svc := __src.svc, lcid := __src.lcid, epoch := __src.epoch, bistPass := __src.bistPass, failed := __src.failed,
                    retired := __src.retired, failCount := __src.failCount, aclk := __src.aclk, parked := __src.parked,
                    unparkAt := __src.unparkAt, lastBeat := __src.lastBeat, slots := __src.slots, cur := __src.cur,
                    issueAt := __src.issueAt, acted := __src.acted, yielding := __src.yielding, table := __src.table, loads := __src.loads,
                    sreg := __src.sreg, vreg := __src.vreg, flight := __src.flight, vlds := __src.vlds, entryW := __src.entryW,
                    uses := __src.uses, ports := __src.ports, arr := __src.arr, oag0 := __src.oag0, oag1 := __src.oag1,
                    satFp := __src.satFp, num := __src.num, seedLo := __src.seedLo, seedHi := __src.seedHi, seed := __src.seed,
                    mixed := __src.mixed, draws := __src.draws, dbuf := __src.dbuf, role := __src.role, bankPwr := __src.bankPwr,
                    bankReady := [(15, 5)], opDst := __src.opDst, opSrc := __src.opSrc, opLen := __src.opLen, opPat := __src.opPat,
                    op := __src.op, opBusy := __src.opBusy, staged := __src.staged, spd := __src.spd, written := __src.written,
                    subst := __src.subst, spdErr := __src.spdErr, ecc := __src.ecc, codec := __src.codec, fail1 := __src.fail1,
                    fail2 := __src.fail2, rawBlocks := __src.rawBlocks, lanes := __src.lanes, activity := __src.activity,
                    filler := __src.filler, replay := __src.replay, capture := __src.capture : Cluster });
              { clk := { localNs := 5 : Clock }, mod := __src.mod, chip := __src.chip, pending := __src.pending : State }).chip.cl
          0).bankReady
      15 ≤
    (let __src :=
          withCl
            (let __src := runCl;
            { svc := __src.svc, lcid := __src.lcid, epoch := __src.epoch, bistPass := __src.bistPass, failed := __src.failed,
              retired := __src.retired, failCount := __src.failCount, aclk := __src.aclk, parked := __src.parked,
              unparkAt := __src.unparkAt, lastBeat := __src.lastBeat, slots := __src.slots, cur := __src.cur, issueAt := __src.issueAt,
              acted := __src.acted, yielding := __src.yielding, table := __src.table, loads := __src.loads, sreg := __src.sreg,
              vreg := __src.vreg, flight := __src.flight, vlds := __src.vlds, entryW := __src.entryW, uses := __src.uses,
              ports := __src.ports, arr := __src.arr, oag0 := __src.oag0, oag1 := __src.oag1, satFp := __src.satFp, num := __src.num,
              seedLo := __src.seedLo, seedHi := __src.seedHi, seed := __src.seed, mixed := __src.mixed, draws := __src.draws,
              dbuf := __src.dbuf, role := __src.role, bankPwr := __src.bankPwr, bankReady := [(15, 5)], opDst := __src.opDst,
              opSrc := __src.opSrc, opLen := __src.opLen, opPat := __src.opPat, op := __src.op, opBusy := __src.opBusy,
              staged := __src.staged, spd := __src.spd, written := __src.written, subst := __src.subst, spdErr := __src.spdErr,
              ecc := __src.ecc, codec := __src.codec, fail1 := __src.fail1, fail2 := __src.fail2, rawBlocks := __src.rawBlocks,
              lanes := __src.lanes, activity := __src.activity, filler := __src.filler, replay := __src.replay, capture := __src.capture :
              Cluster });
        { clk := { localNs := 5 : Clock }, mod := __src.mod, chip := __src.chip, pending := __src.pending : State }).clk.localNs := by dsimp only; and_intros <;> decide

theorem witness_fillCompleteRow_1 :
  (fillSt.chip.cl 0).opBusy = some fillDone ∧
  fillDone.len ≤ fillDone.moved ∧
    List.find? (fun w => decide (w.kind = WorkKind.fillCopy 0)) fillSt.chip.works = some (wk (WorkKind.fillCopy 0)) ∧
      fillSt.chip.ownerOfCl 0 = some (wk (WorkKind.fillCopy 0)).part := by decide

theorem witness_fillCompleteRow_2 :
  (fillCompleteRow_s1.chip.cl 0).opBusy = some fillOp ∧ fillOp.moved < fillOp.len := by decide

theorem witness_fillCopyRows_1 :
  (1 = 1 ∨ 1 = 2) ∧
  let a := regAddr (mkAddr 3 0 0 6);
  let v := if 1 = 1 then 3#32 else 5#32;
  idleSt.chip.ready = true ∧
    Claims.Writable idleSt 0 a v ∧
      idleSt.chip.regCluster a = some 0 ∧
        ((idleSt.chip.cl 0).svc = ClusterSvc.owned ∨ (idleSt.chip.cl 0).svc = ClusterSvc.clean) ∧
          (∀ (x : Bool × Status), x ∈ idleSt.chip.goChecks 0 1 → x.fst = false) ∧ (idleSt.chip.cl 0).opLen ≠ 0 := by dsimp only; and_intros <;> decide

theorem witness_fillCopyRows_2 :
  (2 = 1 ∨ 2 = 2) ∧
  let a := regAddr (mkAddr 3 0 0 6);
  let v := if 2 = 1 then 3#32 else 5#32;
  fillCopyRows_s1.chip.ready = true ∧
    Claims.Writable fillCopyRows_s1 0 a v ∧
      fillCopyRows_s1.chip.regCluster a = some 0 ∧
        ((fillCopyRows_s1.chip.cl 0).svc = ClusterSvc.owned ∨ (fillCopyRows_s1.chip.cl 0).svc = ClusterSvc.clean) ∧
          (∀ (x : Bool × Status), x ∈ fillCopyRows_s1.chip.goChecks 0 2 → x.fst = false) ∧ (fillCopyRows_s1.chip.cl 0).opLen ≠ 0 := by dsimp only; and_intros <;> decide

theorem witness_registerEffects_1 :
  (idleSt.chip.cl 0).anyBusy = false := by decide

theorem witness_registerEffects_2 :
  (idleSt.chip.cl 0).anyBusy = false ∧ (true = true → (idleSt.chip.cl 0).oag0.geomBad = false) := by decide

theorem witness_registerEffects_3 :
  (idleSt.chip.cl 0).anyBusy = false ∧
  (pairValid 2147745792 = true → (idleSt.chip.cl 0).pairMeets 15 2147745792 = false) ∧
    pairBase 2147745792 + 2 * pairHalf 2147745792 ≤ spdSize ∧ bitsAt 2147745792 18 13 ≤ 4096 := by decide

theorem witness_registerEffects_4 :
  (idleSt.chip.cl 0).anyBusy = false ∧ ∀ (b : Nat), b < 16 → bitsAt 2863311530 (2 * b) 2 ≠ 3 := by decide

theorem witness_registerEffects_5 :
  (idleSt.chip.cl 0).anyBusy = false ∧ idleSt.chip.semWaited 15 255 = false := by decide

theorem witness_registerWriteRow :
  let a := regAddr 0;
State.reset.chip.ready = false ∨ ¬Claims.Writable State.reset 0 a 0 := by dsimp only; and_intros <;> decide

theorem witness_fillChunkRow :
  fillCl.opBusy = some fillOp ∧
  fillOp.moved < fillOp.len ∧
    fillOp.copy = false ∧
      fillOp.dst % 32 = 0 ∧
        fillOp.moved % 32 = 0 ∧
          fillOp.dst + fillOp.len ≤ spdSize ∧
            Store.wf 0 fillCl.spd = true ∧
              (withCl fillCl).chip.cl 0 = fillCl ∧
                32 * 3 + 32 ≤ min 128 (fillOp.len - fillOp.moved) ∧ fillCl.bankOn (bankOf ((fillOp.dst + fillOp.moved) / 32 + 3)) = true := by decide

/-- REG_WRITE and REGISTER_WRITE of CLU_SR_SEED_LO, which the register takes, of a go that begins a fill, and of a copy that does not exist. -/
def regPut (addr v : Nat) : Req := req (toBe 1 2 ++ zeros 2 ++ toBe addr 4 ++ toBe v 4)

theorem witness_regWriteRow_taken : Claims.Taken idleSt 0x0302 (regPut (mkAddr 1 0 0 0x22) 5) ∧ Claims.Writable idleSt 0 (regAddr (mkAddr 1 0 0 0x22)) 5 ∧
    (idleSt.chip.regWrites idleSt.clk 0 8 [(regAddr (mkAddr 1 0 0 0x22), 5)]).2 = ([], []) := by decide +kernel

theorem witness_regWriteRow_starts : Claims.Taken idleSt 0x0302 (regPut (mkAddr 3 0 0 6) 3) ∧ Claims.Writable idleSt 0 (regAddr (mkAddr 3 0 0 6)) 3 ∧
    (idleSt.chip.regWrites idleSt.clk 0 8 [(regAddr (mkAddr 3 0 0 6), 3)]).2 = ([0], []) ∧ Claims.WorksFit idleSt (regPut (mkAddr 3 0 0 6) 3) := by decide +kernel

theorem witness_regWriteRow_refused : Claims.Writable idleSt 0 (regAddr (mkAddr 3 0 0 6)) 7 ∧
    (leastRank (idleSt.chip.regWrites idleSt.clk 0 8 [(regAddr (mkAddr 3 0 0 6), 7)]).2.2).isSome = true := by decide +kernel

theorem witness_registerWriteRow_taken : Claims.Writable idleSt 0 (regAddr (mkAddr 1 0 0 0x23)) 5 ∧ (idleSt.chip.regEffect idleSt.clk 0 (regAddr (mkAddr 1 0 0 0x23)) 5 0).toOption.isSome = true ∧
    (Instr.seedHiWrite 0 0 5, mkAddr 1 0 0 0x23) ∈ Claims.registerEvents 0 0 0 5 false := by decide +kernel

theorem witness_registerWriteRow_refused : Claims.Writable idleSt 0 (regAddr (mkAddr 3 0 0 6)) 7 ∧
    (idleSt.chip.regEffect idleSt.clk 0 (regAddr (mkAddr 3 0 0 6)) 7 0).toOption.isSome = false := by decide +kernel

def modelStageRow_s1 : State := withPt { mgmt with staging := [1] }
def modelStageRow_q2 : Req := req (toBe 0 4 ++ zeros 4 ++ [5])
def modelStageRow_q3 : Req := req (toBe 1 4 ++ zeros 4)
def modelLoadRow_s1 : State := withPt { mgmt with staging := zeros 232 }
def modelLoadRow_q2 : Req := req (zeros 4 ++ toBe 1 8 ++ toBe 1 4 ++ toBe 60 4 ++ zeros 36)
def modelUnloadRow_s1 : State := withModel (oneShard .standby {}) []
def modelUnloadRow_q2 : Req := req (zeros 4 ++ toBe 1 4)
def switchWeightsRow_s1 : State := withModel (oneShard .current {}) []
def switchWeightsRow_q2 : Req := req (toBe 1 8 ++ toBe 1 4)
def switchWeightsRow_s3 : State := withModel (oneShard .loading {}) []
def shardPutRow_s1 : State := withModel (oneShard .loading { trying := true, source := 3, length := 1 }) []
def shardPutRow_q2 : Req := req (putPayload 0 [1])
def shardPutRow_s3 : State := withModel (oneShard .current { st := .missing, length := 1 }) []
def shardCompleteRow_s1 : State := withModel (oneShard .loading { trying := true, source := 3, received := zeros 16 }) []
def shardPlacedRow_s1 : State := withModel (oneShard .loading { st := .placing }) []
def loadCompleteRow_s1 : State := withModel (oneShard .loading { st := .resident }) [wk (.load 0 0)]
def rehashCompleteRow_s1 : State := withModel (oneShard .current { st := .resident, hashing := true }) []
def peerRequestRow_s1 : State := withJob (oneShard .current {}) job5
def epochReleaseRow_s1 : State := withModel (oneShard .draining {}) []
def tableRows_q1 : Req := req ([7] ++ zeros 3 ++ toBe 1 8)
def tableLoadDoneRow_s1 : State := withWork (.tableLoad [0] 7 [1])
def tableBuildRow_q1 : Req := req ([1, 1] ++ zeros 22)
def tableBuildDoneRow_s1 : State := withWork (.tableBuild 0 true 0 0 0)

theorem witness_modelStageRow_1 :
  Claims.Taken modelStageRow_s1 1025 modelStageRow_q2 ∧
  let off := beAt modelStageRow_q2.payload 0 4;
  let data := List.drop 8 modelStageRow_q2.payload;
  (off = 0 ∨ off = (modelStageRow_s1.chip.pt modelStageRow_q2.part).staging.length) ∧
    Claims.Zero modelStageRow_q2 4 4 ∧ off + data.length ≤ 16777216 := by dsimp only; and_intros <;> decide

theorem witness_modelStageRow_2 :
  Claims.Taken modelStageRow_s1 1025 modelStageRow_q3 ∧
  let off := beAt modelStageRow_q3.payload 0 4;
  let data := List.drop 8 modelStageRow_q3.payload;
  (off = 0 ∨ off = (modelStageRow_s1.chip.pt modelStageRow_q3.part).staging.length) ∧
    Claims.Zero modelStageRow_q3 4 4 ∧ off + data.length ≤ 16777216 := by dsimp only; and_intros <;> decide

theorem witness_modelLoadRow :
  Claims.Taken modelLoadRow_s1 1026 modelLoadRow_q2 ∧ Claims.Clear (loadChecks modelLoadRow_q2 modelLoadRow_s1.chip) := by decide

theorem witness_modelUnloadRow :
  Claims.Taken modelUnloadRow_s1 1027 modelUnloadRow_q2 ∧
  let h := beAt modelUnloadRow_q2.payload 0 1;
  let m := modelUnloadRow_s1.chip.mdl h;
  let rev := beAt modelUnloadRow_q2.payload 4 4;
  let e := if m.ep0.st ≠ EpochState.empty ∧ m.ep0.revision = rev then 0 else 1;
  h < 16 ∧
    (modelUnloadRow_s1.chip.pt modelUnloadRow_q2.part).ownsHandle h = true ∧
      Claims.Zero modelUnloadRow_q2 1 3 ∧
        m.valid = true ∧
          (m.ep e).st ≠ EpochState.empty ∧
            (m.ep e).revision = rev ∧
              (m.ep e).releasing = false ∧ modelUnloadRow_s1.chip.bound h e = 0 ∧ Claims.WorksFit modelUnloadRow_s1 modelUnloadRow_q2 := by dsimp only; and_intros <;> decide

theorem witness_switchWeightsRow_1 :
  Claims.Taken switchWeightsRow_s1 1028 switchWeightsRow_q2 ∧
  switchWeightsRow_s1.chip.findEpoch switchWeightsRow_q2.part (beAt switchWeightsRow_q2.payload 0 8)
        (beAt switchWeightsRow_q2.payload 8 4) =
      some (0, 0) ∧
    let ep := (switchWeightsRow_s1.chip.mdl 0).ep 0;
    ep.releasing = false ∧ ep.st = EpochState.current := by dsimp only; and_intros <;> decide

theorem witness_switchWeightsRow_2 :
  Claims.Taken modelUnloadRow_s1 1028 switchWeightsRow_q2 ∧
  modelUnloadRow_s1.chip.findEpoch switchWeightsRow_q2.part (beAt switchWeightsRow_q2.payload 0 8) (beAt switchWeightsRow_q2.payload 8 4) =
      some (0, 0) ∧
    let ep := (modelUnloadRow_s1.chip.mdl 0).ep 0;
    ep.releasing = false ∧ (ep.st = EpochState.standby ∨ ep.st = EpochState.draining) := by dsimp only; and_intros <;> decide

theorem witness_switchWeightsRow_3 :
  Claims.Taken switchWeightsRow_s3 1028 switchWeightsRow_q2 ∧
  switchWeightsRow_s3.chip.findEpoch switchWeightsRow_q2.part (beAt switchWeightsRow_q2.payload 0 8)
        (beAt switchWeightsRow_q2.payload 8 4) =
      some (0, 0) ∧
    let ep := (switchWeightsRow_s3.chip.mdl 0).ep 0;
    ep.releasing = false ∧ ep.st = EpochState.loading := by dsimp only; and_intros <;> decide

theorem witness_shardPutRow_1 :
  Claims.Taken shardPutRow_s1 1029 shardPutRow_q2 ∧
  let b := shardPutRow_q2.payload;
  let sh := beAt b 12 2;
  shardPutRow_s1.chip.findEpoch shardPutRow_q2.part (beAt b 0 8) (beAt b 8 4) = some (0, 0) ∧
    shardPutRow_s1.chip.liveShard 0 0 sh = true ∧
      Claims.Zero shardPutRow_q2 14 2 ∧
        Claims.Zero shardPutRow_q2 20 4 ∧
          let x := ((shardPutRow_s1.chip.mdl 0).ep 0).shard sh;
          beAt b 16 4 + (b.length - 24) ≤ x.length + 16 ∧ x.trying = true ∧ x.source = 3 ∧ beAt b 16 4 = x.received.length := by dsimp only; and_intros <;> decide

theorem witness_shardPutRow_2 :
  Claims.Taken shardPutRow_s3 1029 shardPutRow_q2 ∧
  let b := shardPutRow_q2.payload;
  let sh := beAt b 12 2;
  shardPutRow_s3.chip.findEpoch shardPutRow_q2.part (beAt b 0 8) (beAt b 8 4) = some (0, 0) ∧
    shardPutRow_s3.chip.liveShard 0 0 sh = true ∧
      Claims.Zero shardPutRow_q2 14 2 ∧
        Claims.Zero shardPutRow_q2 20 4 ∧
          let x := ((shardPutRow_s3.chip.mdl 0).ep 0).shard sh;
          beAt b 16 4 + (b.length - 24) ≤ x.length + 16 ∧ x.trying = false ∧ x.st = ShardState.missing ∧ beAt b 16 4 = 0 := by dsimp only; and_intros <;> decide

theorem witness_shardTimeoutRow_1 :
  (laterNs (withModel (oneShard EpochState.loading { trying := true : Shard }) []) 200000000).chip.liveShard 0 0 0 = true ∧
  let x := (((laterNs (withModel (oneShard EpochState.loading { trying := true : Shard }) []) 200000000).chip.mdl 0).ep 0).shard 0;
  x.trying = true ∧
    x.received.length < x.length + 16 ∧
      x.lastByte + 200000000 ≤ (laterNs (withModel (oneShard EpochState.loading { trying := true : Shard }) []) 200000000).clk.localNs := by dsimp only; and_intros <;> decide

theorem witness_shardTimeoutRow_2 :
  (laterNs (withModel (oneShard EpochState.loading { trying := true : Shard }) []) 199999999).chip.liveShard 0 0 0 = true ∧
  let x := (((laterNs (withModel (oneShard EpochState.loading { trying := true : Shard }) []) 199999999).chip.mdl 0).ep 0).shard 0;
  x.trying = true ∧
    x.received.length < x.length + 16 ∧
      (laterNs (withModel (oneShard EpochState.loading { trying := true : Shard }) []) 199999999).clk.localNs < x.lastByte + 200000000 := by dsimp only; and_intros <;> decide

theorem witness_shardCompleteRow :
  shardCompleteRow_s1.chip.liveShard 0 0 0 = true ∧
  let ep := (shardCompleteRow_s1.chip.mdl 0).ep 0;
  let x := ep.shard 0;
  let bytes := shardCompleteRow_s1.chip.tryBytes 0 0 0 [];
  x.trying = true ∧ bytes.length = x.length + 16 := by dsimp only; and_intros <;> decide

theorem witness_shardPlacedRow :
  shardPlacedRow_s1.chip.liveShard 0 0 0 = true ∧
  let m := shardPlacedRow_s1.chip.mdl 0;
  let ep := m.ep 0;
  let x := ep.shard 0;
  x.st = ShardState.placing ∧
    (x.kind = false →
        (∀ (i : Nat), i ∈ x.lidxs ep → (shardPlacedRow_s1.chip.led i).inflight = 0) ∧
          (ep.stream = true → shardPlacedRow_s1.chip.flash.wear < 100)) ∧
      shardPlacedRow_s1.chip.framesLacking m.part ep x = 0 := by dsimp only; and_intros <;> decide

theorem witness_loadCompleteRow :
  let m := loadCompleteRow_s1.chip.mdl 0;
let ep := m.ep 0;
ep.st = EpochState.loading ∧
  ep.releasing = false ∧
    (∀ (i : Nat), i < ep.nshards → (ep.shard i).st = ShardState.resident) ∧
      ep.keep = false ∧ ep.work.bind loadCompleteRow_s1.chip.work? = some (wk (WorkKind.load 0 0)) ∧ ep.sched = none := by dsimp only; and_intros <;> decide

theorem witness_shardRetryRow_1 :
  let m := (laterNs (withModel (oneShard EpochState.current { : Shard }) []) 600000000000).chip.mdl 0;
let ep := m.ep 0;
(ep.st = EpochState.standby ∨ ep.st = EpochState.current ∨ ep.st = EpochState.draining) ∧
  ep.releasing = false ∧
    ep.lastRetry + m.rehash * 1000000000 ≤ (laterNs (withModel (oneShard EpochState.current { : Shard }) []) 600000000000).clk.localNs := by dsimp only; and_intros <;> decide

theorem witness_shardRetryRow_2 :
  let m := (laterNs (withModel (oneShard EpochState.draining { : Shard }) []) 599999999999).chip.mdl 0;
let ep := m.ep 0;
(ep.st = EpochState.standby ∨ ep.st = EpochState.current ∨ ep.st = EpochState.draining) ∧
  ep.releasing = false ∧
    (laterNs (withModel (oneShard EpochState.draining { : Shard }) []) 599999999999).clk.localNs < ep.lastRetry + m.rehash * 1000000000 := by dsimp only; and_intros <;> decide

theorem witness_rehashDueRow :
  (laterNs (withModel (oneShard EpochState.current { st := ShardState.resident : Shard }) []) 600000000000).chip.liveShard 0 0 0 = true ∧
  let x :=
    (((laterNs (withModel (oneShard EpochState.current { st := ShardState.resident : Shard }) []) 600000000000).chip.mdl 0).ep 0).shard 0;
  x.st = ShardState.resident ∧
    x.kind = false ∧
      x.hashing = false ∧
        x.hashedAt +
            ((laterNs (withModel (oneShard EpochState.current { st := ShardState.resident : Shard }) []) 600000000000).chip.mdl 0).rehash *
              1000000000 ≤
          (laterNs (withModel (oneShard EpochState.current { st := ShardState.resident : Shard }) []) 600000000000).clk.localNs := by dsimp only; and_intros <;> decide

theorem witness_rehashCompleteRow :
  rehashCompleteRow_s1.chip.liveShard 0 0 0 = true ∧
  let ep := (rehashCompleteRow_s1.chip.mdl 0).ep 0;
  let x := ep.shard 0;
  x.hashing = true := by dsimp only; and_intros <;> decide

theorem witness_peerRequestRow_1 :
  peerRequestRow_s1.chip.peerEpoch 5 1 1 1 = some (job5, 0, 0) ∧
  let ep := (peerRequestRow_s1.chip.mdl 0).ep 0;
  let kept := (peerRequestRow_s1.chip.keptOf job5.part 1 1).bind fun kp => kp.shard 0;
  0 < ep.nshards ∧ ep.darino = false ∧ kept = some [1] ∧ [1] ≠ [] := by dsimp only; and_intros <;> decide

theorem witness_peerRequestRow_2 :
  peerMissSt.chip.peerEpoch 5 1 1 1 = some (jobFlows, 0, 0) ∧
  let ep := (peerMissSt.chip.mdl 0).ep 0;
  let kept := (peerMissSt.chip.keptOf jobFlows.part 1 1).bind fun kp => kp.shard 0;
  0 < ep.nshards ∧
    ep.darino = false ∧
      kept = none ∧
        (ep.shard 0).st ≠ ShardState.resident ∧
          peerMissSt.chip.flowSend peerMissSt.clk jobFlows 1 (shardFlow 0 0) false (flowMsg 6 0 0 0 14 (shardName 1 1 0)) =
            some
              ((peerMissSt.chip.flowSend peerMissSt.clk jobFlows 1 (shardFlow 0 0) false (flowMsg 6 0 0 0 14 (shardName 1 1 0))).getD
                (0, { : Chip })) := by dsimp only; and_intros <;> decide

theorem witness_peerMismatchRow :
  peerRequestRow_s1.chip.peerEpoch 5 1 1 1 = some (job5, 0, 0) ∧
  peerRequestRow_s1.chip.liveShard 0 0 0 = true ∧ ((peerRequestRow_s1.chip.mdl 0).ep 0).st ≠ EpochState.loading := by decide

theorem witness_epochReleaseRow_1 :
  let ep := (epochReleaseRow_s1.chip.mdl 0).ep 0;
ep.releasing = true ∨ ep.st = EpochState.draining ∧ epochReleaseRow_s1.chip.bound 0 0 = 0 := by dsimp only; and_intros <;> decide

theorem witness_epochReleaseRow_2 :
  let ep := (switchWeightsRow_s1.chip.mdl 0).ep 0;
ep.releasing = false ∧ (ep.st ≠ EpochState.draining ∨ switchWeightsRow_s1.chip.bound 0 0 ≠ 0) := by dsimp only; and_intros <;> decide

theorem witness_tableRows :
  Claims.TableOk ready tableRows_q1 ∧ Claims.Taken ready 1031 tableRows_q1 := by decide

theorem witness_tableLoadDoneRow :
  tableLoadDoneRow_s1.chip.work? 1 = some (wk (WorkKind.tableLoad [0] 7 [1])) ∧
  (wk (WorkKind.tableLoad [0] 7 [1])).kind = WorkKind.tableLoad [0] 7 [1] ∧
    let cs := List.filterMap tableLoadDoneRow_s1.chip.pcid [0];
    (∀ (l : Nat), l ∈ [0] → (tableLoadDoneRow_s1.chip.pcid l).isSome = true) ∧
      ∀ (c : Nat), c ∈ cs → (tableLoadDoneRow_s1.chip.cl c).svc = ClusterSvc.owned := by dsimp only; and_intros <;> decide

theorem witness_tableBuildRow :
  Claims.Taken ready 1032 tableBuildRow_q1 ∧
  let b := tableBuildRow_q1.payload;
  beAt b 0 1 < 2 ∧ beAt b 1 1 < 2 ∧ Claims.Zero tableBuildRow_q1 2 2 ∧ Claims.WorksFit ready tableBuildRow_q1 := by dsimp only; and_intros <;> decide

theorem witness_tableBuildDoneRow :
  tableBuildDoneRow_s1.chip.work? 1 = some (wk (WorkKind.tableBuild 0 true 0 0 0)) ∧
  (wk (WorkKind.tableBuild 0 true 0 0 0)).kind = WorkKind.tableBuild 0 true 0 0 0 ∧ 0 = 0 := by decide

/-- TABLE_LOAD_COMPLETE with an lcid that no cluster serves any more. -/
theorem witness_tableLoadDoneRow_gone : (withWork (.tableLoad [1] 7 [1])).chip.work? 1 = some (wk (.tableLoad [1] 7 [1])) ∧
    (withWork (.tableLoad [1] 7 [1])).chip.pcid 1 = none := by decide +kernel

/-- TABLE_BUILD_COMPLETE over bytes that are served, into a page that may be written. -/
theorem witness_tableBuildDoneRow_served : (∃ bytes, mapped.chip.readServed 0 65536 1 = .ok bytes) ∧ (mapped.chip.pt 0).rangeBad 65536 144 true = false := ⟨⟨_, rfl⟩, by decide⟩

theorem witness_tableBuildDoneRow_unread : ready.chip.readServed 0 65535 1 = .error 65535 := rfl

theorem witness_tableRows_load : imgValid image1 = true ∧ Claims.Taken ready 0x0406 (req ([7] ++ zeros 3 ++ toBe 1 8 ++ image1)) := by decide +kernel

def slotLoadRow_q1 : Req := req ([0, 2, 0, 0] ++ toBe 16 2 ++ toBe 1 2 ++ toBe 65536 8)
def runStartRow_q1 : Req := req ([0xFF, 0, 1, 0] ++ zeros 12 ++ [0, 4])
def runCancelRow_s1 : State := { ready with chip := { readyChip with runs := [run1] } }
def runCancelRow_q2 : Req := req (toBe 1 4)
def runCancelRow_s3 : State := { ready with chip := { readyChip with runs := [run2] } }
def reqAdmitRow_s1 : State := withModel (oneShard .current {}) []
def reqAdmitRow_q2 : Req := req (zeros 4 ++ toBe 1 2 ++ zeros 2 ++ toBe 7 4)
def reqEndRow_s1 : State := withPt { mgmt with requests := [req7] }
def reqEndRow_q2 : Req := req (toBe 1 2 ++ zeros 2 ++ toBe 7 4)
def streamArmRow_s1 : State := withStr activeStr
def streamWithdrawRow_q1 : Req := req (zeros 4)
def wheelPositionRow_s1 : State := withWheel (some 0) [(0, mgmt)] { streams := [(0, { activeStr with reqs := [{ sreq false false with left := 256 }] })] }
def wheelPositionRow_s2 : State := withWheel (some 0) [(0, mgmt)] {}
def wheelPositionRow_s3 : State := withWheel (some 0) [(0, { mgmt with awnRd := 0x80 })] {}
def streamRequestRow_s1 : State := withStr { activeStr with reqs := [sreq true true] }
def streamRequestRow_s2 : State := withStr { activeStr with reqs := [sreq true false] }
def streamRequestRow_s3 : State := withStr { activeStr with reqs := [sreq false true] }
def streamRequestRow_s4 : State := withStr { activeStr with reqs := [sreq false false] }
def streamIdleRow_s1 : State := withStr { activeStr with st := .stopping, active := none }
def kvChangeRow_q1 : Req := req (zeros 8)
def kvChangeRow_q2 : Req := req (zeros 3 ++ [1] ++ toBe 32 4 ++ zeros 4 ++ toBe 0x3F800000 4)
def walkRow_found_s1 : State := withWalk true
def walkRow_found_s2 : State := withWalk false
def blockEmissionRow_due_s1 : State := withLane 9999
def outboundRow_queued_s1 : State := withEnc { valid := true, image := image1 }
def kvNewRow_copy_q1 : Req := req (zeros 8 ++ toBe 131072 8 ++ toBe 65536 8)

theorem witness_slotLoadRow_1 :
  Claims.Taken (memAt [(458767, 192)]) 1281 slotLoadRow_q1 ∧
  Claims.SlotOk (memAt [(458767, 192)]) slotLoadRow_q1 0 ∧
    let x := slotReq slotLoadRow_q1.payload;
    let es := (memAt [(458767, 192)]).chip.tableAt slotLoadRow_q1.part x.dva x.len;
    (memAt [(458767, 192)]).chip.planAt slotLoadRow_q1.part (x.dva + 16 * x.len) = none ∧
      ckptEntries es = [] ∧ Claims.otherPlans ((memAt [(458767, 192)]).chip.cl 0) x.slot ≤ 65536 := by dsimp only; and_intros <;> decide

theorem witness_slotLoadRow_2 :
  Claims.Taken planSt 1281 slotLoadRow_q1 ∧
  Claims.SlotOk planSt slotLoadRow_q1 0 ∧
    let x := slotReq slotLoadRow_q1.payload;
    let es := planSt.chip.tableAt slotLoadRow_q1.part x.dva x.len;
    planSt.chip.planAt slotLoadRow_q1.part (x.dva + 16 * x.len) = some plan1 ∧
      let recs := planRecords (List.drop 16 plan1) (leAt plan1 4 2);
      (x.len ≠ 0 → planBad plan1 = false) ∧
        (∀ (i : Nat), i ∈ ckptEntries es → ∃ r, r ∈ recs ∧ r.key = i) ∧
          (∀ (r : PlanRec), r ∈ recs → r.captured ≤ 221184) ∧ planBytes recs + Claims.otherPlans (planSt.chip.cl 0) x.slot ≤ 65536 := by dsimp only; and_intros <;> decide

theorem witness_runStartRow :
  Claims.Taken loadedSt 1282 runStartRow_q1 ∧ Claims.RunOk loadedSt runStartRow_q1 := by decide

theorem witness_runCancelRow_1 :
  Claims.Taken runCancelRow_s1 1283 runCancelRow_q2 ∧
  let id := beAt runCancelRow_q2.payload 0 4;
  runCancelRow_s1.chip.run? id = some run1 ∧ run1.part = runCancelRow_q2.part ∧ run1.ctx = runCancelRow_q2.ctx := by dsimp only; and_intros <;> decide

theorem witness_runCancelRow_2 :
  Claims.Taken runCancelRow_s3 1283 runCancelRow_q2 ∧
  let id := beAt runCancelRow_q2.payload 0 4;
  runCancelRow_s3.chip.run? id = some run2 ∧ (run2.part ≠ runCancelRow_q2.part ∨ run2.ctx ≠ runCancelRow_q2.ctx) := by dsimp only; and_intros <;> decide

theorem witness_runCancelRow_3 :
  Claims.Taken ready 1283 runCancelRow_q2 ∧
  let id := beAt runCancelRow_q2.payload 0 4;
  ready.chip.run? id = none := by dsimp only; and_intros <;> decide

theorem witness_cancelledSlot_1 :
  (withCl
            (let __src := runCl;
            { svc := __src.svc, lcid := __src.lcid, epoch := __src.epoch, bistPass := __src.bistPass, failed := __src.failed,
              retired := __src.retired, failCount := __src.failCount, aclk := __src.aclk, parked := __src.parked,
              unparkAt := __src.unparkAt, lastBeat := __src.lastBeat, slots := [(0, { st := SlotState.waiting : Slot })], cur := __src.cur,
              issueAt := __src.issueAt, acted := __src.acted, yielding := __src.yielding, table := __src.table, loads := __src.loads,
              sreg := __src.sreg, vreg := __src.vreg, flight := __src.flight, vlds := __src.vlds, entryW := __src.entryW,
              uses := __src.uses, ports := __src.ports, arr := __src.arr, oag0 := __src.oag0, oag1 := __src.oag1, satFp := __src.satFp,
              num := __src.num, seedLo := __src.seedLo, seedHi := __src.seedHi, seed := __src.seed, mixed := __src.mixed,
              draws := __src.draws, dbuf := __src.dbuf, role := __src.role, bankPwr := __src.bankPwr, bankReady := __src.bankReady,
              opDst := __src.opDst, opSrc := __src.opSrc, opLen := __src.opLen, opPat := __src.opPat, op := __src.op,
              opBusy := __src.opBusy, staged := __src.staged, spd := __src.spd, written := __src.written, subst := __src.subst,
              spdErr := __src.spdErr, ecc := __src.ecc, codec := __src.codec, fail1 := __src.fail1, fail2 := __src.fail2,
              rawBlocks := __src.rawBlocks, lanes := __src.lanes, activity := __src.activity, filler := __src.filler,
              replay := __src.replay, capture := __src.capture : Cluster })).chip.pcid
      0 =
    some 0 ∧
  ((withCl
                  (let __src := runCl;
                  { svc := __src.svc, lcid := __src.lcid, epoch := __src.epoch, bistPass := __src.bistPass, failed := __src.failed,
                    retired := __src.retired, failCount := __src.failCount, aclk := __src.aclk, parked := __src.parked,
                    unparkAt := __src.unparkAt, lastBeat := __src.lastBeat, slots := [(0, { st := SlotState.waiting : Slot })],
                    cur := __src.cur, issueAt := __src.issueAt, acted := __src.acted, yielding := __src.yielding, table := __src.table,
                    loads := __src.loads, sreg := __src.sreg, vreg := __src.vreg, flight := __src.flight, vlds := __src.vlds,
                    entryW := __src.entryW, uses := __src.uses, ports := __src.ports, arr := __src.arr, oag0 := __src.oag0,
                    oag1 := __src.oag1, satFp := __src.satFp, num := __src.num, seedLo := __src.seedLo, seedHi := __src.seedHi,
                    seed := __src.seed, mixed := __src.mixed, draws := __src.draws, dbuf := __src.dbuf, role := __src.role,
                    bankPwr := __src.bankPwr, bankReady := __src.bankReady, opDst := __src.opDst, opSrc := __src.opSrc,
                    opLen := __src.opLen, opPat := __src.opPat, op := __src.op, opBusy := __src.opBusy, staged := __src.staged,
                    spd := __src.spd, written := __src.written, subst := __src.subst, spdErr := __src.spdErr, ecc := __src.ecc,
                    codec := __src.codec, fail1 := __src.fail1, fail2 := __src.fail2, rawBlocks := __src.rawBlocks, lanes := __src.lanes,
                    activity := __src.activity, filler := __src.filler, replay := __src.replay, capture := __src.capture :
                    Cluster })).chip.cl
            0).justTaken
        0 =
      none ∧
    let st :=
      (((withCl
                    (let __src := runCl;
                    { svc := __src.svc, lcid := __src.lcid, epoch := __src.epoch, bistPass := __src.bistPass, failed := __src.failed,
                      retired := __src.retired, failCount := __src.failCount, aclk := __src.aclk, parked := __src.parked,
                      unparkAt := __src.unparkAt, lastBeat := __src.lastBeat, slots := [(0, { st := SlotState.waiting : Slot })],
                      cur := __src.cur, issueAt := __src.issueAt, acted := __src.acted, yielding := __src.yielding, table := __src.table,
                      loads := __src.loads, sreg := __src.sreg, vreg := __src.vreg, flight := __src.flight, vlds := __src.vlds,
                      entryW := __src.entryW, uses := __src.uses, ports := __src.ports, arr := __src.arr, oag0 := __src.oag0,
                      oag1 := __src.oag1, satFp := __src.satFp, num := __src.num, seedLo := __src.seedLo, seedHi := __src.seedHi,
                      seed := __src.seed, mixed := __src.mixed, draws := __src.draws, dbuf := __src.dbuf, role := __src.role,
                      bankPwr := __src.bankPwr, bankReady := __src.bankReady, opDst := __src.opDst, opSrc := __src.opSrc,
                      opLen := __src.opLen, opPat := __src.opPat, op := __src.op, opBusy := __src.opBusy, staged := __src.staged,
                      spd := __src.spd, written := __src.written, subst := __src.subst, spdErr := __src.spdErr, ecc := __src.ecc,
                      codec := __src.codec, fail1 := __src.fail1, fail2 := __src.fail2, rawBlocks := __src.rawBlocks, lanes := __src.lanes,
                      activity := __src.activity, filler := __src.filler, replay := __src.replay, capture := __src.capture :
                      Cluster })).chip.cl
              0).slot
          0).st;
    st = SlotState.waiting ∨ st = SlotState.yielded := by dsimp only; and_intros <;> decide

theorem witness_cancelledSlot_2 :
  ready.chip.pcid 0 = some 0 ∧
  (ready.chip.cl 0).justTaken 0 = none ∧
    let st := ((ready.chip.cl 0).slot 0).st;
    st = SlotState.running := by dsimp only; and_intros <;> decide

theorem witness_cancelledSlot_3 :
  ready.chip.pcid 0 = some 0 ∧
  (ready.chip.cl 0).justTaken 2 = none ∧
    let st := ((ready.chip.cl 0).slot 2).st;
    st ≠ SlotState.waiting ∧ st ≠ SlotState.yielded ∧ st ≠ SlotState.running := by dsimp only; and_intros <;> decide

theorem witness_reqAdmitRow :
  Claims.Taken reqAdmitRow_s1 1286 reqAdmitRow_q2 ∧
  let b := reqAdmitRow_q2.payload;
  let h := beAt b 0 1;
  let n := beAt b 4 2;
  let ids := reqIds b 8 n;
  let m := reqAdmitRow_s1.chip.mdl h;
  let ep := m.ep m.cur;
  h < 16 ∧
    (reqAdmitRow_s1.chip.pt reqAdmitRow_q2.part).ownsHandle h = true ∧
      Claims.Zero reqAdmitRow_q2 1 3 ∧
        Claims.Zero reqAdmitRow_q2 6 2 ∧
          0 < n ∧
            n ≤ 1024 ∧
              b.length = 8 + 4 * n ∧
                m.valid = true ∧
                  ids.eraseDups.length = ids.length ∧
                    (∀ (i : Nat), i ∈ ids → (reqAdmitRow_s1.chip.pt reqAdmitRow_q2.part).request? i = none) ∧
                      ep.st = EpochState.current ∧
                        ep.releasing = false ∧ (reqAdmitRow_s1.chip.pt reqAdmitRow_q2.part).requests.length + n ≤ 16384 := by dsimp only; and_intros <;> decide

theorem witness_reqEndRow :
  Claims.Taken reqEndRow_s1 1287 reqEndRow_q2 ∧
  let b := reqEndRow_q2.payload;
  let n := beAt b 0 2;
  let ids := reqIds b 4 n;
  Claims.Zero reqEndRow_q2 2 2 ∧
    0 < n ∧
      n ≤ 1024 ∧
        b.length = 4 + 4 * n ∧
          ids.eraseDups.length = ids.length ∧
            (∀ (i : Nat), i ∈ ids → ∃ r, (reqEndRow_s1.chip.pt reqEndRow_q2.part).request? i = some r ∧ r.ending = false) ∧
              Claims.WorksFit reqEndRow_s1 reqEndRow_q2 := by dsimp only; and_intros <;> decide

theorem witness_streamArmRow_1 :
  Claims.Taken ready 1284 (armReq 4096) ∧
  Claims.Clear (armChecks (armReq 4096) ready.chip) ∧
    let r := leAt (armReq 4096).payload 0 1;
    let st := leAt (armReq 4096).payload 1 1;
    let d :=
      have __src := descOf (List.drop 4 (armReq 4096).payload);
      { dva := __src.dva, length := __src.length, run := __src.run, n1 := __src.n1, n2 := __src.n2, n3 := __src.n3, s1 := __src.s1,
        s2 := __src.s2, s3 := __src.s3, spdBase := __src.spdBase, spdHalf := __src.spdHalf, rate := __src.rate, notify := __src.notify,
        tslot := __src.tslot, codec := __src.codec, dir := __src.dir, lcid := __src.lcid, deadline := __src.deadline,
        fallback := __src.fallback, dva2 := __src.dva2, ctx := (armReq 4096).ctx, session := (armReq 4096).session,
        seqNo := (armReq 4096).seq, armed := ready.clk.timebase : Desc };
    d.length ≠ 0 ∧ (ready.chip.str r st).active = none := by dsimp only; and_intros <;> decide

theorem witness_streamArmRow_2 :
  Claims.Taken streamArmRow_s1 1284 (armReq 4096) ∧
  Claims.Clear (armChecks (armReq 4096) streamArmRow_s1.chip) ∧
    let r := leAt (armReq 4096).payload 0 1;
    let st := leAt (armReq 4096).payload 1 1;
    let d :=
      have __src := descOf (List.drop 4 (armReq 4096).payload);
      { dva := __src.dva, length := __src.length, run := __src.run, n1 := __src.n1, n2 := __src.n2, n3 := __src.n3, s1 := __src.s1,
        s2 := __src.s2, s3 := __src.s3, spdBase := __src.spdBase, spdHalf := __src.spdHalf, rate := __src.rate, notify := __src.notify,
        tslot := __src.tslot, codec := __src.codec, dir := __src.dir, lcid := __src.lcid, deadline := __src.deadline,
        fallback := __src.fallback, dva2 := __src.dva2, ctx := (armReq 4096).ctx, session := (armReq 4096).session,
        seqNo := (armReq 4096).seq, armed := streamArmRow_s1.clk.timebase : Desc };
    d.length ≠ 0 ∧ (streamArmRow_s1.chip.str r st).active ≠ none := by dsimp only; and_intros <;> decide

theorem witness_streamArmRow_3 :
  Claims.Taken ready 1284 (armReq 0) ∧
  Claims.Clear (armChecks (armReq 0) ready.chip) ∧
    let d :=
      have __src := descOf (List.drop 4 (armReq 0).payload);
      { dva := __src.dva, length := __src.length, run := __src.run, n1 := __src.n1, n2 := __src.n2, n3 := __src.n3, s1 := __src.s1,
        s2 := __src.s2, s3 := __src.s3, spdBase := __src.spdBase, spdHalf := __src.spdHalf, rate := __src.rate, notify := __src.notify,
        tslot := __src.tslot, codec := __src.codec, dir := __src.dir, lcid := __src.lcid, deadline := __src.deadline,
        fallback := __src.fallback, dva2 := __src.dva2, ctx := (armReq 0).ctx, session := (armReq 0).session, seqNo := (armReq 0).seq,
        armed := ready.clk.timebase : Desc };
    d.length = 0 := by dsimp only; and_intros <;> decide

theorem witness_streamWithdrawRow_1 :
  Claims.Taken streamArmRow_s1 1285 streamWithdrawRow_q1 ∧
  let r := leAt streamWithdrawRow_q1.payload 0 1;
  let st := leAt streamWithdrawRow_q1.payload 1 1;
  r < 16 ∧ (streamArmRow_s1.chip.pt streamWithdrawRow_q1.part).ownsStream r st = true ∧ Claims.Zero streamWithdrawRow_q1 2 2 := by dsimp only; and_intros <;> decide

theorem witness_streamWithdrawRow_2 :
  Claims.Taken ready 1285 streamWithdrawRow_q1 ∧
  let r := leAt streamWithdrawRow_q1.payload 0 1;
  let st := leAt streamWithdrawRow_q1.payload 1 1;
  r < 16 ∧
    (ready.chip.pt streamWithdrawRow_q1.part).ownsStream r st = true ∧
      Claims.Zero streamWithdrawRow_q1 2 2 ∧ (ready.chip.str r st).st ≠ StreamState.active := by dsimp only; and_intros <;> decide

theorem witness_wheelPositionRow_1 :
  let x := ready.chip.wheelAt 0 5;
x.owner = none := by dsimp only; and_intros <;> decide

theorem witness_wheelPositionRow_2 :
  let x := wheelPositionRow_s1.chip.wheelAt 0 5;
x.owner = some 0 ∧
  let ch := wheelPositionRow_s1.chip.makeReqs wheelPositionRow_s1.clk 0;
  bestOffer (ch.offers wheelPositionRow_s1.clk 0 0 x.write) =
    some { dry := none, region := 0, armed := 0, stream := 0, walk := false : Offer } := by dsimp only; and_intros <;> decide

theorem witness_wheelPositionRow_3 :
  let x := wheelPositionRow_s2.chip.wheelAt 0 5;
x.owner = some 0 ∧
  let ch := wheelPositionRow_s2.chip.makeReqs wheelPositionRow_s2.clk 0;
  bestOffer (ch.offers wheelPositionRow_s2.clk 0 0 x.write) = none ∧ (ch.pt 0).lends 0 x.write = false := by dsimp only; and_intros <;> decide

theorem witness_wheelPositionRow_4 :
  let x := wheelPositionRow_s3.chip.wheelAt 0 5;
x.owner = some 0 ∧
  let ch := wheelPositionRow_s3.chip.makeReqs wheelPositionRow_s3.clk 0;
  bestOffer (ch.offers wheelPositionRow_s3.clk 0 0 x.write) = none ∧ (ch.pt 0).lends 0 x.write = true := by dsimp only; and_intros <;> decide

theorem witness_bestOfferFirst :
  bestOffer [{ dry := none, region := 0, armed := 0, stream := 0, walk := false : Offer }] =
    some { dry := none, region := 0, armed := 0, stream := 0, walk := false : Offer } ∧
  { dry := none, region := 0, armed := 0, stream := 0, walk := false : Offer } ∈
    [{ dry := none, region := 0, armed := 0, stream := 0, walk := false : Offer }] := by decide

theorem witness_streamRequestRow_1 :
  (ready.chip.str 0 0).landable = none := by decide

theorem witness_streamRequestRow_2 :
  (streamRequestRow_s1.chip.str 0 0).landable = some (sreq true true) ∧
  streamRequestRow_s1.chip.roomFor 0 0 (sreq true true) = true ∧
    (sreq true true).window = none ∧
      (sreq true true).phys = some 0 ∧
        let ch := streamRequestRow_s1.chip.dropReq 0 0 (sreq true true);
        (sreq true true).write = true ∧ (sreq true true).drop = true ∧ ch.lostWrite 0 (sreq true true).len = false := by dsimp only; and_intros <;> decide

theorem witness_streamRequestRow_3 :
  (streamRequestRow_s2.chip.str 0 0).landable = some (sreq true false) ∧
  streamRequestRow_s2.chip.roomFor 0 0 (sreq true false) = true ∧
    (sreq true false).window = none ∧
      (sreq true false).phys = some 0 ∧
        let ch := streamRequestRow_s2.chip.dropReq 0 0 (sreq true false);
        (sreq true false).write = true ∧
          (sreq true false).drop = false ∧
            ch.lostWrite 0 (sreq true false).len = false ∧
              ((ch.writePhys streamRequestRow_s2.clk 0 (sreq true false).data).str 0 0).st = StreamState.active := by dsimp only; and_intros <;> decide

theorem witness_streamRequestRow_4 :
  (streamRequestRow_s3.chip.str 0 0).landable = some (sreq false true) ∧
  streamRequestRow_s3.chip.roomFor 0 0 (sreq false true) = true ∧
    (sreq false true).window = none ∧ (sreq false true).phys = some 0 ∧ (sreq false true).write = false ∧ (sreq false true).drop = true := by decide

theorem witness_streamRequestRow_5 :
  (streamRequestRow_s4.chip.str 0 0).landable = some (sreq false false) ∧
  streamRequestRow_s4.chip.roomFor 0 0 (sreq false false) = true ∧
    (sreq false false).window = none ∧ (sreq false false).phys = some 0 ∧ (sreq false false).write = false ∧ (sreq false false).drop = false := by decide

theorem witness_streamRequestRow_6 :
  (fullSt.chip.str 0 0).landable = some (sreq false false) ∧ fullSt.chip.roomFor 0 0 (sreq false false) = false := by decide +kernel

theorem witness_streamIdleRow_1 :
  let x := streamIdleRow_s1.chip.str 0 0;
(x.st = StreamState.faulted ∨ x.st = StreamState.stopping) ∧ x.reqs = [] := by dsimp only; and_intros <;> decide

theorem witness_streamIdleRow_2 :
  let x := streamArmRow_s1.chip.str 0 0;
x.st = StreamState.idle ∨ x.st = StreamState.active ∨ x.reqs ≠ [] := by dsimp only; and_intros <;> decide

theorem witness_walkRow :
  let done := fun w => decide (w.stream = 0) && w.reads.isEmpty;
List.find? done (ready.chip.rg 0).walks = none := by dsimp only; and_intros <;> decide

theorem witness_halfDeadlineRow_1 :
  let y := (ready.chip.str 0 0).half false;
y.desc = none := by dsimp only; and_intros <;> decide

theorem witness_halfDeadlineRow_2 :
  let y := (streamArmRow_s1.chip.str 0 0).half false;
y.desc = some desc1 ∧ (y.eng = false ∨ y.expired = true ∨ desc1.deadline = 0 ∨ streamArmRow_s1.clk.timebase < y.handover + desc1.deadline) := by dsimp only; and_intros <;> decide

theorem witness_halfDeadlineRow_3 :
  let y := ((halfDue descDue).chip.str 0 0).half false;
y.desc = some descDue ∧
  y.eng = true ∧
    y.expired = false ∧
      descDue.deadline ≠ 0 ∧ y.handover + descDue.deadline ≤ (halfDue descDue).clk.timebase ∧ (descDue.dir ≠ 0 ∨ descDue.fallback = 0) := by dsimp only; and_intros <;> decide

theorem witness_halfDeadlineRow_4 :
  let y := ((halfDue descFall).chip.str 0 0).half false;
y.desc = some descFall ∧
  y.eng = true ∧
    y.expired = false ∧
      descFall.deadline ≠ 0 ∧ y.handover + descFall.deadline ≤ (halfDue descFall).clk.timebase ∧ descFall.dir = 0 ∧ descFall.fallback ≠ 0 := by dsimp only; and_intros <;> decide

theorem witness_blockEmissionRow :
  ((ready.chip.cl 0).lane 0).bufs = [] := by decide

theorem witness_outboundRow :
  let g := ready.chip.rg 0;
g.encQueue = [] ∨ g.encData.length < 4096 := by dsimp only; and_intros <;> decide

theorem witness_kvNewRow :
  Claims.Taken kvNoSeq 1537 (req kvBytes) ∧
  let x := kvDescriptor (req kvBytes).payload;
  Claims.Clear
      (newSeqChecks (req kvBytes) kvNoSeq.chip x
        (decide (leAt (req kvBytes).payload 6 2 ≠ 0) || decide (slice (req kvBytes).payload 54 10 ≠ zeros 10)) 0) ∧
    kvNoSeq.chip.freeSeq (req kvBytes).part = some 0 := by dsimp only; and_intros <;> decide

theorem witness_kvChangeRow_1 :
  Claims.OwnSeq (kvSt [] { : Engine }) streamWithdrawRow_q1 ∧
  Claims.WorksFit (kvSt [] { : Engine }) streamWithdrawRow_q1 ∧
    Claims.Taken (kvSt [] { : Engine }) 1538 streamWithdrawRow_q1 ∧ Claims.Zero streamWithdrawRow_q1 2 2 := by decide

theorem witness_kvChangeRow_2 :
  Claims.OwnSeq (kvSt [] { : Engine }) kvChangeRow_q1 ∧
  Claims.WorksFit (kvSt [] { : Engine }) kvChangeRow_q1 ∧
    Claims.Taken (kvSt [] { : Engine }) 1539 kvChangeRow_q1 ∧ Claims.Zero kvChangeRow_q1 2 2 := by decide

theorem witness_kvChangeRow_3 :
  Claims.OwnSeq (kvSt [] { : Engine }) kvChangeRow_q2 ∧
  Claims.WorksFit (kvSt [] { : Engine }) kvChangeRow_q2 ∧
    let b := kvChangeRow_q2.payload;
    let i := beAt b 0 2;
    let x := (kvSt [] { : Engine }).chip.sq i;
    Claims.Taken (kvSt [] { : Engine }) 1541 kvChangeRow_q2 ∧
      let n := beAt b 2 1;
      let w := beAt b 3 1;
      let budget := beAt b 4 4;
      let decay := BitVec.ofNat 32 (beAt b 12 4);
      budget % 16 = 0 ∧
        16 ≤ budget ∧
          budget ≤ x.budget0 ∧ budget / 16 + w ≤ x.ns ∧ 0 < w ∧ n + w < budget / 16 ∧ decayBad decay = false ∧ beAt b 8 4 ≤ 262144 := by dsimp only; and_intros <;> decide

theorem witness_kvQueryRow :
  Claims.Taken (kvSt [] { : Engine }) 1542 streamWithdrawRow_q1 ∧
  Claims.OwnSeq (kvSt [] { : Engine }) streamWithdrawRow_q1 ∧
    let b := streamWithdrawRow_q1.payload;
    let x := (kvSt [] { : Engine }).chip.sq (beAt b 0 2);
    beAt b 2 1 < x.layers ∧ beAt b 3 1 < x.heads := by dsimp only; and_intros <;> decide

theorem witness_kvCarryRow_1 :
  (kvSt
            [let __src := wk (WorkKind.kvDestroy 0);
              { id := 0, part := __src.part, ctx := __src.ctx, session := __src.session, seqNo := __src.seqNo, opcode := __src.opcode,
                kind := __src.kind : Work },
              wk (WorkKind.kvDestroy 0)]
            { : Engine }).chip.work?
      1 =
    some (wk (WorkKind.kvDestroy 0)) ∧
  (wk (WorkKind.kvDestroy 0)).kind.kvSeqs ≠ [] ∧
    ((kvSt
                [let __src := wk (WorkKind.kvDestroy 0);
                  { id := 0, part := __src.part, ctx := __src.ctx, session := __src.session, seqNo := __src.seqNo, opcode := __src.opcode,
                    kind := __src.kind : Work },
                  wk (WorkKind.kvDestroy 0)]
                { : Engine }).chip.kvEarlier
          (wk (WorkKind.kvDestroy 0)) =
        true ∨
      (kvSt
                  [let __src := wk (WorkKind.kvDestroy 0);
                    { id := 0, part := __src.part, ctx := __src.ctx, session := __src.session, seqNo := __src.seqNo, opcode := __src.opcode,
                      kind := __src.kind : Work },
                    wk (WorkKind.kvDestroy 0)]
                  { : Engine }).chip.kvServes
            (wk (WorkKind.kvDestroy 0)) =
          false ∨
        (wk (WorkKind.kvDestroy 0)).kind.kvSeqs.any
            (kvSt
                  [let __src := wk (WorkKind.kvDestroy 0);
                    { id := 0, part := __src.part, ctx := __src.ctx, session := __src.session, seqNo := __src.seqNo, opcode := __src.opcode,
                      kind := __src.kind : Work },
                    wk (WorkKind.kvDestroy 0)]
                  { : Engine }).chip.taskInFlight =
          true) := by dsimp only; and_intros <;> decide

theorem witness_kvCarryRow_2 :
  (kvSt [wk (WorkKind.kvDestroy 0)] { : Engine }).chip.work? 1 = some (wk (WorkKind.kvDestroy 0)) ∧
  (wk (WorkKind.kvDestroy 0)).kind.kvSeqs ≠ [] ∧
    (kvSt [wk (WorkKind.kvDestroy 0)] { : Engine }).chip.kvEarlier (wk (WorkKind.kvDestroy 0)) = false ∧
      (kvSt [wk (WorkKind.kvDestroy 0)] { : Engine }).chip.kvServes (wk (WorkKind.kvDestroy 0)) = true ∧
        (wk (WorkKind.kvDestroy 0)).kind.kvSeqs.any (kvSt [wk (WorkKind.kvDestroy 0)] { : Engine }).chip.taskInFlight = false ∧
          ((wk (WorkKind.kvDestroy 0)).kind.kvSeqs.any fun i => !((kvSt [wk (WorkKind.kvDestroy 0)] { : Engine }).chip.sq i).valid) = false := by decide

theorem witness_taskReadyRow_1 :
  let g := (ready.chip.rg 0).eng;
g.part = none ∨ g.parked = true ∨ g.work ≠ none ∨ g.count ≤ g.index ∨ g.st ≠ EngState.running ∧ g.st ≠ EngState.holding := by dsimp only; and_intros <;> decide

theorem witness_taskReadyRow_2 :
  let g := ((taskEng { st := EngState.running : Engine } 1 0 0 [wk (WorkKind.kvDestroy 0)]).chip.rg 0).eng;
g.part = some 0 ∧
  (g.st = EngState.running ∨ g.st = EngState.holding) ∧
    g.parked = false ∧
      g.work = none ∧
        g.index < g.count ∧
          (taskEng { st := EngState.running : Engine } 1 0 0 [wk (WorkKind.kvDestroy 0)]).chip.rangeServes 0 (g.dva + 64 * g.index) 64 =
              true ∧
            (taskEng { st := EngState.running : Engine } 1 0 0 [wk (WorkKind.kvDestroy 0)]).chip.attnDva 0 (g.dva + 64 * g.index) 64 =
                Except.ok task1 ∧
              let t := attnTask task1;
              let ch := (taskEng { st := EngState.running : Engine } 1 0 0 [wk (WorkKind.kvDestroy 0)]).chip;
              ch.rangeServes 0 (ch.sq t.seq).kvBase (ch.sq t.seq).size = true ∧ ch.kvPending t.seq = true := by dsimp only; and_intros <;> first | decide +kernel | exact except_ok (by decide +kernel)

theorem witness_taskReadyRow_3 :
  let g := ((taskEng { st := EngState.holding : Engine } 0 0 0 []).chip.rg 0).eng;
g.part = some 0 ∧
  (g.st = EngState.running ∨ g.st = EngState.holding) ∧
    g.parked = false ∧
      g.work = none ∧
        g.index < g.count ∧
          (taskEng { st := EngState.holding : Engine } 0 0 0 []).chip.rangeServes 0 (g.dva + 64 * g.index) 64 = true ∧
            (taskEng { st := EngState.holding : Engine } 0 0 0 []).chip.attnDva 0 (g.dva + 64 * g.index) 64 =
                Except.ok (zeros 6 ++ [1] ++ zeros 57) ∧
              let t := attnTask (zeros 6 ++ [1] ++ zeros 57);
              let ch := (taskEng { st := EngState.holding : Engine } 0 0 0 []).chip;
              ch.rangeServes 0 (ch.sq t.seq).kvBase (ch.sq t.seq).size = true ∧ ch.kvPending t.seq = false ∧ ch.taskCheck 0 0 t = some 5 := by dsimp only; and_intros <;> first | decide +kernel | exact except_ok (by decide +kernel)

theorem witness_taskReadyRow_4 :
  let g := ((taskEng { st := EngState.running : Engine } 1 0 0 []).chip.rg 0).eng;
g.part = some 0 ∧
  (g.st = EngState.running ∨ g.st = EngState.holding) ∧
    g.parked = false ∧
      g.work = none ∧
        g.index < g.count ∧
          (taskEng { st := EngState.running : Engine } 1 0 0 []).chip.rangeServes 0 (g.dva + 64 * g.index) 64 = true ∧
            (taskEng { st := EngState.running : Engine } 1 0 0 []).chip.attnDva 0 (g.dva + 64 * g.index) 64 = Except.ok task1 ∧
              let t := attnTask task1;
              let ch := (taskEng { st := EngState.running : Engine } 1 0 0 []).chip;
              ch.rangeServes 0 (ch.sq t.seq).kvBase (ch.sq t.seq).size = true ∧
                ch.kvPending t.seq = false ∧ ch.taskCheck 0 0 t = none ∧ (g.waitDone = true ∨ t.wn = 0) := by dsimp only; and_intros <;> first | decide +kernel | exact except_ok (by decide +kernel)

theorem witness_taskReadyRow_5 :
  let g := ((taskEng { st := EngState.running : Engine } 1 2 2 []).chip.rg 0).eng;
g.part = some 0 ∧
  (g.st = EngState.running ∨ g.st = EngState.holding) ∧
    g.parked = false ∧
      g.work = none ∧
        g.index < g.count ∧
          (taskEng { st := EngState.running : Engine } 1 2 2 []).chip.rangeServes 0 (g.dva + 64 * g.index) 64 = true ∧
            (taskEng { st := EngState.running : Engine } 1 2 2 []).chip.attnDva 0 (g.dva + 64 * g.index) 64 = Except.ok (taskWait 2) ∧
              let t := attnTask (taskWait 2);
              let ch := (taskEng { st := EngState.running : Engine } 1 2 2 []).chip;
              ch.rangeServes 0 (ch.sq t.seq).kvBase (ch.sq t.seq).size = true ∧
                ch.kvPending t.seq = false ∧
                  ch.taskCheck 0 0 t = none ∧
                    let ch :=
                      ch.modEng 0 fun y =>
                        { st := EngState.running, part := y.part, run := y.run, ctx := y.ctx, dva := y.dva, count := y.count,
                          index := y.index, waitDone := y.waitDone, work := y.work, faultValid := y.faultValid, faultCause := y.faultCause,
                          faultCtx := y.faultCtx, faultSeq := y.faultSeq, races := y.races, evict := y.evict, parked := y.parked,
                          activity := y.activity : Engine };
                    g.waitDone = false ∧ t.wn ≠ 0 ∧ t.wn ≤ look 0 (ch.rg 0).sems t.wsem := by dsimp only; and_intros <;> first | decide +kernel | exact except_ok (by decide +kernel)

theorem witness_taskReadyRow_6 :
  let g := ((taskEng { st := EngState.running : Engine } 1 2 1 []).chip.rg 0).eng;
g.part = some 0 ∧
  (g.st = EngState.running ∨ g.st = EngState.holding) ∧
    g.parked = false ∧
      g.work = none ∧
        g.index < g.count ∧
          (taskEng { st := EngState.running : Engine } 1 2 1 []).chip.rangeServes 0 (g.dva + 64 * g.index) 64 = true ∧
            (taskEng { st := EngState.running : Engine } 1 2 1 []).chip.attnDva 0 (g.dva + 64 * g.index) 64 = Except.ok (taskWait 2) ∧
              let t := attnTask (taskWait 2);
              let ch := (taskEng { st := EngState.running : Engine } 1 2 1 []).chip;
              ch.rangeServes 0 (ch.sq t.seq).kvBase (ch.sq t.seq).size = true ∧
                ch.kvPending t.seq = false ∧
                  ch.taskCheck 0 0 t = none ∧
                    let ch :=
                      ch.modEng 0 fun y =>
                        { st := EngState.running, part := y.part, run := y.run, ctx := y.ctx, dva := y.dva, count := y.count,
                          index := y.index, waitDone := y.waitDone, work := y.work, faultValid := y.faultValid, faultCause := y.faultCause,
                          faultCtx := y.faultCtx, faultSeq := y.faultSeq, races := y.races, evict := y.evict, parked := y.parked,
                          activity := y.activity : Engine };
                    g.waitDone = false ∧ t.wn ≠ 0 ∧ look 0 (ch.rg 0).sems t.wsem < t.wn := by dsimp only; and_intros <;> first | decide +kernel | exact except_ok (by decide +kernel)

theorem witness_taskCompleteRow_1 :
  let g := (ready.chip.rg 0).eng;
g.work = none := by dsimp only; and_intros <;> decide

theorem witness_taskCompleteRow_2 :
  let g := ((taskEng { st := EngState.running, work := some (attnDone [engReq1]) : Engine } 1 0 0 []).chip.rg 0).eng;
g.work = some (attnDone [engReq1]) ∧ g.part = some 0 ∧ (attnDone [engReq1]).reqs ≠ [] := by dsimp only; and_intros <;> decide

theorem witness_taskCompleteRow_3 :
  let g := ((taskEng { st := EngState.running, work := some (attnDone []) : Engine } 1 0 0 []).chip.rg 0).eng;
g.work = some (attnDone []) ∧
  g.part = some 0 ∧
    g.st = EngState.running ∧
      g.parked = false ∧
        (attnDone []).reqs = [] ∧
          let t := (attnDone []).task;
          (taskEng { st := EngState.running, work := some (attnDone []) : Engine } 1 0 0 []).chip.attnDest 0 t
                (List.map (fun o => o.snd.length) (attnDone []).outs).sum =
              none ∧
            ((attnDone []).lists.any fun l =>
                  ((taskEng { st := EngState.running, work := some (attnDone []) : Engine } 1 0 0 []).chip.rangeFault 0
                      (((taskEng { st := EngState.running, work := some (attnDone []) : Engine } 1 0 0 []).chip.sq t.seq).tableDva l.fst
                        (optBool
                          !(((taskEng { st := EngState.running, work := some (attnDone []) : Engine } 1 0 0 []).chip.sq t.seq).list
                                l.fst).active))
                      ((taskEng { st := EngState.running, work := some (attnDone []) : Engine } 1 0 0 []).chip.sq t.seq).tsz true).isSome) =
                false ∧
              ((attnDone []).lists.any fun l =>
                  ((taskEng { st := EngState.running, work := some (attnDone []) : Engine } 1 0 0 []).chip.firstLost 0
                      (((taskEng { st := EngState.running, work := some (attnDone []) : Engine } 1 0 0 []).chip.sq t.seq).tableDva l.fst
                        (optBool
                          !(((taskEng { st := EngState.running, work := some (attnDone []) : Engine } 1 0 0 []).chip.sq t.seq).list
                                l.fst).active))
                      (32 + 16 * l.snd.blocks.length) true).isSome) =
                false := by dsimp only; and_intros <;> decide

theorem witness_walkRow_found_1 :
  let done := fun w => decide (w.stream = 0) && w.reads.isEmpty;
List.find? done (lostWalk.chip.rg 0).walks = some walk1 ∧ walk1.addrs.any lostWalk.chip.lostAt = true := by dsimp only; and_intros <;> decide

theorem witness_walkRow_found_2 :
  let done := fun w => decide (w.stream = 0) && w.reads.isEmpty;
List.find? done (walkRow_found_s1.chip.rg 0).walks = some walk1 ∧
  let e := (walkRow_found_s1.chip.pt walk1.part).pte walk1.page;
  walk1.addrs.any walkRow_found_s1.chip.lostAt = false ∧ e.v = true := by dsimp only; and_intros <;> decide

theorem witness_walkRow_found_3 :
  let done := fun w => decide (w.stream = 0) && w.reads.isEmpty;
List.find? done (walkRow_found_s2.chip.rg 0).walks = some walk1 ∧
  let e := (walkRow_found_s2.chip.pt walk1.part).pte walk1.page;
  walk1.addrs.any walkRow_found_s2.chip.lostAt = false ∧ e.v = false := by dsimp only; and_intros <;> decide

theorem witness_blockEmissionRow_due_1 :
  (((withLane 0).chip.cl 0).lane 0).bufs = [lane1] ∧
  lane1.complete = some 0 ∧
    (((withLane 0).chip.str lane1.region lane1.stream).half lane1.half).desc = some desc1 ∧
      let e0 := max (0 + 2) ((((withLane 0).chip.cl 0).lane 0).lastEmit + 1);
      let n := if hdrWidth lane1.bytes = 0 then 128 else 64;
      ((withLane 0).chip.cl 0).aclk ≤ e0 + n ∨ ((withLane 0).chip.cl 0).stageRoom 4096 = false := by dsimp only; and_intros <;> decide

theorem witness_blockEmissionRow_due_2 :
  ((blockEmissionRow_due_s1.chip.cl 0).lane 0).bufs = [lane1] ∧
  lane1.complete = some 0 ∧
    ((blockEmissionRow_due_s1.chip.str lane1.region lane1.stream).half lane1.half).desc = some desc1 ∧
      let e0 := max (0 + 2) (((blockEmissionRow_due_s1.chip.cl 0).lane 0).lastEmit + 1);
      let n := if hdrWidth lane1.bytes = 0 then 128 else 64;
      e0 + n < (blockEmissionRow_due_s1.chip.cl 0).aclk ∧ (blockEmissionRow_due_s1.chip.cl 0).stageRoom 4096 = true := by dsimp only; and_intros <;> decide

theorem witness_outboundRow_queued_1 :
  let g := (withEnc { : CodecSlot }).chip.rg 0;
g.encQueue = [(0, false, 0)] ∧
  4096 ≤ g.encData.length ∧
    let ch :=
      (withEnc { : CodecSlot }).chip.modRg 0 fun g =>
        { sems := g.sems, semFlight := g.semFlight, sigFlight := g.sigFlight, streams := g.streams, eng := g.eng, mirror := g.mirror,
          tlb := g.tlb, l1cache := g.l1cache, walks := g.walks, reserve := g.reserve, busy := g.busy, inUse := g.inUse, block := g.block :
          Region };
    ((ch.str 0 0).half false).desc = some descRun ∧
      Desc.pcid ch descRun = some 0 ∧
        let t := look { : CodecSlot } (ch.cl 0).codec descRun.tslot;
        let stored := storeBlock t.image descRun.tslot g.encData;
        t.valid = false ∨ descRun.run < stored.length := by dsimp only; and_intros <;> decide +kernel

theorem witness_outboundRow_queued_2 :
  let g := outboundRow_queued_s1.chip.rg 0;
g.encQueue = [(0, false, 0)] ∧
  4096 ≤ g.encData.length ∧
    let ch :=
      outboundRow_queued_s1.chip.modRg 0 fun g =>
        { sems := g.sems, semFlight := g.semFlight, sigFlight := g.sigFlight, streams := g.streams, eng := g.eng, mirror := g.mirror,
          tlb := g.tlb, l1cache := g.l1cache, walks := g.walks, reserve := g.reserve, busy := g.busy, inUse := g.inUse, block := g.block :
          Region };
    ((ch.str 0 0).half false).desc = some descRun ∧
      Desc.pcid ch descRun = some 0 ∧
        let t := look { : CodecSlot } (ch.cl 0).codec descRun.tslot;
        let stored := storeBlock t.image descRun.tslot g.encData;
        t.valid = true ∧ stored.length ≤ descRun.run := by dsimp only; and_intros <;> decide +kernel

theorem witness_kvNewRow_copy :
  Claims.Taken (kvSt [] { : Engine }) 1540 kvNewRow_copy_q1 ∧
  let src := beAt kvNewRow_copy_q1.payload 0 2;
  let x :=
    have __src := (kvSt [] { : Engine }).chip.sq src;
    { valid := __src.valid, part := __src.part, ctx := __src.ctx, kvBase := beAt kvNewRow_copy_q1.payload 8 8,
      kvLen := beAt kvNewRow_copy_q1.payload 16 8, layers := __src.layers, heads := __src.heads, g := __src.g, dim := __src.dim,
      fmt := __src.fmt, pe := __src.pe, pair := __src.pair, sink := __src.sink, budget := __src.budget, budget0 := __src.budget0,
      anchors := __src.anchors, recent := __src.recent, recent0 := __src.recent0, ropeDims := __src.ropeDims, window := __src.window,
      smScale := __src.smScale, kScale := __src.kScale, vScale := __src.vScale, decay := __src.decay, ropeBase := __src.ropeBase,
      engines := __src.engines, lists := __src.lists : KvSeq };
  ((kvSt [] { : Engine }).chip.sq src).valid = true ∧
    ((kvSt [] { : Engine }).chip.sq src).part = kvNewRow_copy_q1.part ∧
      Claims.Clear (newSeqChecks kvNewRow_copy_q1 (kvSt [] { : Engine }).chip x (decide (slice kvNewRow_copy_q1.payload 2 6 ≠ zeros 6)) 8) ∧
        (kvSt [] { : Engine }).chip.freeSeq kvNewRow_copy_q1.part = some 1 := by dsimp only; and_intros <;> decide

theorem witness_slotLoaded :
  1 ≠ (slotReq (zeros 16)).slot := by decide

theorem witness_slotBegins_1 :
  runSlot.len ≠ 0 := by decide

theorem witness_slotBegins_2 :
  { : Slot }.len = 0 := by decide

def liftRow_s1 : State := withLed { st := .lifting, sectors := List.range 16 }
def liftRow_s2 : State := withLed { st := .lifting }
def dropRow_s1 : State := withLed { st := .dropping }
def dropRow_s2 : State := withLed { st := .dropping, inflight := 1 }
def rewriteRow_s1 : State := withFlash mgmt { rewrites := [(3, 0)] } []
def zeroedRow_s1 : State := withFrame (.zeroing 1 false)
def refreshRow_s1 : State := withSk {} false 0
def refreshRow_s2 : State := withSk { failed := true } false 0
def refreshRow_s3 : State := withSk {} true 0
def makeupRow_s1 : State := withSk { owed := [(0, 3)] } false 0
def makeupRow_s2 : State := withSk { owed := [(0, 5)] } true 86
def makeupRow_s3 : State := withSk { owed := [(0, 4)] } true 86
def maintenanceRow_s1 : State := withSk { windows := [(0, 1)] } false 0
def hbmPointRow_s1 : State := withSk { sets := 8 } false 0
def hbmPointRow_q2 : Req := req [0, 3, 0, 0]
def pointDoneRow_s1 : State := withSk { changing := some 1 } true 0
def pointDoneRow_s2 : State := withSk { changing := some 1 } false 0
def pwrCapRow_q1 : Req := req [1, 0xE0, 0, 0]
def pwrCapRow_q2 : Req := req [0, 44, 0, 0]
def pwrCapRow_q3 : Req := req [1, 0xE1, 0, 0]
def oppSwitchRow_s1 : State := withDie { target := some 3, switchDone := false }
def oppEndRow_s1 : State := withDie { target := some 3 }
def telSetRow_q1 : Req := req (toBe 60000 4 ++ toBe 63 4)
def evtAckRow_q1 : Req := req (toBe 1 2 ++ zeros 2 ++ toBe 1 4)
def resendRow_s1 : State := withPt { mgmt with ring := [ring1] }
def ckptRows_s1 : State := withFlash ckptPt {} []
def ckptRows_q2 : Req := req (toBe 9 4 ++ zeros 4 ++ toBe 65536 8 ++ toBe 65536 8)
def ckptRows_s3 : State := withFlash ckptPt { ckpts := [ckpt1] } []
def ckptDoneRow_s1 : State := withFlash ckptPt { erases := 3000 } [wk (.ckptWrite 9 65536 0)]
def ckptDoneRow_s2 : State := withFlash ckptPt {} [wk (.ckptWrite 9 65536 0)]
def ckptDoneRow_s3 : State := withFlash ckptPt { ckpts := [ckpt1] } [wk (.ckptRead 9 65536 0)]
def dumpReadRow_q1 : Req := req ([1] ++ zeros 7 ++ toBe 1344 4)
def dumpReadRow_s2 : State := withPt { ckptPt with dumpLo := 1, dumpLen := 1 }
def dumpReadRow_q3 : Req := req (zeros 8 ++ toBe 64 4)
def flashUpdateRow_q1 : Req := req (toBe 2 2 ++ zeros 6 ++ toBe 2 4 ++ zeros 4 ++ [5])
def flashUpdateRow_q2 : Req := req (toBe 2 2 ++ zeros 6 ++ toBe 1 4 ++ zeros 4 ++ [5])
def flashDoneRow_s1 : State := withWork (.flashImage 2)

theorem witness_liftRow_1 :
  let e := liftRow_s1.chip.led 0;
e.st = LState.lifting ∧ e.sectors.length = 16 := by dsimp only; and_intros <;> decide

theorem witness_liftRow_2 :
  let e := liftRow_s2.chip.led 0;
e.st ≠ LState.lifting ∨ e.sectors.length ≠ 16 := by dsimp only; and_intros <;> decide

theorem witness_dropRow_1 :
  let e := dropRow_s1.chip.led 0;
e.st = LState.dropping ∧ e.inflight = 0 := by dsimp only; and_intros <;> decide

theorem witness_dropRow_2 :
  let e := dropRow_s2.chip.led 0;
e.st ≠ LState.dropping ∨ e.inflight ≠ 0 := by dsimp only; and_intros <;> decide

theorem witness_sectorReadRow_1 :
  16 ≤ 0 ∨ 3 < otherSlot ∧ ready.chip.slotPage 3 = none := by decide

theorem witness_sectorReadRow_2 :
  0 < 16 ∧
  3 < otherSlot ∧
    liftSec.chip.slotPage 3 = some 0 ∧
      liftSec.chip.sectorReqs 3 0 = [] ∧
        liftSec.chip.flash.readable 3 0 = true ∧ liftSec.chip.sectorLift 3 0 = some (0, lift3) ∧ 0 ≤ liftSec.chip.flash.threshold := by decide

theorem witness_sectorReadRow_3 :
  0 < 16 ∧
  3 < otherSlot ∧
    flashSec.chip.slotPage 3 = some 0 ∧
      flashSec.chip.sectorReqs 3 0 = [(0, 0, secReq)] ∧
        flashSec.chip.roomFor (0, 0, secReq).fst (0, 0, secReq).snd.fst (0, 0, secReq).snd.snd = true ∧
          flashSec.chip.flash.readable 3 0 = true ∧ flashSec.chip.sectorLift 3 0 = none ∧ 1 ≤ 1 ∧ 1 ≤ 7 := by decide

theorem witness_sectorReadRow_4 :
  0 < 16 ∧
  3 < otherSlot ∧
    liftSec.chip.slotPage 3 = some 0 ∧
      liftSec.chip.sectorReqs 3 0 = [] ∧ (FlashOutcome.uncorrectable = FlashOutcome.uncorrectable ∨ liftSec.chip.flash.readable 3 0 = false) := by decide

theorem witness_sectorCounts_1 :
  let f := readyChip.flash;
f.threshold < 1 ∧ ¬(3, 0) ∈ f.rewrites := by dsimp only; and_intros <;> decide

theorem witness_sectorCounts_2 :
  let f := readyChip.flash;
0 ≤ f.threshold := by dsimp only; and_intros <;> decide

theorem witness_rewriteRow_1 :
  let f := rewriteRow_s1.chip.flash;
(3, 0) ∈ f.rewrites := by dsimp only; and_intros <;> decide

theorem witness_rewriteRow_2 :
  let f := ready.chip.flash;
¬(3, 0) ∈ f.rewrites := by dsimp only; and_intros <;> decide

theorem witness_zeroedRow_1 :
  (zeroedRow_s1.chip.fr 7).use = FrameUse.zeroing 1 false ∧
  zeroedRow_s1.chip.mayZero zeroedRow_s1.clk (stackOfFrame 7) 1 false = true ∧ (zeroedRow_s1.chip.fr 7).marked = false := by decide

theorem witness_zeroedRow_2 :
  (frameMarked.chip.fr 7).use = FrameUse.zeroing 1 false ∧
  frameMarked.chip.mayZero frameMarked.clk (stackOfFrame 7) 1 false = true ∧ (frameMarked.chip.fr 7).marked = true := by decide

theorem witness_zeroedRow_3 :
  (frameShut.chip.fr 7).use = FrameUse.zeroing 1 false ∧ frameShut.chip.mayZero frameShut.clk (stackOfFrame 7) 1 false = false := by decide

theorem witness_refreshRow_1 :
  lastDue (refreshRow_s1.chip.refInterval 0) 1 refreshRow_s1.clk.timebase = none := by decide

theorem witness_refreshRow_2 :
  let x := refreshRow_s2.chip.sk 0;
let key := groupKey 0 0;
lastDue (refreshRow_s2.chip.refInterval 0) 0 refreshRow_s2.clk.timebase = some 0 ∧
  (refreshRow_s2.chip.refreshes 0 = false ∨ 32 ≤ 0 ∨ 12 ≤ 0 ∨ 0 < look 0 x.refAt key) := by dsimp only; and_intros <;> decide

theorem witness_refreshRow_3 :
  let x := refreshRow_s3.chip.sk 0;
let key := groupKey 0 0;
lastDue (refreshRow_s3.chip.refInterval 0) 0 refreshRow_s3.clk.timebase = some 0 ∧
  refreshRow_s3.chip.refreshes 0 = true ∧
    0 < 32 ∧
      0 < 12 ∧
        look 0 x.refAt key ≤ 0 ∧
          let ch :=
            refreshRow_s3.chip.modSk 0 fun y =>
              { postEn := y.postEn, point := y.point, failed := y.failed, riskNs := y.riskNs, interval := y.interval, makeups := y.makeups,
                owedPeak := y.owedPeak, owed := y.owed, dlySel := y.dlySel, delays := y.delays, sets := y.sets, setPoint := y.setPoint,
                refAt := put 0 y.refAt key (0 + 1), shadow := y.shadow, changing := y.changing, ceCount := y.ceCount, lastPch := y.lastPch,
                lastLane := y.lastLane, laneWarn := y.laneWarn, laneErrs := y.laneErrs, ue := y.ue, passes := y.passes, patrol := y.patrol,
                patrolFrom := y.patrolFrom, selfRefresh := y.selfRefresh, calAt := y.calAt, rows := y.rows, windows := y.windows : Stack };
          let may :=
            (ch.sk 0).postEn && !ch.stackShared 0 && ch.atRisk refreshRow_s3.clk 0 0 0 &&
              decide (look 0 (ch.sk 0).owed key < ch.owedLimit 0);
          may = true := by dsimp only; and_intros <;> decide

theorem witness_refreshRow_4 :
  let x := refreshRow_s1.chip.sk 0;
let key := groupKey 0 0;
lastDue (refreshRow_s1.chip.refInterval 0) 0 refreshRow_s1.clk.timebase = some 0 ∧
  refreshRow_s1.chip.refreshes 0 = true ∧
    0 < 32 ∧
      0 < 12 ∧
        look 0 x.refAt key ≤ 0 ∧
          let ch :=
            refreshRow_s1.chip.modSk 0 fun y =>
              { postEn := y.postEn, point := y.point, failed := y.failed, riskNs := y.riskNs, interval := y.interval, makeups := y.makeups,
                owedPeak := y.owedPeak, owed := y.owed, dlySel := y.dlySel, delays := y.delays, sets := y.sets, setPoint := y.setPoint,
                refAt := put 0 y.refAt key (0 + 1), shadow := y.shadow, changing := y.changing, ceCount := y.ceCount, lastPch := y.lastPch,
                lastLane := y.lastLane, laneWarn := y.laneWarn, laneErrs := y.laneErrs, ue := y.ue, passes := y.passes, patrol := y.patrol,
                patrolFrom := y.patrolFrom, selfRefresh := y.selfRefresh, calAt := y.calAt, rows := y.rows, windows := y.windows : Stack };
          let may :=
            (ch.sk 0).postEn && !ch.stackShared 0 && ch.atRisk refreshRow_s1.clk 0 0 0 &&
              decide (look 0 (ch.sk 0).owed key < ch.owedLimit 0);
          may = false := by dsimp only; and_intros <;> decide

theorem witness_makeupRow_1 :
  let n := look 0 (refreshRow_s1.chip.sk 0).owed (groupKey 0 0);
n = 0 ∨ refreshRow_s1.chip.refreshes 0 = false := by dsimp only; and_intros <;> decide

theorem witness_makeupRow_2 :
  let n := look 0 (makeupRow_s1.chip.sk 0).owed (groupKey 0 0);
n ≠ 0 ∧ makeupRow_s1.chip.refreshes 0 = true ∧ makeupRow_s1.chip.atRisk makeupRow_s1.clk 0 0 0 = false := by dsimp only; and_intros <;> decide

theorem witness_makeupRow_3 :
  let n := look 0 (makeupRow_s2.chip.sk 0).owed (groupKey 0 0);
n ≠ 0 ∧
  makeupRow_s2.chip.refreshes 0 = true ∧
    makeupRow_s2.chip.atRisk makeupRow_s2.clk 0 0 0 = true ∧ makeupRow_s2.chip.stackHot 0 = true ∧ 4 < n := by dsimp only; and_intros <;> decide

theorem witness_makeupRow_4 :
  let n := look 0 (makeupRow_s3.chip.sk 0).owed (groupKey 0 0);
n ≠ 0 ∧ makeupRow_s3.chip.atRisk makeupRow_s3.clk 0 0 0 = true ∧ (makeupRow_s3.chip.stackHot 0 = false ∨ n ≤ 4) := by dsimp only; and_intros <;> decide

theorem witness_maintenanceRow_1 :
  (maintenanceRow_s1.chip.sk 0).newWindow maintenanceRow_s1.clk 0 = none ∨ maintenanceRow_s1.chip.refreshes 0 = false ∨ 32 ≤ 0 := by decide

theorem witness_maintenanceRow_2 :
  (refreshRow_s1.chip.sk 0).newWindow refreshRow_s1.clk 1 = some 0 ∧
  refreshRow_s1.chip.refreshes 0 = true ∧
    1 < 32 ∧
      let ch :=
        refreshRow_s1.chip.modSk 0 fun y =>
          { postEn := y.postEn, point := y.point, failed := y.failed, riskNs := y.riskNs, interval := y.interval, makeups := y.makeups,
            owedPeak := y.owedPeak, owed := y.owed, dlySel := y.dlySel, delays := y.delays, sets := y.sets, setPoint := y.setPoint,
            refAt := y.refAt, shadow := y.shadow, changing := y.changing, ceCount := y.ceCount, lastPch := y.lastPch,
            lastLane := y.lastLane, laneWarn := y.laneWarn, laneErrs := y.laneErrs, ue := y.ue, passes := y.passes, patrol := y.patrol,
            patrolFrom := y.patrolFrom, selfRefresh := y.selfRefresh, calAt := y.calAt, rows := y.rows,
            windows := put 0 y.windows 1 (0 + 1) : Stack };
      let x := ch.sk 0;
      x.patrol % 32 ≠ 1 ∨ refreshRow_s1.clk.localNs < x.patrolDue := by dsimp only; and_intros <;> decide

theorem witness_maintenanceRow_3 :
  ((laterNs (withSk { : Stack } false 0) 90000000000000).chip.sk 0).newWindow (laterNs (withSk { : Stack } false 0) 90000000000000).clk 0 =
    some 90000000000000 ∧
  (laterNs (withSk { : Stack } false 0) 90000000000000).chip.refreshes 0 = true ∧
    0 < 32 ∧
      let ch :=
        (laterNs (withSk { : Stack } false 0) 90000000000000).chip.modSk 0 fun y =>
          { postEn := y.postEn, point := y.point, failed := y.failed, riskNs := y.riskNs, interval := y.interval, makeups := y.makeups,
            owedPeak := y.owedPeak, owed := y.owed, dlySel := y.dlySel, delays := y.delays, sets := y.sets, setPoint := y.setPoint,
            refAt := y.refAt, shadow := y.shadow, changing := y.changing, ceCount := y.ceCount, lastPch := y.lastPch,
            lastLane := y.lastLane, laneWarn := y.laneWarn, laneErrs := y.laneErrs, ue := y.ue, passes := y.passes, patrol := y.patrol,
            patrolFrom := y.patrolFrom, selfRefresh := y.selfRefresh, calAt := y.calAt, rows := y.rows,
            windows := put 0 y.windows 0 (90000000000000 + 1) : Stack };
      let x := ch.sk 0;
      x.patrol % 32 = 0 ∧ x.patrolDue ≤ (laterNs (withSk { : Stack } false 0) 90000000000000).clk.localNs := by dsimp only; and_intros <;> decide

theorem witness_calibrationRow_1 :
  let inside :=
  (List.range 32).any
    (((laterNs (withSk { windows := [(5, 100000001)] : Stack } false 0) 100000000).chip.sk 0).inWindow
      (laterNs (withSk { windows := [(5, 100000001)] : Stack } false 0) 100000000).clk);
(laterNs (withSk { windows := [(5, 100000001)] : Stack } false 0) 100000000).chip.refreshes 0 = true ∧
  inside = true ∧
    ((laterNs (withSk { windows := [(5, 100000001)] : Stack } false 0) 100000000).chip.sk 0).calAt + 100000000 ≤
      (laterNs (withSk { windows := [(5, 100000001)] : Stack } false 0) 100000000).clk.localNs := by dsimp only; and_intros <;> decide

theorem witness_calibrationRow_2 :
  let inside :=
  (List.range 32).any
    (((laterNs (withSk { : Stack } false 0) 99999999).chip.sk 0).inWindow (laterNs (withSk { : Stack } false 0) 99999999).clk);
(laterNs (withSk { : Stack } false 0) 99999999).chip.refreshes 0 = false ∨
  inside = false ∨
    (laterNs (withSk { : Stack } false 0) 99999999).clk.localNs <
      ((laterNs (withSk { : Stack } false 0) 99999999).chip.sk 0).calAt + 100000000 := by dsimp only; and_intros <;> decide

theorem witness_hbmPointRow :
  Claims.Taken hbmPointRow_s1 1795 hbmPointRow_q2 ∧
  let st := beAt hbmPointRow_q2.payload 0 1;
  let point := beAt hbmPointRow_q2.payload 1 1;
  let x := (hbmPointRow_s1.chip.sk st).loadShadow point;
  st < 4 ∧
    point < 4 ∧
      Claims.Zero hbmPointRow_q2 2 2 ∧
        x.shadow = some point ∧ x.failed = false ∧ x.selfRefresh = false ∧ x.changing = none ∧ Claims.WorksFit hbmPointRow_s1 hbmPointRow_q2 := by dsimp only; and_intros <;> decide

theorem witness_pointDoneRow_1 :
  (ready.chip.sk 0).changing = none := by decide

theorem witness_pointDoneRow_2 :
  (pointDoneRow_s1.chip.sk 0).changing = some 1 ∧ pointDoneRow_s1.chip.inFlightOn 0 = true := by decide

theorem witness_pointDoneRow_3 :
  (pointDoneRow_s2.chip.sk 0).changing = some 1 ∧ pointDoneRow_s2.chip.inFlightOn 0 = false := by decide

theorem witness_pwrCapRow_1 :
  Claims.Taken ready 1793 pwrCapRow_q1 ∧
  let w := beAt pwrCapRow_q1.payload 0 2;
  45 ≤ w ∧ w ≤ 480 ∧ Claims.Zero pwrCapRow_q1 2 2 := by dsimp only; and_intros <;> decide

theorem witness_pwrCapRow_2 :
  Claims.Taken ready 1793 pwrCapRow_q2 ∧
  let w := beAt pwrCapRow_q2.payload 0 2;
  w < 45 ∧ Claims.Zero pwrCapRow_q2 2 2 := by dsimp only; and_intros <;> decide

theorem witness_pwrCapRow_3 :
  Claims.Taken ready 1793 pwrCapRow_q3 ∧
  let w := beAt pwrCapRow_q3.payload 0 2;
  480 < w := by dsimp only; and_intros <;> decide

theorem witness_pwrQueryRow :
  Claims.Taken ready 1794 (req []) := by decide

theorem witness_powerSampleRow_1 :
  ready.mod.st = PowerState.on := by decide

theorem witness_powerSampleRow_2 :
  State.reset.mod.st ≠ PowerState.on := by decide

theorem witness_loopBoundaryRow_1 :
  ready.chip.ready = true ∧ ready.clk.timebase / 1000000 ≤ ready.chip.power.lastBoundary := by decide

theorem witness_loopBoundaryRow_2 :
  (laterNs ready 1000000).chip.ready = true ∧
  (laterNs ready 1000000).chip.power.lastBoundary < (laterNs ready 1000000).clk.timebase / 1000000 ∧
    let len := max 1 ((laterNs ready 1000000).clk.localNs - (laterNs ready 1000000).chip.power.lastBoundaryLocal);
    let ch := (laterNs ready 1000000).chip.settleAll;
    let preg := pregOf ch.power.capNext ch.fixedReserve;
    let passed := decide ((laterNs ready 1000000).chip.power.cap * 10 < 0);
    let ch :=
      { clusters := ch.clusters, dies := ch.dies, regions := ch.regions, parts := ch.parts, hbms := ch.hbms, hbm := ch.hbm,
        hbmErr := ch.hbmErr, frames := ch.frames, ledger := ch.ledger, flash := ch.flash, models := ch.models, seqs := ch.seqs,
        wheels := ch.wheels, wheelOrder := ch.wheelOrder, lcidMap := ch.lcidMap, runs := ch.runs, nextRun := ch.nextRun, works := ch.works,
        nextWork := ch.nextWork, host := ch.host, sec := ch.sec, boot := ch.boot, fabric := ch.fabric,
        power :=
          have __src := ch.power;
          { cap := ch.power.capNext, capNext := __src.capNext, capDefault := __src.capDefault, preg := preg,
            overCap := ch.power.overCap || passed, flashHold := __src.flashHold,
            overCount := if passed = true then satTo 65535 (ch.power.overCount + 1) else ch.power.overCount, meanVin := satTo 65535 0,
            lastBoundary := (laterNs ready 1000000).clk.timebase / 1000000, lastBoundaryLocal := (laterNs ready 1000000).clk.localNs,
            temps := __src.temps : PowerCtl },
        rcv := ch.rcv, wire := ch.wire, free := ch.free : Chip };
    let ch := List.foldl (fun c d => c.modDie d Die.thermal) ch (List.range 4);
    let ch := List.foldl (fun c p => if (c.pt p).valid = true then c.modPt p fun x => x.boundary preg len else c) ch (List.range 8);
    ch.parkChoice = none ∧ ch.unparkChoice = none := by dsimp only; and_intros <;> decide

theorem witness_ladderRule_1 :
  22 ≤ 22 ∧ 74 < 600 ∧ nextStep 600 74 22 = some 15 ∧ 15 < 16 ∧ 16 ≤ 22 := by decide

theorem witness_ladderRule_2 :
  22 ≤ 22 ∧ 0 < 600 ∧ nextStep 600 0 22 = none ∧ 3 ≤ 22 := by decide

theorem witness_ladderRule_3 :
  22 ≤ 22 ∧ 74 ≤ 74 := by decide

theorem witness_oppSwitchRow_1 :
  let x := ready.chip.die 0;
x.target = none ∨ x.switchDone = true ∨ ready.clk.localNs < x.switchAt := by dsimp only; and_intros <;> decide

theorem witness_oppSwitchRow_2 :
  let x := oppSwitchRow_s1.chip.die 0;
x.target = some 3 ∧ x.switchDone = false ∧ x.switchAt ≤ oppSwitchRow_s1.clk.localNs := by dsimp only; and_intros <;> decide

theorem witness_oppEndRow_1 :
  let x := oppEndRow_s1.chip.die 0;
x.target ≠ none ∧ x.switchDone = true ∧ x.endAt ≤ oppEndRow_s1.clk.localNs := by dsimp only; and_intros <;> decide

theorem witness_oppEndRow_2 :
  let x := ready.chip.die 0;
x.target = none ∨ x.switchDone = false ∨ ready.clk.localNs < x.endAt := by dsimp only; and_intros <;> decide

theorem witness_telSetRow :
  Claims.Taken ready 2049 telSetRow_q1 ∧
  let n := beAt telSetRow_q1.payload 0 4;
  let m := beAt telSetRow_q1.payload 4 4;
  n ≤ 60000 ∧ m < 64 ∧ (telSetRow_q1.part = 0 ∨ bitAt m 2 = false ∧ bitAt m 5 = false) := by dsimp only; and_intros <;> decide

theorem witness_telemetryRow_1 :
  let x :=
  (laterNs
          (withPt
            (let __src := mgmt;
            { valid := __src.valid, conf := __src.conf, tearing := __src.tearing, tearStep := __src.tearStep, prio := __src.prio,
              power := __src.power, lcids := __src.lcids, engines := __src.engines, ctxBase := __src.ctxBase, ctxCount := __src.ctxCount,
              seqBase := __src.seqBase, seqCount := __src.seqCount, hndBase := __src.hndBase, hndCount := __src.hndCount,
              quota := __src.quota, ways := __src.ways, wayBase := __src.wayBase, strBase := __src.strBase, strCount := __src.strCount,
              semBase := __src.semBase, semCount := __src.semCount, awnRd := __src.awnRd, awnWr := __src.awnWr, awnRm := __src.awnRm,
              borrow := __src.borrow, tenant := __src.tenant, measure := __src.measure, contexts := __src.contexts,
              barriers := __src.barriers, root := __src.root, tables := __src.tables, pages := __src.pages, mmuValid := __src.mmuValid,
              mmuCause := __src.mmuCause, mmuCtx := __src.mmuCtx, mmuRegion := __src.mmuRegion, mmuStream := __src.mmuStream,
              mmuDva := __src.mmuDva, skipped := __src.skipped, modelKeys := __src.modelKeys, jobKeys := __src.jobKeys,
              ckptKey := __src.ckptKey, staging := __src.staging, requests := __src.requests, ring := __src.ring, evtNext := __src.evtNext,
              evtLost := __src.evtLost, evtLostNew := __src.evtLostNew, telPeriod := 1, telMask := __src.telMask, telLast := __src.telLast,
              wdog := __src.wdog, dumpLo := __src.dumpLo, dumpHi := __src.dumpHi, dumpLen := __src.dumpLen, dumpPos := __src.dumpPos,
              dumping := __src.dumping, recSeq := __src.recSeq, hangs := __src.hangs, recovering := __src.recovering,
              faults := __src.faults, fidTotal := __src.fidTotal, wdogExpiries := __src.wdogExpiries, step := __src.step,
              parked := __src.parked, floor := __src.floor, hold := __src.hold, heldLast := __src.heldLast, allow := __src.allow,
              est := __src.est, parkEst := __src.parkEst, energy := __src.energy, fill := __src.fill : Partition }))
          1000000).chip.pt
    0;
x.valid = true ∧
  x.telPeriod ≠ 0 ∧
    x.telLast + x.telPeriod * 1000000 ≤
      (laterNs
            (withPt
              (let __src := mgmt;
              { valid := __src.valid, conf := __src.conf, tearing := __src.tearing, tearStep := __src.tearStep, prio := __src.prio,
                power := __src.power, lcids := __src.lcids, engines := __src.engines, ctxBase := __src.ctxBase, ctxCount := __src.ctxCount,
                seqBase := __src.seqBase, seqCount := __src.seqCount, hndBase := __src.hndBase, hndCount := __src.hndCount,
                quota := __src.quota, ways := __src.ways, wayBase := __src.wayBase, strBase := __src.strBase, strCount := __src.strCount,
                semBase := __src.semBase, semCount := __src.semCount, awnRd := __src.awnRd, awnWr := __src.awnWr, awnRm := __src.awnRm,
                borrow := __src.borrow, tenant := __src.tenant, measure := __src.measure, contexts := __src.contexts,
                barriers := __src.barriers, root := __src.root, tables := __src.tables, pages := __src.pages, mmuValid := __src.mmuValid,
                mmuCause := __src.mmuCause, mmuCtx := __src.mmuCtx, mmuRegion := __src.mmuRegion, mmuStream := __src.mmuStream,
                mmuDva := __src.mmuDva, skipped := __src.skipped, modelKeys := __src.modelKeys, jobKeys := __src.jobKeys,
                ckptKey := __src.ckptKey, staging := __src.staging, requests := __src.requests, ring := __src.ring,
                evtNext := __src.evtNext, evtLost := __src.evtLost, evtLostNew := __src.evtLostNew, telPeriod := 1,
                telMask := __src.telMask, telLast := __src.telLast, wdog := __src.wdog, dumpLo := __src.dumpLo, dumpHi := __src.dumpHi,
                dumpLen := __src.dumpLen, dumpPos := __src.dumpPos, dumping := __src.dumping, recSeq := __src.recSeq, hangs := __src.hangs,
                recovering := __src.recovering, faults := __src.faults, fidTotal := __src.fidTotal, wdogExpiries := __src.wdogExpiries,
                step := __src.step, parked := __src.parked, floor := __src.floor, hold := __src.hold, heldLast := __src.heldLast,
                allow := __src.allow, est := __src.est, parkEst := __src.parkEst, energy := __src.energy, fill := __src.fill : Partition }))
            1000000).clk.localNs := by dsimp only; and_intros <;> decide

theorem witness_telemetryRow_2 :
  let x := ready.chip.pt 0;
x.valid = false ∨ x.telPeriod = 0 ∨ ready.clk.localNs < x.telLast + x.telPeriod * 1000000 := by dsimp only; and_intros <;> decide

theorem witness_evtAckRow :
  Claims.Taken ready 2050 evtAckRow_q1 ∧
  let n := beAt evtAckRow_q1.payload 0 2;
  Claims.Zero evtAckRow_q1 2 2 ∧ n ≤ 256 ∧ evtAckRow_q1.payload.length = 4 + 4 * n := by dsimp only; and_intros <;> decide

theorem witness_resendRow_1 :
  List.find? (fun e => decide (e.id = 1)) (ready.chip.pt 0).ring = none := by decide

theorem witness_resendRow_2 :
  List.find? (fun e => decide (e.id = 1)) (resendRow_s1.chip.pt 0).ring = some ring1 ∧
  (ring1.due = [] ∨ 17 ≤ ring1.sends ∨ ring1.sends = 0 ∨ resendRow_s1.clk.localNs < ring1.last + 1000000) := by decide

theorem witness_resendRow_3 :
  List.find? (fun e => decide (e.id = 1))
      ((laterNs
                (withPt
                  (let __src := mgmt;
                  { valid := __src.valid, conf := __src.conf, tearing := __src.tearing, tearStep := __src.tearStep, prio := __src.prio,
                    power := __src.power, lcids := __src.lcids, engines := __src.engines, ctxBase := __src.ctxBase,
                    ctxCount := __src.ctxCount, seqBase := __src.seqBase, seqCount := __src.seqCount, hndBase := __src.hndBase,
                    hndCount := __src.hndCount, quota := __src.quota, ways := __src.ways, wayBase := __src.wayBase,
                    strBase := __src.strBase, strCount := __src.strCount, semBase := __src.semBase, semCount := __src.semCount,
                    awnRd := __src.awnRd, awnWr := __src.awnWr, awnRm := __src.awnRm, borrow := __src.borrow, tenant := __src.tenant,
                    measure := __src.measure, contexts := __src.contexts, barriers := __src.barriers, root := __src.root,
                    tables := __src.tables, pages := __src.pages, mmuValid := __src.mmuValid, mmuCause := __src.mmuCause,
                    mmuCtx := __src.mmuCtx, mmuRegion := __src.mmuRegion, mmuStream := __src.mmuStream, mmuDva := __src.mmuDva,
                    skipped := __src.skipped, modelKeys := __src.modelKeys, jobKeys := __src.jobKeys, ckptKey := __src.ckptKey,
                    staging := __src.staging, requests := __src.requests, ring := [ring1], evtNext := __src.evtNext,
                    evtLost := __src.evtLost, evtLostNew := __src.evtLostNew, telPeriod := __src.telPeriod, telMask := __src.telMask,
                    telLast := __src.telLast, wdog := __src.wdog, dumpLo := __src.dumpLo, dumpHi := __src.dumpHi, dumpLen := __src.dumpLen,
                    dumpPos := __src.dumpPos, dumping := __src.dumping, recSeq := __src.recSeq, hangs := __src.hangs,
                    recovering := __src.recovering, faults := __src.faults, fidTotal := __src.fidTotal, wdogExpiries := __src.wdogExpiries,
                    step := __src.step, parked := __src.parked, floor := __src.floor, hold := __src.hold, heldLast := __src.heldLast,
                    allow := __src.allow, est := __src.est, parkEst := __src.parkEst, energy := __src.energy, fill := __src.fill :
                    Partition }))
                1000000).chip.pt
          0).ring =
    some ring1 ∧
  ring1.due ≠ [] ∧
    ring1.sends < 17 ∧
      ring1.sends ≠ 0 ∧
        ring1.last + 1000000 ≤
          (laterNs
                (withPt
                  (let __src := mgmt;
                  { valid := __src.valid, conf := __src.conf, tearing := __src.tearing, tearStep := __src.tearStep, prio := __src.prio,
                    power := __src.power, lcids := __src.lcids, engines := __src.engines, ctxBase := __src.ctxBase,
                    ctxCount := __src.ctxCount, seqBase := __src.seqBase, seqCount := __src.seqCount, hndBase := __src.hndBase,
                    hndCount := __src.hndCount, quota := __src.quota, ways := __src.ways, wayBase := __src.wayBase,
                    strBase := __src.strBase, strCount := __src.strCount, semBase := __src.semBase, semCount := __src.semCount,
                    awnRd := __src.awnRd, awnWr := __src.awnWr, awnRm := __src.awnRm, borrow := __src.borrow, tenant := __src.tenant,
                    measure := __src.measure, contexts := __src.contexts, barriers := __src.barriers, root := __src.root,
                    tables := __src.tables, pages := __src.pages, mmuValid := __src.mmuValid, mmuCause := __src.mmuCause,
                    mmuCtx := __src.mmuCtx, mmuRegion := __src.mmuRegion, mmuStream := __src.mmuStream, mmuDva := __src.mmuDva,
                    skipped := __src.skipped, modelKeys := __src.modelKeys, jobKeys := __src.jobKeys, ckptKey := __src.ckptKey,
                    staging := __src.staging, requests := __src.requests, ring := [ring1], evtNext := __src.evtNext,
                    evtLost := __src.evtLost, evtLostNew := __src.evtLostNew, telPeriod := __src.telPeriod, telMask := __src.telMask,
                    telLast := __src.telLast, wdog := __src.wdog, dumpLo := __src.dumpLo, dumpHi := __src.dumpHi, dumpLen := __src.dumpLen,
                    dumpPos := __src.dumpPos, dumping := __src.dumping, recSeq := __src.recSeq, hangs := __src.hangs,
                    recovering := __src.recovering, faults := __src.faults, fidTotal := __src.fidTotal, wdogExpiries := __src.wdogExpiries,
                    step := __src.step, parked := __src.parked, floor := __src.floor, hold := __src.hold, heldLast := __src.heldLast,
                    allow := __src.allow, est := __src.est, parkEst := __src.parkEst, energy := __src.energy, fill := __src.fill :
                    Partition }))
                1000000).clk.localNs := by dsimp only; and_intros <;> decide

theorem witness_timeSyncRow_1 :
  let t := 1000001 % 2 ^ 64;
ready.clk.timebase + 1000000 < t := by dsimp only; and_intros <;> decide

theorem witness_timeSyncRow_2 :
  let t := 1000000 % 2 ^ 64;
t ≤ ready.clk.timebase + 1000000 := by dsimp only; and_intros <;> decide

theorem witness_ckptRows_1 :
  Claims.WorksFit ckptRows_s1 ckptRows_q2 ∧
  let c := ckptReq ckptRows_q2.payload;
  Claims.Zero ckptRows_q2 4 4 ∧
    c.dva % 65536 = 0 ∧
      c.len % 65536 = 0 ∧
        c.len ≤ 2 ^ 40 ∧
          (ckptRows_s1.chip.pt ckptRows_q2.part).ckptKey ≠ none ∧
            Claims.Taken ckptRows_s1 2306 ckptRows_q2 ∧
              c.denied (ckptRows_s1.chip.pt ckptRows_q2.part) false = false ∧
                ckptRows_s1.chip.power.flashHold = false ∧ ckptRows_s1.chip.flash.wear < 100 := by dsimp only; and_intros <;> decide

theorem witness_ckptRows_2 :
  Claims.WorksFit ckptRows_s3 ckptRows_q2 ∧
  let c := ckptReq ckptRows_q2.payload;
  Claims.Zero ckptRows_q2 4 4 ∧
    c.dva % 65536 = 0 ∧
      c.len % 65536 = 0 ∧
        c.len ≤ 2 ^ 40 ∧
          (ckptRows_s3.chip.pt ckptRows_q2.part).ckptKey ≠ none ∧
            Claims.Taken ckptRows_s3 2307 ckptRows_q2 ∧
              c.denied (ckptRows_s3.chip.pt ckptRows_q2.part) true = false ∧ ckptRows_s3.chip.flash.ckpt? ckptRows_q2.part c.id ≠ none := by dsimp only; and_intros <;> decide

theorem witness_ckptDoneRow_1 :
  ckptShut.chip.work? 1 = some (wk (WorkKind.ckptWrite 9 65536 65536)) ∧
  ((wk (WorkKind.ckptWrite 9 65536 65536)).kind = WorkKind.ckptWrite 9 65536 65536 ∨
      (wk (WorkKind.ckptWrite 9 65536 65536)).kind = WorkKind.ckptRead 9 65536 65536) ∧
    (ckptShut.chip.workEarlier (wk (WorkKind.ckptWrite 9 65536 65536)) = true ∨
      ckptShut.chip.rangeServes (wk (WorkKind.ckptWrite 9 65536 65536)).part 65536 65536 = false) := by decide

theorem witness_ckptDoneRow_2 :
  ckptDoneRow_s1.chip.work? 1 = some (wk (WorkKind.ckptWrite 9 65536 0)) ∧
  ckptDoneRow_s1.chip.workEarlier (wk (WorkKind.ckptWrite 9 65536 0)) = false ∧
    (wk (WorkKind.ckptWrite 9 65536 0)).kind = WorkKind.ckptWrite 9 65536 0 ∧
      ckptDoneRow_s1.chip.rangeServes (wk (WorkKind.ckptWrite 9 65536 0)).part 65536 0 = true ∧
        (ckptDoneRow_s1.chip.pt (wk (WorkKind.ckptWrite 9 65536 0)).part).ckptKey = some (zeros 32) ∧ 100 ≤ ckptDoneRow_s1.chip.flash.wear := by decide

theorem witness_ckptDoneRow_3 :
  ckptDoneRow_s2.chip.work? 1 = some (wk (WorkKind.ckptWrite 9 65536 0)) ∧
  ckptDoneRow_s2.chip.workEarlier (wk (WorkKind.ckptWrite 9 65536 0)) = false ∧
    (wk (WorkKind.ckptWrite 9 65536 0)).kind = WorkKind.ckptWrite 9 65536 0 ∧
      ckptDoneRow_s2.chip.rangeServes (wk (WorkKind.ckptWrite 9 65536 0)).part 65536 0 = true ∧
        (ckptDoneRow_s2.chip.pt (wk (WorkKind.ckptWrite 9 65536 0)).part).ckptKey = some (zeros 32) ∧
          ckptDoneRow_s2.chip.flash.wear < 100 ∧
            ckptDoneRow_s2.chip.readServed (wk (WorkKind.ckptWrite 9 65536 0)).part 65536 0 = Except.ok [] ∧
              ckptDoneRow_s2.chip.firstLost (wk (WorkKind.ckptWrite 9 65536 0)).part 65536 0 false = none := by and_intros <;> first | decide +kernel | exact except_ok (by decide +kernel)

theorem witness_ckptDoneRow_4 :
  ckptDoneRow_s3.chip.work? 1 = some (wk (WorkKind.ckptRead 9 65536 0)) ∧
  ckptDoneRow_s3.chip.workEarlier (wk (WorkKind.ckptRead 9 65536 0)) = false ∧
    (wk (WorkKind.ckptRead 9 65536 0)).kind = WorkKind.ckptRead 9 65536 0 ∧
      ckptDoneRow_s3.chip.rangeServes (wk (WorkKind.ckptRead 9 65536 0)).part 65536 0 = true ∧
        ckptDoneRow_s3.chip.flash.ckpt? (wk (WorkKind.ckptRead 9 65536 0)).part 9 = some ckpt1 ∧
          (ckptDoneRow_s3.chip.pt (wk (WorkKind.ckptRead 9 65536 0)).part).ckptKey = some (zeros 32) ∧ ckpt1.good = true ∧ ckpt1.len = 0 := by decide

theorem witness_dumpReadRow_1 :
  Claims.Taken ready 2308 dumpReadRow_q1 ∧
  let b := dumpReadRow_q1.payload;
  let off := beAt b 4 4;
  let n := beAt b 8 4;
  Claims.Zero dumpReadRow_q1 1 3 ∧
    n ≤ ready.chip.maxPayload dumpReadRow_q1.port ∧ beAt b 0 1 = 1 ∧ dumpReadRow_q1.part = 0 ∧ off + n ≤ mgmtAreaSize := by dsimp only; and_intros <;> decide

theorem witness_dumpReadRow_2 :
  Claims.Taken dumpReadRow_s2 2308 dumpReadRow_q3 ∧
  let b := dumpReadRow_q3.payload;
  let off := beAt b 4 4;
  let n := beAt b 8 4;
  let x := dumpReadRow_s2.chip.pt dumpReadRow_q3.part;
  Claims.Zero dumpReadRow_q3 1 3 ∧
    n ≤ dumpReadRow_s2.chip.maxPayload dumpReadRow_q3.port ∧
      beAt b 0 1 = 0 ∧
        off + n ≤ x.dumpLen * 65536 ∧
          x.rangeBad (x.dumpDva + off) n false = false ∧ dumpReadRow_s2.chip.firstLost dumpReadRow_q3.part (x.dumpDva + off) n false = none := by dsimp only; and_intros <;> decide

theorem witness_flashUpdateRow_1 :
  Claims.Taken ready 2309 flashUpdateRow_q1 ∧
  Claims.Clear (updateChecks flashUpdateRow_q1 ready.chip) ∧
    let b := flashUpdateRow_q1.payload;
    let buf := (if beAt b 4 4 = 0 then [] else ready.chip.flash.updBuf) ++ List.drop 16 b;
    let total := beAt b 8 4;
    buf.length ≠ total := by dsimp only; and_intros <;> decide

theorem witness_flashUpdateRow_2 :
  Claims.Taken ready 2309 flashUpdateRow_q2 ∧
  Claims.Clear (updateChecks flashUpdateRow_q2 ready.chip) ∧
    let b := flashUpdateRow_q2.payload;
    let buf := (if beAt b 4 4 = 0 then [] else ready.chip.flash.updBuf) ++ List.drop 16 b;
    let total := beAt b 8 4;
    buf.length = total ∧ Claims.WorksFit ready flashUpdateRow_q2 := by dsimp only; and_intros <;> decide

theorem witness_flashDoneRow :
  flashDoneRow_s1.chip.work? 1 = some (wk (WorkKind.flashImage 2)) ∧ (wk (WorkKind.flashImage 2)).kind = WorkKind.flashImage 2 := by decide

theorem witness_repairWriteRow_1 :
  State.reset.chip.ready = false := by decide

theorem witness_repairWriteRow_2 :
  dirtySt.chip.ready = true ∧ dirtySt.chip.boot.repairDirty = true ∧ dirtySt.chip.boot.retireDirty = false := by decide

theorem witness_otherSectorRow_1 :
  0 < 16 ∧ otherSlot ≤ 67108864 ∧ ready.chip.flash.hasOther (67108864 - otherSlot) = false := by decide

theorem witness_otherSectorRow_2 :
  15 < 16 ∧ otherSlot ≤ 67108864 ∧ ckptRows_s3.chip.flash.hasOther (67108864 - otherSlot) = true := by decide

/-- FRAME_ZEROED of a frame that is in use. -/
theorem witness_zeroedRow_other : (withFrame (.used 1)).chip.fr 7 = { use := .used 1 } := by decide

def bringUpRow_s1 : State := withPort { st := .training }
def bringUpRow_s2 : State := withPort { st := .measuring }
def bringUpRow_s3 : State := withPort { st := .hello }
def cableRow_s1 : State := withPort { st := .up }
def hopReplayRow_s1 : State := withPort { st := .up, replay := [(3, 6, [])] }
def hopReplayRow_s2 : State := withPort { st := .up, replay := [(3, 7, [])] }
def fecRow_s1 : State := withPort { st := .up, ueTimes := List.replicate 14 0 }
def fecRow_s2 : State := withPort { st := .up, ueTimes := List.replicate 15 0 }
def frameSendRow_s1 : State := withPort { st := .up, queue := [txf false, txf true] }
def frameInRow_s1 : State := withPort { st := .up, rxHseq := 1 }
def jobSetupRow_s1 : State := withPt { mgmt with jobKeys := [(5, zeros 32)] }
def jobEndRow_s1 : State := withFab (fab5 0) mgmt []
def jobEndRow_q2 : Req := req (toBe 5 2 ++ zeros 2)
def flowAckRow_s1 : State := withFab (fab5 1024) mgmt []
def flowAckRow_s2 : State := withFab (fab5 1023) mgmt []
def barrierFrameRow_s1 : State := withFab (fab5 0) (jobPt none) []
def jobTimeoutRow_s1 : State := withFab (fab5 0) (jobPt (some 0)) []
def linkEventsComplete_s1 : State := withPort { st := .failed }

theorem witness_pwrRiseRow_1 :
  (pinned { vaux := true, vinVolts := 4800 : ModulePins }).mod.pwrEn = false ∧
  (pinned { vaux := true, vinVolts := 4800 : ModulePins }).mod.vaux = true ∧
    (pinned { vaux := true, vinVolts := 4800 : ModulePins }).mod.st = PowerState.off ∧
      (pinned { vaux := true, vinVolts := 4800 : ModulePins }).mod.offHoldEnd = none ∧
        vinInRange (pinned { vaux := true, vinVolts := 4800 : ModulePins }).mod.vinVolts = true := by decide

theorem witness_pwrRiseRow_2 :
  (pinned { st := PowerState.tripHold : ModulePins }).mod.pwrEn = false ∧
  ((pinned { st := PowerState.tripHold : ModulePins }).mod.st = PowerState.tripHold ∨
    (pinned { st := PowerState.tripHold : ModulePins }).mod.vaux = false) := by decide

theorem witness_pwrRiseRow_3 :
  ready.mod.pwrEn = true := by decide

theorem witness_pwrFallRow_1 :
  ready.mod.pwrEn = true ∧ ready.mod.powered = true := by decide

theorem witness_pwrFallRow_2 :
  (pinned { pwrEn := true, st := PowerState.tripHold : ModulePins }).mod.pwrEn = true ∧
  (pinned { pwrEn := true, st := PowerState.tripHold : ModulePins }).mod.st = PowerState.tripHold := by decide

theorem witness_pwrFallRow_3 :
  State.reset.mod.pwrEn = false := by decide

theorem witness_offHoldRow_1 :
  ready.mod.offHoldEnd = none := by decide

theorem witness_offHoldRow_2 :
  (pinned { offHoldEnd := some 5 : ModulePins }).mod.offHoldEnd = some 5 ∧ (pinned { offHoldEnd := some 5 : ModulePins }).clk.localNs < 5 := by decide

theorem witness_offHoldRow_3 :
  (pinned { offHoldEnd := some 0 : ModulePins }).mod.offHoldEnd = some 0 ∧
  0 ≤ (pinned { offHoldEnd := some 0 : ModulePins }).clk.localNs ∧ (pinned { offHoldEnd := some 0 : ModulePins }).mod.armed = false := by decide

theorem witness_offHoldRow_4 :
  (pinned { vaux := true, pwrEn := true, offHoldEnd := some 0, armed := true, vinVolts := 3600 : ModulePins }).mod.offHoldEnd = some 0 ∧
  0 ≤ (pinned { vaux := true, pwrEn := true, offHoldEnd := some 0, armed := true, vinVolts := 3600 : ModulePins }).clk.localNs ∧
    (pinned { vaux := true, pwrEn := true, offHoldEnd := some 0, armed := true, vinVolts := 3600 : ModulePins }).mod.vaux = true ∧
      (pinned { vaux := true, pwrEn := true, offHoldEnd := some 0, armed := true, vinVolts := 3600 : ModulePins }).mod.pwrEn = true ∧
        (pinned { vaux := true, pwrEn := true, offHoldEnd := some 0, armed := true, vinVolts := 3600 : ModulePins }).mod.armed = true ∧
          (pinned { vaux := true, pwrEn := true, offHoldEnd := some 0, armed := true, vinVolts := 3600 : ModulePins }).mod.st =
              PowerState.off ∧
            vinInRange
                (pinned { vaux := true, pwrEn := true, offHoldEnd := some 0, armed := true, vinVolts := 3600 : ModulePins }).mod.vinVolts =
              true := by decide

theorem witness_vinRangeRow_1 :
  vinInRange 3599 = false := by decide

theorem witness_vinRangeRow_2 :
  vinInRange 6000 = true ∧ ready.mod.armed = false := by decide

theorem witness_vinRangeRow_3 :
  vinInRange 3600 = true ∧
  (pinned { vaux := true, pwrEn := true, armed := true : ModulePins }).mod.vaux = true ∧
    (pinned { vaux := true, pwrEn := true, armed := true : ModulePins }).mod.pwrEn = true ∧
      (pinned { vaux := true, pwrEn := true, armed := true : ModulePins }).mod.armed = true ∧
        (pinned { vaux := true, pwrEn := true, armed := true : ModulePins }).mod.st = PowerState.off ∧
          (pinned { vaux := true, pwrEn := true, armed := true : ModulePins }).mod.offHoldEnd = none := by decide

theorem witness_lockoutRow_1 :
  ready.mod.powered = true ∧ 3299 < 3300 ∧ 100000 < 100001 := by decide

theorem witness_lockoutRow_2 :
  ready.mod.powered = true ∧ 6200 < 6201 ∧ 1000000 < 1000001 := by decide

theorem witness_lockoutRow_3 :
  (3300 ≤ 3300 ∨ 1000000 ≤ 100000) ∧ (3300 ≤ 6200 ∨ 1000000 ≤ 1000000) := by decide

theorem witness_tripRow_1 :
  ready.mod.powered = true ∧ 39 < 40 ∧ 115 ≤ 115 := by decide

theorem witness_tripRow_2 :
  ready.mod.powered = false ∨ 40 ≤ 0 ∨ 114 < 115 := by decide

theorem witness_tripEndRow_1 :
  (pinned { st := PowerState.tripHold, tripHoldEnd := some 1 : ModulePins }).mod.tripHoldEnd = some 1 ∧
  (pinned { st := PowerState.tripHold, tripHoldEnd := some 1 : ModulePins }).clk.localNs < 1 := by decide

theorem witness_tripEndRow_2 :
  (pinned { st := PowerState.tripHold, tripHoldEnd := some 0 : ModulePins }).mod.tripHoldEnd = some 0 ∧
  0 ≤ (pinned { st := PowerState.tripHold, tripHoldEnd := some 0 : ModulePins }).clk.localNs ∧
    (pinned { st := PowerState.tripHold, tripHoldEnd := some 0 : ModulePins }).mod.st = PowerState.tripHold := by decide

theorem witness_resetNRow_1 :
  9999 < 10000 := by decide

theorem witness_resetNRow_2 :
  10000 ≤ 10000 ∧ ready.mod.pwrEn = true ∧ ready.mod.st = PowerState.on := by decide

theorem witness_resetNRow_3 :
  10000 ≤ 10000 ∧ (State.reset.mod.pwrEn = false ∨ State.reset.mod.st ≠ PowerState.on) := by decide

theorem witness_smbusRow_1 :
  ready.mod.vaux = true := by decide

theorem witness_smbusRow_2 :
  ready.mod.vaux = false ∨ true = false ∨ 1 ≠ 0 := by decide

theorem witness_alertRow_1 :
  (pinned { vaux := true, trip := true : ModulePins }).mod.vaux = true ∧ (pinned { vaux := true, trip := true : ModulePins }).mod.alert = true := by decide

theorem witness_alertRow_2 :
  ready.mod.vaux = false ∨ ready.mod.alert = false := by decide

theorem witness_scanRow_1 :
  ready.mod.powered = true ∧ (true = true ∨ ready.chip.sec.dbgOpen = true) := by decide

theorem witness_scanRow_2 :
  ready.mod.powered = false ∨ false = false ∧ ready.chip.sec.dbgOpen = false := by decide

theorem witness_bootRow_1 :
  (pinned { st := PowerState.sequencing : ModulePins }).mod.st = PowerState.sequencing ∧ bootFails.railsOk = false := by decide

theorem witness_bootRow_2 :
  ((pinned { resetN := false, st := PowerState.sequencing : ModulePins }).mod.st = PowerState.sequencing ∧ bootOk.railsOk = true ∨
    (pinned { resetN := false, st := PowerState.sequencing : ModulePins }).mod.st = PowerState.on ∧
      (pinned { resetN := false, st := PowerState.sequencing : ModulePins }).chip.boot.phase = 1) ∧
  (pinned { resetN := false, st := PowerState.sequencing : ModulePins }).mod.resetN = false := by decide

theorem witness_bootRow_3 :
  ((pinned { st := PowerState.sequencing : ModulePins }).mod.st = PowerState.sequencing ∧ bootOk.railsOk = true ∨
    (pinned { st := PowerState.sequencing : ModulePins }).mod.st = PowerState.on ∧
      (pinned { st := PowerState.sequencing : ModulePins }).chip.boot.phase = 1) ∧
  (pinned { st := PowerState.sequencing : ModulePins }).mod.resetN = true := by decide

theorem witness_bootRow_4 :
  ready.mod.st ≠ PowerState.sequencing ∧ (ready.mod.st ≠ PowerState.on ∨ ready.chip.boot.phase ≠ 1) := by decide

theorem witness_recoveryCause_1 :
  (find false []).sec.idOk = false := by decide

theorem witness_recoveryCause_2 :
  (find true []).sec.idOk = true ∧ (find true []).pick 0 = none := by decide

theorem witness_recoveryCause_3 :
  (find true [some true, none]).sec.idOk = true ∧
  (find true [some true, none]).pick 0 ≠ none ∧ (find true [some true, none]).picks.any Option.isNone = true := by decide

theorem witness_recoveryCause_4 :
  (find true [some false]).sec.idOk = true ∧ (find true [some false]).pick 0 ≠ none ∧ (find true [some false]).picks.any Option.isNone = false := by decide

theorem witness_bootReadyRow_1 :
  let may :=
  decide (bootable.mod.st = PowerState.on) && decide (bootable.chip.boot.phase = 5) && bootable.chip.boot.bistDone &&
      bootable.chip.boot.hbmDone &&
    (bootable.chip.host.link0 || bootable.chip.host.link1);
may = true := by dsimp only; and_intros <;> decide

theorem witness_bootReadyRow_2 :
  let may :=
  decide (ready.mod.st = PowerState.on) && decide (ready.chip.boot.phase = 5) && ready.chip.boot.bistDone && ready.chip.boot.hbmDone &&
    (ready.chip.host.link0 || ready.chip.host.link1);
may = false := by dsimp only; and_intros <;> decide

theorem witness_bringUpRow_1 :
  let x := bringUpRow_s1.chip.prt 0;
x.st = PortState.training := by dsimp only; and_intros <;> decide

theorem witness_bringUpRow_2 :
  let x := bringUpRow_s2.chip.prt 0;
x.st = PortState.measuring := by dsimp only; and_intros <;> decide

theorem witness_bringUpRow_3 :
  let x := (laterNs (withPort { st := PortState.hello : Port }) 5000000).chip.prt 0;
x.st = PortState.hello ∧ x.helloAt + 5000000 ≤ (laterNs (withPort { st := PortState.hello : Port }) 5000000).clk.localNs := by dsimp only; and_intros <;> decide

theorem witness_bringUpRow_4 :
  let x := bringUpRow_s3.chip.prt 0;
x.st = PortState.hello ∧ bringUpRow_s3.clk.localNs < x.helloAt + 5000000 := by dsimp only; and_intros <;> decide

theorem witness_bringUpRow_5 :
  let x := ready.chip.prt 0;
x.st ≠ PortState.training ∧ x.st ≠ PortState.measuring ∧ x.st ≠ PortState.hello := by dsimp only; and_intros <;> decide

theorem witness_retryRow_1 :
  let x := (laterNs (withPort { st := PortState.failed, cable := true : Port }) 1000000000).chip.prt 0;
x.st = PortState.failed ∧
  (laterNs (withPort { st := PortState.failed, cable := true : Port }) 1000000000).chip.portEnabled 0 = true ∧
    x.cable = true ∧ x.failedAt + 1000000000 ≤ (laterNs (withPort { st := PortState.failed, cable := true : Port }) 1000000000).clk.localNs := by dsimp only; and_intros <;> decide

theorem witness_retryRow_2 :
  let x := ready.chip.prt 0;
x.st ≠ PortState.failed ∨ ready.chip.portEnabled 0 = false ∨ x.cable = false ∨ ready.clk.localNs < x.failedAt + 1000000000 := by dsimp only; and_intros <;> decide

theorem witness_helloRow_1 :
  (bringUpRow_s3.chip.prt 0).st = PortState.hello := by decide

theorem witness_helloRow_2 :
  (ready.chip.prt 0).st ≠ PortState.hello := by decide

theorem witness_cableRow_1 :
  8 ≤ 8 := by decide

theorem witness_cableRow_2 :
  let x := (withPort { : Port }).chip.prt 0;
0 < 8 ∧
  (withPort { : Port }).chip.portEnabled 0 = true ∧
    (x.st = PortState.disabled ∨ x.st = PortState.failed) ∧
      ((withPort { : Port }).chip.ready = true ∨ (withPort { : Port }).chip.inRecoveryMode = true) := by dsimp only; and_intros <;> decide

theorem witness_cableRow_3 :
  let x := cableRow_s1.chip.prt 0;
0 < 8 ∧ x.st = PortState.up := by dsimp only; and_intros <;> decide

theorem witness_cableRow_4 :
  let x := cableRow_s1.chip.prt 0;
0 < 8 ∧
  (cableRow_s1.chip.portEnabled 0 = false ∨
    x.st ≠ PortState.disabled ∧ x.st ≠ PortState.failed ∨ cableRow_s1.chip.ready = false ∧ cableRow_s1.chip.inRecoveryMode = false) := by dsimp only; and_intros <;> decide

theorem witness_cableRow_5 :
  let x := bringUpRow_s1.chip.prt 0;
0 < 8 ∧ (x.st = PortState.training ∨ x.st = PortState.measuring ∨ x.st = PortState.hello) := by dsimp only; and_intros <;> decide

theorem witness_cableRow_6 :
  let x := (withPort { : Port }).chip.prt 0;
0 < 8 ∧ (x.st = PortState.disabled ∨ x.st = PortState.failed) := by dsimp only; and_intros <;> decide

theorem witness_hopAckRow_1 :
  cableRow_s1.chip.portUp 0 = true := by decide

theorem witness_hopAckRow_2 :
  ready.chip.portUp 0 = false := by decide

theorem witness_hopReplayRow_1 :
  let x := (hopReplayRow_s1.chip.prt 0).heard hopReplayRow_s1.clk;
let again := List.filter (fun f => decide (3 ≤ f.fst)) x.replay;
hopReplayRow_s1.chip.portUp 0 = true ∧ ∀ (f : Nat × Nat × List Byte), f ∈ again → f.snd.fst < 7 := by dsimp only; and_intros <;> decide

theorem witness_hopReplayRow_2 :
  let x := (hopReplayRow_s2.chip.prt 0).heard hopReplayRow_s2.clk;
let again := List.filter (fun f => decide (3 ≤ f.fst)) x.replay;
hopReplayRow_s2.chip.portUp 0 = true ∧ ∃ f, f ∈ again ∧ 7 ≤ f.snd.fst := by dsimp only; and_intros <;> decide

theorem witness_hopReplayRow_3 :
  ready.chip.portUp 0 = false := by decide

theorem witness_fecRow_1 :
  let ts := List.filter (fun t => decide (fecRow_s1.clk.localNs < t + 1000000)) (fecRow_s1.chip.prt 0).ueTimes ++ [fecRow_s1.clk.localNs];
fecRow_s1.chip.portUp 0 = true ∧ ts.length < 16 := by dsimp only; and_intros <;> decide

theorem witness_fecRow_2 :
  let ts := List.filter (fun t => decide (fecRow_s2.clk.localNs < t + 1000000)) (fecRow_s2.chip.prt 0).ueTimes ++ [fecRow_s2.clk.localNs];
fecRow_s2.chip.portUp 0 = true ∧ 16 ≤ ts.length := by dsimp only; and_intros <;> decide

theorem witness_fecRow_3 :
  ready.chip.portUp 0 = false := by decide

theorem witness_linkTimeoutRows_1 :
  let x := (laterNs (withPort { st := PortState.up, queue := [txf false] : Port }) 10000).chip.prt 0;
(laterNs (withPort { st := PortState.up, queue := [txf false] : Port }) 10000).chip.portUp 0 = true ∧
  (∃ f, f ∈ x.queue ∧ f.vc = 0) ∧
    look 0 x.creditAt 0 + 10000 ≤ (laterNs (withPort { st := PortState.up, queue := [txf false] : Port }) 10000).clk.localNs := by dsimp only; and_intros <;> decide

theorem witness_linkTimeoutRows_2 :
  let x := ready.chip.prt 0;
ready.chip.portUp 0 = false ∨ (∀ (f : TxFrame), f ∈ x.queue → f.vc ≠ 0) ∨ ready.clk.localNs < look 0 x.creditAt 0 + 10000 := by dsimp only; and_intros <;> decide

theorem witness_linkTimeoutRows_3 :
  let x := (laterNs (withPort { st := PortState.up : Port }) 10000).chip.prt 0;
(laterNs (withPort { st := PortState.up : Port }) 10000).chip.portUp 0 = true ∧
  (false = true ∨ x.lastCtl + 10000 ≤ (laterNs (withPort { st := PortState.up : Port }) 10000).clk.localNs) := by dsimp only; and_intros <;> decide

theorem witness_linkTimeoutRows_4 :
  let x := cableRow_s1.chip.prt 0;
cableRow_s1.chip.portUp 0 = false ∨ false = false ∧ cableRow_s1.clk.localNs < x.lastCtl + 10000 := by dsimp only; and_intros <;> decide

theorem witness_frameSendRow_1 :
  ready.chip.portUp 0 = false ∨ ready.chip.nextFrame 0 = none := by decide

theorem witness_frameSendRow_2 :
  frameSendRow_s1.chip.portUp 0 = true ∧ frameSendRow_s1.chip.nextFrame 0 = some (txf true, []) := by decide

theorem witness_barrierFirst :
  List.find? (fun x => x.barrier) ((withPort { st := PortState.up, queue := [txf false, txf true] : Port }).chip.prt 0).queue =
  some (txf true) := by decide

theorem witness_frameInRow_1 :
  ready.chip.portUp 0 = false ∨ (zeros 31).length < 32 := by decide

theorem witness_frameInRow_2 :
  let h := frameHdr (frameTo 0 0);
frameInRow_s1.chip.portUp 0 = true ∧ 32 ≤ (frameTo 0 0).length ∧ h.hseq < (frameInRow_s1.chip.prt 0).rxHseq := by dsimp only; and_intros <;> decide

theorem witness_frameInRow_3 :
  let h := frameHdr (frameTo 1 1);
frameInRow_s1.chip.portUp 0 = true ∧
  32 ≤ (frameTo 1 1).length ∧ (frameInRow_s1.chip.prt 0).rxHseq = h.hseq ∧ h.dst ≠ frameInRow_s1.chip.fabric.selfId := by dsimp only; and_intros <;> decide

theorem witness_frameInRow_4 :
  let h := frameHdr (frameTo 0 1);
frameInRow_s1.chip.portUp 0 = true ∧
  32 ≤ (frameTo 0 1).length ∧ (frameInRow_s1.chip.prt 0).rxHseq = h.hseq ∧ h.dst = frameInRow_s1.chip.fabric.selfId := by dsimp only; and_intros <;> decide

theorem witness_frameInRow_5 :
  let h := frameHdr (frameTo 0 2);
frameInRow_s1.chip.portUp 0 = true ∧ 32 ≤ (frameTo 0 2).length ∧ (frameInRow_s1.chip.prt 0).rxHseq < h.hseq := by dsimp only; and_intros <;> decide

theorem witness_jobSetupRow :
  Claims.Taken jobSetupRow_s1 2561 jobReq5 ∧
  Claims.Clear (jobChecks jobReq5 jobSetupRow_s1.chip) ∧ jobSetupRow_s1.chip.fabric.freeJob = some 0 := by decide

theorem witness_jobEndRow_1 :
  Claims.Taken jobEndRow_s1 2562 jobEndRow_q2 ∧
  let job := beAt jobEndRow_q2.payload 0 2;
  jobEndRow_s1.chip.jobSlot job = some (0, jobSeven) ∧
    jobSeven.part = jobEndRow_q2.part ∧ Claims.Zero jobEndRow_q2 2 2 ∧ Claims.WorksFit jobEndRow_s1 jobEndRow_q2 := by dsimp only; and_intros <;> decide

theorem witness_jobEndRow_2 :
  Claims.Taken ready 2562 jobEndRow_q2 ∧
  let job := beAt jobEndRow_q2.payload 0 2;
  ready.chip.jobSlot job = none := by dsimp only; and_intros <;> decide

theorem witness_fabStatusRow :
  Claims.Taken ready 2563 (req []) := by decide

theorem witness_flowAckRow_1 :
  ready.chip.flow? 5 1 0 true = none := by decide

theorem witness_flowAckRow_2 :
  jobEndRow_s1.chip.flow? 5 1 0 true = some (flow1 0) ∧ ((flow1 0).failed = true ∨ (flow1 0).nextSeq ≤ 4) := by decide

theorem witness_flowAckRow_3 :
  flowAckRow_s1.chip.flow? 5 1 1024 true = some (flow1 1024) ∧ (flow1 1024).failed = false ∧ 3 < (flow1 1024).nextSeq ∧ 1024 ≤ 1024 := by decide

theorem witness_flowAckRow_4 :
  flowAckRow_s2.chip.flow? 5 1 1023 true = some (flow1 1023) ∧ (flow1 1023).failed = false ∧ 3 < (flow1 1023).nextSeq ∧ 1023 < 1024 := by decide

theorem witness_flowResendRows_1 :
  jobEndRow_s1.chip.jobSlot 5 = some (0, jobSeven) ∧
  jobEndRow_s1.chip.flow? 5 1 0 true = some (flow1 0) ∧ ((flow1 0).kept.any fun x => decide (x.fseq = 3)) = true := by decide

theorem witness_flowResendRows_2 :
  jobEndRow_s1.chip.jobSlot 5 = some (0, jobSeven) ∧
  jobEndRow_s1.chip.flow? 5 1 0 true = some (flow1 0) ∧ ((flow1 0).kept.any fun x => decide (x.fseq = 2)) = false := by decide

theorem witness_flowResendRows_3 :
  ready.chip.flow? 5 1 0 true = none := by decide

theorem witness_flowResendRows_4 :
  (laterNs (withFab (fab5 0) mgmt []) 50000).chip.flow? 5 1 0 true = some (flow1 0) ∧
  List.find? (fun x => decide (x.fseq = 3)) (flow1 0).kept = some kept1 ∧
    kept1.sentAt + 50000 ≤ (laterNs (withFab (fab5 0) mgmt []) 50000).clk.localNs := by decide

theorem witness_flowResendRows_5 :
  jobEndRow_s1.chip.flow? 5 1 0 true = some (flow1 0) ∧
  List.find? (fun x => decide (x.fseq = 3)) (flow1 0).kept = some kept1 ∧ jobEndRow_s1.clk.localNs < kept1.sentAt + 50000 := by decide

theorem witness_barrierFrameRow_1 :
  (withPort { : Port }).chip.portUp 0 = false := by decide

theorem witness_barrierFrameRow_2 :
  cableRow_s1.chip.portUp 0 = true ∧ 1 ≠ cableRow_s1.chip.fabric.selfId := by decide

theorem witness_barrierFrameRow_3 :
  cableRow_s1.chip.portUp 0 = true ∧ cableRow_s1.chip.jobSlot 5 = none := by decide

theorem witness_barrierFrameRow_4 :
  jobEndRow_s1.chip.portUp 0 = true ∧
  jobEndRow_s1.chip.jobSlot 5 = some (0, jobSeven) ∧
    let x := (jobEndRow_s1.chip.pt jobSeven.part).bar 0;
    x.job ≠ some 5 ∨ x.arrGen.toNat ≠ 0 ∨ false = false ∧ 1 ∈ x.children := by dsimp only; and_intros <;> decide

theorem witness_barrierFrameRow_5 :
  barrierFrameRow_s1.chip.portUp 0 = true ∧
  barrierFrameRow_s1.chip.jobSlot 5 = some (0, jobSeven) ∧
    let x := (barrierFrameRow_s1.chip.pt jobSeven.part).bar 0;
    x.job = some 5 ∧ x.arrGen.toNat = 0 ∧ false = false ∧ ¬1 ∈ x.children := by dsimp only; and_intros <;> decide

theorem witness_barrierFrameRow_6 :
  barrierFrameRow_s1.chip.portUp 0 = true ∧
  barrierFrameRow_s1.chip.jobSlot 5 = some (0, jobSeven) ∧
    let x := (barrierFrameRow_s1.chip.pt jobSeven.part).bar 0;
    x.job = some 5 ∧ x.arrGen.toNat = 0 ∧ true = true := by dsimp only; and_intros <;> decide

theorem witness_jobTimeoutRow_1 :
  let x := ((laterNs (withFab (fab5 0) (jobPt (some 0)) []) 7000).chip.pt 0).bar 0;
x.job.bind (laterNs (withFab (fab5 0) (jobPt (some 0)) []) 7000).chip.jobSlot = some (0, jobSeven) ∧
  x.localDone = some 0 ∧
    jobSeven.timeout ≠ 0 ∧
      x.timedOut = false ∧ 0 + jobSeven.timeout * 1000 ≤ (laterNs (withFab (fab5 0) (jobPt (some 0)) []) 7000).clk.localNs := by dsimp only; and_intros <;> decide

theorem witness_jobTimeoutRow_2 :
  let x := (jobTimeoutRow_s1.chip.pt 0).bar 0;
x.job.bind jobTimeoutRow_s1.chip.jobSlot = some (0, jobSeven) ∧
  x.localDone = some 0 ∧ (jobSeven.timeout = 0 ∨ x.timedOut = true ∨ jobTimeoutRow_s1.clk.localNs < 0 + jobSeven.timeout * 1000) := by dsimp only; and_intros <;> decide

theorem witness_jobTimeoutRow_3 :
  let x := (ready.chip.pt 0).bar 0;
x.localDone = none := by dsimp only; and_intros <;> decide

theorem witness_collectiveRow_1 :
  List.find? (fun c => decide (c.id = 7)) (collSt (coll1 0 false false)).chip.fabric.colls = some (coll1 0 false false) ∧
  (collSt (coll1 0 false false)).chip.jobSlot (coll1 0 false false).job = some (0, jobSeven) ∧ (coll1 0 false false).started = false := by decide

theorem witness_collectiveRow_2 :
  List.find? (fun c => decide (c.id = 7)) (collSt (coll1 0 true true)).chip.fabric.colls = some (coll1 0 true true) ∧
  (collSt (coll1 0 true true)).chip.jobSlot (coll1 0 true true).job = some (0, jobSeven) ∧
    (coll1 0 true true).started = true ∧ (coll1 0 true true).failed = true := by decide

theorem witness_collectiveRow_3 :
  List.find? (fun c => decide (c.id = 7)) (collSt (coll1 4096 true false)).chip.fabric.colls = some (coll1 4096 true false) ∧
  (collSt (coll1 4096 true false)).chip.jobSlot (coll1 4096 true false).job = some (0, jobSeven) ∧
    let others := List.filter (fun d => decide (d ≠ (collSt (coll1 4096 true false)).chip.fabric.selfId)) jobSeven.members;
    let got := List.map (fun d => (d, (collSt (coll1 4096 true false)).chip.chunksFrom (coll1 4096 true false) d)) others;
    let chunks := (coll1 4096 true false).entry.len / 4096;
    (coll1 4096 true false).started = true ∧ ((coll1 4096 true false).failed = true ∨ ∃ g, g ∈ got ∧ g.snd.length < chunks) := by dsimp only; and_intros <;> decide

theorem witness_resetNRule_1 :
  10000 ≤ 10000 ∧ ready.mod.pwrEn = true ∧ ready.mod.st = PowerState.on := by decide

theorem witness_resetNRule_2 :
  10000 ≤ 10000 ∧ State.reset.mod.pwrEn = false := by decide

theorem witness_resetNRule_3 :
  9999 < 10000 := by decide

theorem witness_jobsComplete_1 :
  Claims.Taken jobEndRow_s1 2562 jobEndRow_q2 ∧
  jobEndRow_s1.chip.jobSlot (beAt jobEndRow_q2.payload 0 2) = some (0, jobSeven) ∧
    jobSeven.part = jobEndRow_q2.part ∧ Claims.Zero jobEndRow_q2 2 2 ∧ Claims.WorksFit jobEndRow_s1 jobEndRow_q2 := by decide

theorem witness_jobsComplete_2 :
  Claims.Taken ready 2563 (req []) := by decide

theorem witness_linkEventsComplete_1 :
  Store.wf { : Port } bringUpRow_s2.chip.fabric.ports = true ∧
  let x := bringUpRow_s2.chip.prt 0;
  x.st = PortState.measuring := by dsimp only; and_intros <;> decide

theorem witness_linkEventsComplete_2 :
  Store.wf { : Port } bringUpRow_s1.chip.fabric.ports = true ∧
  let x := bringUpRow_s1.chip.prt 0;
  x.st = PortState.training := by dsimp only; and_intros <;> decide

theorem witness_linkEventsComplete_3 :
  Store.wf { : Port } (laterNs (withPort { st := PortState.failed, cable := true : Port }) 1000000000).chip.fabric.ports = true ∧
  let x := (laterNs (withPort { st := PortState.failed, cable := true : Port }) 1000000000).chip.prt 0;
  x.st = PortState.failed ∧
    (laterNs (withPort { st := PortState.failed, cable := true : Port }) 1000000000).chip.portEnabled 0 = true ∧
      x.cable = true ∧
        x.failedAt + 1000000000 ≤ (laterNs (withPort { st := PortState.failed, cable := true : Port }) 1000000000).clk.localNs := by dsimp only; and_intros <;> decide

theorem witness_linkEventsComplete_4 :
  Store.wf { : Port } linkEventsComplete_s1.chip.fabric.ports = true ∧
  let x := linkEventsComplete_s1.chip.prt 0;
  0 < 8 ∧
    linkEventsComplete_s1.chip.portEnabled 0 = true ∧
      (x.st = PortState.disabled ∨ x.st = PortState.failed) ∧ linkEventsComplete_s1.chip.ready = true := by dsimp only; and_intros <;> decide

theorem witness_linkEventsComplete_5 :
  Store.wf { : Port } cableRow_s1.chip.fabric.ports = true ∧
  let x := cableRow_s1.chip.prt 0;
  x.st = PortState.up := by dsimp only; and_intros <;> decide

theorem witness_linkEventsComplete_6 :
  Store.wf { : Port } hopReplayRow_s1.chip.fabric.ports = true ∧
  let x := hopReplayRow_s1.chip.prt 0;
  x.st = PortState.up ∧ ∀ (f : Nat × Nat × List Byte), f ∈ x.replay → 3 ≤ f.fst → f.snd.fst < 7 := by dsimp only; and_intros <;> decide

theorem witness_linkEventsComplete_7 :
  Store.wf { : Port } fecRow_s1.chip.fabric.ports = true ∧
  let x := fecRow_s1.chip.prt 0;
  x.st = PortState.up ∧ (List.filter (fun t => decide (fecRow_s1.clk.localNs < t + 1000000)) x.ueTimes).length < 15 := by dsimp only; and_intros <;> decide

theorem witness_linkEventsComplete_8 :
  Store.wf { : Port } (laterNs (withPort { st := PortState.up, queue := [txf false] : Port }) 10000).chip.fabric.ports = true ∧
  let x := (laterNs (withPort { st := PortState.up, queue := [txf false] : Port }) 10000).chip.prt 0;
  x.st = PortState.up ∧
    (∃ f, f ∈ x.queue ∧ f.vc = 0) ∧
      look 0 x.creditAt 0 + 10000 ≤ (laterNs (withPort { st := PortState.up, queue := [txf false] : Port }) 10000).clk.localNs := by dsimp only; and_intros <;> decide

theorem witness_linkEventsComplete_9 :
  Store.wf { : Port } (laterNs (withPort { st := PortState.up : Port }) 10000).chip.fabric.ports = true ∧
  let x := (laterNs (withPort { st := PortState.up : Port }) 10000).chip.prt 0;
  x.st = PortState.up ∧ (false = true ∨ x.lastCtl + 10000 ≤ (laterNs (withPort { st := PortState.up : Port }) 10000).clk.localNs) := by dsimp only; and_intros <;> decide

theorem witness_linkEventsComplete_10 :
  Store.wf { : Port } frameSendRow_s1.chip.fabric.ports = true ∧
  let x := frameSendRow_s1.chip.prt 0;
  x.st = PortState.up ∧ (frameSendRow_s1.chip.nextFrame 0).isSome = true := by dsimp only; and_intros <;> decide

/-- COLLECTIVE_COMPLETE of a collective whose members' data, of no chunk, are all here. -/
theorem witness_collectiveRow_done : let c := coll1 0 true false
    let s := collSt c
    (s.chip.fabric.colls.find? fun x => x.id = 7) = some c ∧ (s.chip.readServed 0 c.entry.src c.entry.len).toOption = some [] ∧
    (∀ o ∈ collResult c.entry 0 [(0, []), (1, [])], (s.chip.pt 0).rangeBad (c.entry.dst + o.1) o.2.length true = false) := by decide +kernel

/-- HELLO at a port that waits for it: with a signature that holds, which Config leaves open, every premise of the exchange holds. -/
theorem witness_linkEventsComplete_hello : let s := withPort { st := .hello }
    Store.wf {} s.chip.fabric.ports = true ∧ (s.chip.prt 0).st = .hello ∧ hello1.xs = s.chip.fabric.xs ∧ hello1.ys = s.chip.fabric.ys ∧
    hello1.zs = s.chip.fabric.zs ∧ hello1.self = s.chip.fabric.partnerOf 0 := by decide

/-- JOB_SETUP of a job whose only member is this device. -/
theorem witness_jobsComplete_setup : let s := withPt { mgmt with jobKeys := [(5, zeros 32)] }
    Claims.Taken s 0x0A01 jobReq5 ∧ Claims.JobOk s jobReq5 := by decide +kernel

def reintegrationRow_s1 : State := withSvc (.collapsing 0 199 1)
def reintegrationRow_s2 : State := withSvc (.collapsing 0 200 1)
def stepCompleteRow_s1 : State := withRcv { steps := [step1 (.ctx 0 0)] }
def mgmtTimeoutRow_s1 : State := withRcv { resetAt := some 0 }
def suspectRow_s1 : State := withRcv { suspects := [(0, 0, .todo)] }
def resetRow_q1 : Req := req ([8] ++ zeros 7)
def resetKinds_q1 : Req := req ([1] ++ zeros 7)
def resetKinds_q2 : Req := req ([2] ++ zeros 7)
def resetKinds_q3 : Req := req ([3] ++ zeros 7)
def resetKinds_q4 : Req := req ([5] ++ zeros 7)
def resetKinds_q5 : Req := req ([4] ++ zeros 7)
def resetKinds_q6 : Req := req ([6] ++ zeros 7)
def resetKinds_q7 : Req := req ([7] ++ zeros 7)
def quarantineRule_s1 : State := withPt quarCtx
def quarantineRule_q2 : Req := req (zeros 16)
def runsComplete_q1 : Req := req ([0xFF, 0, 1, 0] ++ zeros 12 ++ [0, 4])
def runsComplete_s2 : State := { ready with chip := { readyChip with runs := [run1] } }
def runsComplete_q3 : Req := req (toBe 1 4)
def requestsComplete_s1 : State := withModel (oneShard .current {}) []
def requestsComplete_q2 : Req := req (zeros 4 ++ toBe 1 2 ++ zeros 2 ++ toBe 7 4)

theorem witness_substitution_1 :
  (((reserveSt false false).fence { : Clock } 0).cl 0).lcid = some 0 ∧
  let h := (reserveSt false false).fence { : Clock } 0;
  let r := regionOf 0;
  (h.rg r).inUse = true ∨ h.reserveOf r = none := by dsimp only; and_intros <;> decide

theorem witness_substitution_2 :
  (((reserveSt true true).fence { : Clock } 0).cl 0).lcid = some 0 ∧
  let h := (reserveSt true true).fence { : Clock } 0;
  let r := regionOf 0;
  let mir := (h.rg r).mir 0;
  let lost := (restoreReads ((h.ownerOf 0).getD 0) (h.cl 0) mir).any fun x => (h.firstLost x.fst x.snd.fst x.snd.snd false).isSome;
  (h.rg r).inUse = false ∧ h.reserveOf r = some 1 ∧ (mir.overflow = true ∨ lost = true) := by dsimp only; and_intros <;> decide

theorem witness_substitution_3 :
  (((reserveSt false true).fence { : Clock } 0).cl 0).lcid = some 0 ∧
  let h := (reserveSt false true).fence { : Clock } 0;
  let r := regionOf 0;
  let mir := (h.rg r).mir 0;
  let lost := (restoreReads ((h.ownerOf 0).getD 0) (h.cl 0) mir).any fun x => (h.firstLost x.fst x.snd.fst x.snd.snd false).isSome;
  (h.rg r).inUse = false ∧ h.reserveOf r = some 1 ∧ mir.overflow = false ∧ lost = false := by dsimp only; and_intros <;> decide

theorem witness_fencedCluster :
  List.filter (fun w => decide (w.kind = WorkKind.fillCopy 0)) readyChip.works = [] := by decide

theorem witness_reintegrationRow_1 :
  (reintegrationRow_s1.chip.cl 0).svc = ClusterSvc.collapsing 0 199 1 ∧ 199 < 200 := by decide

theorem witness_reintegrationRow_2 :
  (reintegrationRow_s2.chip.cl 0).svc = ClusterSvc.collapsing 0 200 1 ∧ 200 ≤ 200 ∧ (reintegrationRow_s2.chip.cl 0).rowsPending = false := by decide

theorem witness_packageRow_1 :
  State.reset.mod.st ≠ PowerState.on := by decide

theorem witness_packageRow_2 :
  ready.mod.st = PowerState.on ∧ ready.chip.takeFault RecUnit.package 13 = none ∧ 13 = 13 := by decide

theorem witness_packageRow_3 :
  ready.chip.takeFault RecUnit.package 12 = none ∧ 12 ≠ 13 := by decide

theorem witness_stepCompleteRow_1 :
  List.find? (fun x => decide (x.id = 1)) ready.chip.rcv.steps = none := by decide

theorem witness_stepCompleteRow_2 :
  List.find? (fun x => decide (x.id = 1)) stepCompleteRow_s1.chip.rcv.steps = some (step1 (RecUnit.ctx 0 0)) ∧
  (stepCompleteRow_s1.chip.ready = true ∨ stepCompleteRow_s1.chip.inRecoveryMode = true) := by decide

theorem witness_stepWatchdogRow_1 :
  List.find? (fun x => decide (x.id = 1)) stepCompleteRow_s1.chip.rcv.steps = some (step1 (RecUnit.ctx 0 0)) ∧
  let w := stepWatchdog (step1 (RecUnit.ctx 0 0)).unit.code;
  stepCompleteRow_s1.clk.localNs < (step1 (RecUnit.ctx 0 0)).startNs + w := by dsimp only; and_intros <;> decide

theorem witness_stepWatchdogRow_2 :
  List.find? (fun x => decide (x.id = 1)) (laterNs (withRcv { steps := [step1 (RecUnit.ctx 0 0)] : Recovery }) 40000).chip.rcv.steps =
    some (step1 (RecUnit.ctx 0 0)) ∧
  let w := stepWatchdog (step1 (RecUnit.ctx 0 0)).unit.code;
  (step1 (RecUnit.ctx 0 0)).startNs + w ≤ (laterNs (withRcv { steps := [step1 (RecUnit.ctx 0 0)] : Recovery }) 40000).clk.localNs ∧
    (step1 (RecUnit.ctx 0 0)).unit ≠ RecUnit.package := by dsimp only; and_intros <;> decide

theorem witness_stepWatchdogRow_3 :
  List.find? (fun x => decide (x.id = 1)) (laterNs (withRcv { steps := [step1 RecUnit.package] : Recovery }) 8000000000).chip.rcv.steps =
    some (step1 RecUnit.package) ∧
  let w := stepWatchdog (step1 RecUnit.package).unit.code;
  (step1 RecUnit.package).startNs + w ≤ (laterNs (withRcv { steps := [step1 RecUnit.package] : Recovery }) 8000000000).clk.localNs ∧
    (step1 RecUnit.package).unit = RecUnit.package := by dsimp only; and_intros <;> decide

theorem witness_mgmtTimeoutRow_1 :
  (laterNs (withRcv { resetAt := some 0 : Recovery }) 8000000000).chip.rcv.resetAt = some 0 ∧
  0 + 8000000000 ≤ (laterNs (withRcv { resetAt := some 0 : Recovery }) 8000000000).clk.localNs ∧
    (laterNs (withRcv { resetAt := some 0 : Recovery }) 8000000000).chip.boot.mgmtStarted = false := by decide

theorem witness_mgmtTimeoutRow_2 :
  mgmtTimeoutRow_s1.chip.rcv.resetAt = some 0 ∧
  (mgmtTimeoutRow_s1.clk.localNs < 0 + 8000000000 ∨ mgmtTimeoutRow_s1.chip.boot.mgmtStarted = true) := by decide

theorem witness_mgmtTimeoutRow_3 :
  ready.chip.rcv.resetAt = none := by decide

theorem witness_tallyRow_1 :
  ready.chip.ready = false ∨ ready.clk.localNs < ready.chip.rcv.lastScan + 100000 := by decide

theorem witness_tallyRow_2 :
  let t := (laterNs (withPt mgmt) 100000).chip.scanTable;
let twice :=
  t.any fun r =>
    !r.live && (laterNs (withPt mgmt) 100000).chip.rcv.table.any fun o => !o.live && decide (o.party = r.party) && decide (o.obj = r.obj);
(laterNs (withPt mgmt) 100000).chip.ready = true ∧
  (laterNs (withPt mgmt) 100000).chip.rcv.lastScan + 100000 ≤ (laterNs (withPt mgmt) 100000).clk.localNs ∧
    (laterNs (withPt mgmt) 100000).chip.rcv.suspects = [] ∧ twice = false := by dsimp only; and_intros <;> decide

theorem witness_tallyRow_3 :
  let t := (laterNs deadSt 100000).chip.scanTable;
let twice :=
  t.any fun r =>
    !r.live && (laterNs deadSt 100000).chip.rcv.table.any fun o => !o.live && decide (o.party = r.party) && decide (o.obj = r.obj);
(laterNs deadSt 100000).chip.ready = true ∧
  (laterNs deadSt 100000).chip.rcv.lastScan + 100000 ≤ (laterNs deadSt 100000).clk.localNs ∧
    (laterNs deadSt 100000).chip.rcv.suspects = [] ∧ twice = true := by dsimp only; and_intros <;> decide

theorem witness_suspectRow_1 :
  let turn := List.find? (fun x => x.snd.snd.waits) ready.chip.rcv.suspects;
turn = none := by dsimp only; and_intros <;> decide

theorem witness_suspectRow_2 :
  let turn := List.find? (fun x => x.snd.snd.waits) suspectRow_s1.chip.rcv.suspects;
turn = some (0, 0, Suspicion.todo) ∧ (0 ≠ 0 ∨ 0 ≠ 1 ∨ Suspicion.todo ≠ Suspicion.todo) := by dsimp only; and_intros <;> decide

theorem witness_suspectRow_3 :
  let turn := List.find? (fun x => x.snd.snd.waits) suspectRow_s1.chip.rcv.suspects;
turn = some (0, 0, Suspicion.todo) := by dsimp only; and_intros <;> decide

theorem witness_noProgressRow_1 :
  look none (ready.chip.pt 0).contexts 9 = none := by decide

theorem witness_noProgressRow_2 :
  look none (ready.chip.pt 0).contexts 0 = some { : Context } ∧
  let idle := (ready.chip.startedSlots 0 0).isEmpty && (ready.chip.startedTasks 0 0).isEmpty;
  (ready.chip.pt 0).valid = false ∨
    { : Context }.pausedAt.isSome = true ∨
      { : Context }.held = true ∨ ready.clk.localNs < { : Context }.restart + (ready.chip.pt 0).wdog * 1000 ∨ idle = true := by dsimp only; and_intros <;> decide

theorem witness_noProgressRow_3 :
  look none ((laterNs ready 10000000).chip.pt 0).contexts 0 = some { : Context } ∧
  let idle := ((laterNs ready 10000000).chip.startedSlots 0 0).isEmpty && ((laterNs ready 10000000).chip.startedTasks 0 0).isEmpty;
  ((laterNs ready 10000000).chip.pt 0).valid = true ∧
    { : Context }.pausedAt = none ∧
      { : Context }.held = false ∧
        { : Context }.restart + ((laterNs ready 10000000).chip.pt 0).wdog * 1000 ≤ (laterNs ready 10000000).clk.localNs ∧ idle = false := by dsimp only; and_intros <;> decide

theorem witness_resetRow :
  Claims.Taken ready 2305 resetRow_q1 ∧ 7 < beAt resetRow_q1.payload 0 1 := by decide

theorem witness_resetKinds_1 :
  let kind := beAt resetKinds_q1.payload 0 1;
kind = 1 := by dsimp only; and_intros <;> decide

theorem witness_resetKinds_2 :
  let kind := beAt resetKinds_q2.payload 0 1;
let id := beAt resetKinds_q2.payload 2 2;
kind = 2 ∧ id < 64 := by dsimp only; and_intros <;> decide

theorem witness_resetKinds_3 :
  let kind := beAt resetKinds_q3.payload 0 1;
let id := beAt resetKinds_q3.payload 2 2;
kind = 3 ∧ id < 16 := by dsimp only; and_intros <;> decide

theorem witness_resetKinds_4 :
  let kind := beAt resetKinds_q4.payload 0 1;
kind = 5 := by dsimp only; and_intros <;> decide

theorem witness_resetKinds_5 :
  let kind :=
  beAt
    (let __src := req ([4] ++ zeros 7);
      { session := __src.session, seq := __src.seq, part := 1, ctx := __src.ctx, port := __src.port, src := __src.src, stamp := __src.stamp,
        payload := __src.payload : Req }).payload
    0 1;
(kind = 4 ∨ kind = 6 ∨ kind = 7) ∧
  (let __src := req ([4] ++ zeros 7);
      { session := __src.session, seq := __src.seq, part := 1, ctx := __src.ctx, port := __src.port, src := __src.src, stamp := __src.stamp,
        payload := __src.payload : Req }).part ≠
    0 := by dsimp only; and_intros <;> decide

theorem witness_resetKinds_6 :
  let kind := beAt resetKinds_q5.payload 0 1;
let id := beAt resetKinds_q5.payload 2 2;
kind = 4 ∧ resetKinds_q5.part = 0 ∧ id < 16 := by dsimp only; and_intros <;> decide

theorem witness_resetKinds_7 :
  let kind := beAt resetKinds_q6.payload 0 1;
let id := beAt resetKinds_q6.payload 2 2;
kind = 6 ∧ resetKinds_q6.part = 0 ∧ id < 4 := by dsimp only; and_intros <;> decide

theorem witness_resetKinds_8 :
  let kind := beAt resetKinds_q7.payload 0 1;
let id := beAt resetKinds_q7.payload 2 2;
kind = 7 ∧ resetKinds_q7.part = 0 ∧ id < 1 := by dsimp only; and_intros <;> decide

theorem witness_idleTick :
  State.reset.pending = [] := by decide

theorem witness_hostGate_1 :
  Claims.hostOp (Instr.pwrQuery (req [])) = some (1794, req []) ∧ State.reset.chip.answers = false := by decide

theorem witness_hostGate_2 :
  Claims.hostOp (Instr.pwrQuery (req [])) = some (1794, req []) ∧
  recMode.chip.answers = true ∧ recMode.chip.gate 1794 (req []) = some (Status.notReady, none) := by decide

theorem witness_powerCycle_1 :
  List.find? (fun y => decide (y.id = 1)) (laterNs (withRcv { steps := [step1 RecUnit.package] : Recovery }) 8000000000).chip.rcv.steps =
    some (step1 RecUnit.package) ∧
  (step1 RecUnit.package).unit = RecUnit.package ∧
    (step1 RecUnit.package).startNs + 8000000000 ≤
      (laterNs (withRcv { steps := [step1 RecUnit.package] : Recovery }) 8000000000).clk.localNs := by decide

theorem witness_powerCycle_2 :
  (laterNs (withRcv { resetAt := some 0 : Recovery }) 8000000000).chip.rcv.resetAt = some 0 ∧
  0 + 8000000000 ≤ (laterNs (withRcv { resetAt := some 0 : Recovery }) 8000000000).clk.localNs ∧
    (laterNs (withRcv { resetAt := some 0 : Recovery }) 8000000000).chip.boot.mgmtStarted = false := by decide

theorem witness_alertLine_1 :
  (pinned { vaux := true, trip := true : ModulePins }).mod.vaux = true ∧ (pinned { vaux := true, trip := true : ModulePins }).mod.alert = true := by decide

theorem witness_alertLine_2 :
  ready.mod.alert = false := by decide

theorem witness_memoryRoundTrip :
  Store.wf 0 readyChip.hbm = true ∧ readyChip.hbmErr = [] := by decide

theorem witness_routeArrives :
  1 ≤ { xs := 8, ys := 8, zs := 8 : Fabric }.xs ∧
  { xs := 8, ys := 8, zs := 8 : Fabric }.xs ≤ 8 ∧
    1 ≤ { xs := 8, ys := 8, zs := 8 : Fabric }.ys ∧
      { xs := 8, ys := 8, zs := 8 : Fabric }.ys ≤ 8 ∧
        1 ≤ { xs := 8, ys := 8, zs := 8 : Fabric }.zs ∧
          { xs := 8, ys := 8, zs := 8 : Fabric }.zs ≤ 8 ∧
            { xs := 8, ys := 8, zs := 8 : Fabric }.inShape 497 = true ∧ { xs := 8, ys := 8, zs := 8 : Fabric }.inShape 22 = true := by decide

theorem witness_lockoutRule :
  ready.mod.powered = true ∧ 3299 < 3300 ∧ 100000 < 100001 := by decide

theorem witness_recoveryGate :
  recMode.chip.inRecoveryMode = true := by decide

theorem witness_quarantineRule_1 :
  (quarantineRule_s1.chip.pt quarantineRule_q2.part).quarantine quarantineRule_q2.ctx = true ∧
  Claims.Taken quarantineRule_s1 1281 quarantineRule_q2 := by decide

theorem witness_quarantineRule_2 :
  (quarantineRule_s1.chip.pt quarantineRule_q2.part).quarantine quarantineRule_q2.ctx = true ∧
  Claims.Taken quarantineRule_s1 1282 quarantineRule_q2 ∧ quarantineRule_q2.payload.length = runLen quarantineRule_q2.payload := by decide

theorem witness_quarantineRule_3 :
  (quarantineRule_s1.chip.pt (req []).part).quarantine (req []).ctx = true ∧
  Claims.Taken quarantineRule_s1 517 (req []) ∧
    Store.wf { : Partition } quarantineRule_s1.chip.parts = true ∧ Store.wf none (quarantineRule_s1.chip.pt (req []).part).contexts = true := by decide

theorem witness_semLogRule_1 :
  (readyChip.cl 0).lcid = some 0 ∧
  Store.wf { : Region } readyChip.regions = true ∧
    Store.wf { : Mirror } (readyChip.rg (regionOf 0)).mirror = true ∧
      let m := (readyChip.rg (regionOf 0)).mir 0;
      m.log.length < 64 := by dsimp only; and_intros <;> decide

theorem witness_semLogRule_2 :
  (fullLog.cl 0).lcid = some 0 ∧
  Store.wf { : Region } fullLog.regions = true ∧
    Store.wf { : Mirror } (fullLog.rg (regionOf 0)).mirror = true ∧
      let m := (fullLog.rg (regionOf 0)).mir 0;
      64 ≤ m.log.length := by dsimp only; and_intros <;> decide

theorem witness_semLogRule_3 :
  (capSt.chip.cl 0).capture = some { endAt := 0, keys := [] : Capture } ∧
  (capSt.chip.cl 0).lcid = some 0 ∧
    { endAt := 0, keys := [] : Capture }.endAt ≤ (capSt.chip.cl 0).aclk ∧
      (∀ (x : PlanRange),
          x ∈ (capSt.chip.cl 0).carried { endAt := 0, keys := [] : Capture }.keys →
            ∀ (w : Nat), w ∈ spdWords x.spd x.len → (capSt.chip.cl 0).errs w = 0) ∧
        (capSt.chip.cl 0).svc ≠ ClusterSvc.outOfService := by decide

theorem witness_reserveRule_1 :
  (reserveSt false false).reserveOf (regionOf 0) = none := by decide

theorem witness_reserveRule_2 :
  (reserveSt false true).reserveOf (regionOf 0) = some 1 ∧
  let h :=
    ((reserveSt false true).moveLcid 0 0 (some 1)).modRg (regionOf 0) fun g =>
      { sems := g.sems, semFlight := g.semFlight, sigFlight := g.sigFlight, streams := g.streams, eng := g.eng, mirror := g.mirror,
        tlb := g.tlb, l1cache := g.l1cache, walks := g.walks, busy := g.busy, inUse := true, block := g.block, encQueue := g.encQueue,
        encData := g.encData : Region };
  (h.ownerOf 0).isSome = true := by dsimp only; and_intros <;> decide

theorem witness_reserveRule_3 :
  (reserveSt false true).reserveOf (regionOf 0) = some 1 ∧
  let h :=
    ((reserveSt false true).moveLcid 63 0 (some 1)).modRg (regionOf 0) fun g =>
      { sems := g.sems, semFlight := g.semFlight, sigFlight := g.sigFlight, streams := g.streams, eng := g.eng, mirror := g.mirror,
        tlb := g.tlb, l1cache := g.l1cache, walks := g.walks, busy := g.busy, inUse := true, block := g.block, encQueue := g.encQueue,
        encData := g.encData : Region };
  (h.ownerOf 63).isSome = false := by dsimp only; and_intros <;> decide

theorem witness_standsIn_1 :
  { : Mirror }.current = none := by decide

theorem witness_standsIn_2 :
  { current := some img1 : Mirror }.current = some img1 := by decide

theorem witness_runsComplete_1 :
  Claims.Taken loadedSt 1282 runsComplete_q1 ∧ Claims.RunOk loadedSt runsComplete_q1 := by decide

theorem witness_runsComplete_2 :
  Claims.Taken runsComplete_s2 1283 runsComplete_q3 ∧
  runsComplete_s2.chip.run? (beAt runsComplete_q3.payload 0 4) = some run1 ∧
    run1.part = runsComplete_q3.part ∧ run1.ctx = runsComplete_q3.ctx := by decide

theorem witness_requestsComplete :
  Claims.Taken requestsComplete_s1 1286 requestsComplete_q2 ∧
  Claims.AdmitOk requestsComplete_s1 requestsComplete_q2 ∧ Store.wf { : Partition } requestsComplete_s1.chip.parts = true := by decide

theorem witness_recoveryEventsComplete :
  (reintegrationRow_s2.chip.cl 0).svc = ClusterSvc.collapsing 0 200 1 ∧ 200 ≤ 200 ∧ (reintegrationRow_s2.chip.cl 0).rowsPending = false := by decide

theorem witness_ladderEventsComplete_1 :
  List.find? (fun y => decide (y.id = 1)) stepCompleteRow_s1.chip.rcv.steps = some (step1 (RecUnit.ctx 0 0)) ∧
  stepCompleteRow_s1.chip.ready = true := by decide

theorem witness_ladderEventsComplete_2 :
  List.find? (fun y => decide (y.id = 1)) (laterNs (withRcv { steps := [step1 (RecUnit.ctx 0 0)] : Recovery }) 40000).chip.rcv.steps =
    some (step1 (RecUnit.ctx 0 0)) ∧
  (step1 (RecUnit.ctx 0 0)).startNs + stepWatchdog (step1 (RecUnit.ctx 0 0)).unit.code ≤
      (laterNs (withRcv { steps := [step1 (RecUnit.ctx 0 0)] : Recovery }) 40000).clk.localNs ∧
    (step1 (RecUnit.ctx 0 0)).unit ≠ RecUnit.package := by decide

theorem witness_ladderEventsComplete_3 :
  (laterNs (withRcv { resetAt := some 0 : Recovery }) 8000000000).chip.rcv.resetAt = some 0 ∧
  0 + 8000000000 ≤ (laterNs (withRcv { resetAt := some 0 : Recovery }) 8000000000).clk.localNs ∧
    (laterNs (withRcv { resetAt := some 0 : Recovery }) 8000000000).chip.boot.mgmtStarted = false := by decide

theorem witness_ladderEventsComplete_4 :
  (laterNs (withPt mgmt) 100000).chip.ready = true ∧
  (laterNs (withPt mgmt) 100000).chip.rcv.lastScan + 100000 ≤ (laterNs (withPt mgmt) 100000).clk.localNs ∧
    (laterNs (withPt mgmt) 100000).chip.rcv.suspects = [] ∧ ((laterNs (withPt mgmt) 100000).chip.scanTable.all fun r => r.live) = true := by decide

theorem witness_ladderEventsComplete_5 :
  List.find? (fun x => x.snd.snd.waits) suspectRow_s1.chip.rcv.suspects = some (0, 0, Suspicion.todo) := by decide

theorem witness_ladderEventsComplete_6 :
  look none ((laterNs ready 10000000).chip.pt 0).contexts 0 = some { : Context } ∧
  ((laterNs ready 10000000).chip.pt 0).valid = true ∧
    { : Context }.pausedAt = none ∧
      { : Context }.held = false ∧
        { : Context }.restart + ((laterNs ready 10000000).chip.pt 0).wdog * 1000 ≤ (laterNs ready 10000000).clk.localNs ∧
          ((laterNs ready 10000000).chip.startedSlots 0 0 ≠ [] ∨ (laterNs ready 10000000).chip.startedTasks 0 0 ≠ []) := by decide

/-- A step on each kind of unit that may start, and none for a device with no fault queued. -/
theorem witness_resetRows_ctx : ∃ f pkg c, Claims.Starts (partQueued (.ctx 0 0) 4) (.ctx 0 0) 4 f pkg c := ⟨_, _, _, by decide, rfl⟩
theorem witness_resetRows_engine : ∃ f pkg c, Claims.Starts (pkgQueued (.engine 0) 8) (.engine 0) 8 f pkg c := ⟨_, _, _, by decide, rfl⟩
theorem witness_resetRows_part : ∃ f pkg c, Claims.Starts (pkgQueued (.part 0) 9) (.part 0) 9 f pkg c := ⟨_, _, _, by decide, rfl⟩
theorem witness_resetRows_none : Claims.NotStarts ready (.ctx 0 0) 4 ∧ Claims.NotStarts ready (.engine 0) 4 ∧ Claims.NotStarts ready (.part 0) 9 := by decide
theorem witness_stepRows_cluster : ∃ f pkg c, Claims.Starts (pkgQueued (.cluster 0) 6) (.cluster 0) 6 f pkg c := ⟨_, _, _, by decide, rfl⟩
theorem witness_stepRows_streamEng : ∃ f pkg c, Claims.Starts (pkgQueued (.streamEng 0) 9) (.streamEng 0) 9 f pkg c := ⟨_, _, _, by decide, rfl⟩
theorem witness_stepRows_die : ∃ f pkg c, Claims.Starts (pkgQueued (.die 0) 12) (.die 0) 12 f pkg c := ⟨_, _, _, by decide, rfl⟩
theorem witness_stepRows_none : Claims.NotStarts ready (.cluster 0) 2 ∧ Claims.NotStarts ready (.streamEng 0) 2 ∧ Claims.NotStarts ready (.die 0) 2 := by decide

/-- A unit whose fault is detected now, and whose step then starts. -/
theorem witness_detections_engine : ∃ f pkg c, ready.chip.takeFault (.engine 0) 8 = none ∧
    (ready.chip.fault ready.clk 8 (.engine 0) 0).takeFault (.engine 0) 8 = some (f, pkg, c) := ⟨_, _, _, by decide, rfl⟩
theorem witness_detections_cluster : ∃ f pkg c, (ready.chip.cl 0).beats = true ∧ ready.chip.takeFault (.cluster 0) 6 = none ∧
    (ready.chip.fault ready.clk 6 (.cluster 0) 0).takeFault (.cluster 0) 6 = some (f, pkg, c) := ⟨_, _, _, by decide, by decide, rfl⟩
theorem witness_detections_streamEng : ∃ f pkg c, ready.chip.takeFault (.streamEng 0) 9 = none ∧
    (ready.chip.fault ready.clk 9 (.streamEng 0) 0).takeFault (.streamEng 0) 9 = some (f, pkg, c) := ⟨_, _, _, by decide, rfl⟩

/-- A package fault at the head of the queue. -/
theorem witness_packageRow_queued : ∃ f pkg c, (pkgQueued .package 12).mod.st = .on ∧ (pkgQueued .package 12).chip.takeFault .package 12 = some (f, pkg, c) := ⟨_, _, _, rfl, rfl⟩

/-- RESET of the package by the management partition. -/
theorem witness_resetRow_package : (resetUnit ready.chip (req ([7] ++ zeros 7))).toOption = some .package ∧ Claims.Taken ready 0x0901 (req ([7] ++ zeros 7)) := by decide

/-- Steps that answer: one of the idle block, one of a time message, one of a schedule entry. -/
theorem witness_clocksForward : ∃ t, step State.reset = .next t := ⟨_, rfl⟩
theorem witness_clocksForward_sync : ∃ t, step { State.reset with pending := [.timeSyncMessage 0 2000000] } = .next t ∧ t.clk.timebase = 2000000 := ⟨_, rfl, rfl⟩
theorem witness_pinsKept : Claims.PinsInv State.reset.mod ∧ ∃ t, step { State.reset with pending := [.vauxChange true] } = .next t := ⟨by decide, _, rfl⟩
theorem witness_powerCycle_only : ∃ t, exec .mgmtStartTimeout (laterNs (withRcv { resetAt := some 0 }) 8000000000) = .next t ∧ ready.mod.pcReq = false ∧ t.mod.pcReq = true :=
  ⟨_, rfl, rfl, rfl⟩
theorem witness_entriesLeave : ∃ t, Claims.ofEntry (.snop 0) = true ∧ exec (.snop 0) ready = .next t := ⟨_, rfl, rfl⟩
theorem witness_entriesLeave_control : ∃ t, Claims.ofControl (.next 0) = true ∧ exec (.next 0) ready = .next t := ⟨_, rfl, rfl⟩
theorem witness_lockoutRule_stays : ∃ t, exec (.vinEntersRange 4800) (pinned { vaux := true, st := .faultOff }) = .next t := ⟨_, rfl⟩
theorem witness_dutyCount : 1 ≤ 16 ∧ 16 ≤ 16 := by decide
theorem witness_recoveryGate_other : Claims.hostOp (.pwrQuery (req [])) = some (0x0702, req []) ∧ recMode.chip.answers = true ∧ (recMode.chip.pt 0).valid = true := by decide
theorem witness_ladderDie : readyChip.dieShared 0 = false ∧ (readyChip.dieOwners 0).head? = some 0 ∧ readyChip.ownerOfCl 0 = some 0 ∧ (readyChip.pt 0).hold = false := by decide
theorem witness_resetNRule_waits : let m : ModulePins := { st := .sequencing, resetN := false }
    m.resetN = false ∧ m.st = .sequencing ∧ bootOk.railsOk = true := by decide

/-- SLOT_LOAD of a table without a plan and of one with, at conditions of the state alone. -/
theorem witness_slotLoadCompletes : let q := req ([0, 2, 0, 0] ++ toBe 16 2 ++ toBe 1 2 ++ toBe 65536 8); let s := memAt [(458767, 0xC0)]
    Claims.Taken s 0x0501 q ∧ Claims.SlotOk s q 0 ∧ Claims.PlanOk s q 0 [] :=
  ⟨by decide +kernel, by decide +kernel, Or.inl (by decide +kernel)⟩
theorem witness_slotLoadCompletes_plan : let q := req ([0, 2, 0, 0] ++ toBe 16 2 ++ toBe 1 2 ++ toBe 65536 8)
    Claims.Taken planSt 0x0501 q ∧ Claims.SlotOk planSt q 0 ∧ Claims.PlanOk planSt q 0 (planRecords (plan1.drop 16) 1) :=
  ⟨by decide +kernel, by decide +kernel, Or.inr ⟨plan1, by decide +kernel⟩⟩

/-- REQ_END of an admitted request. -/
theorem witness_requestsComplete_end : let s := withPt { mgmt with requests := [req7] }; let q := req (toBe 1 2 ++ zeros 2 ++ toBe 7 4)
    Claims.Taken s 0x0507 q ∧ Claims.Zero q 2 2 ∧ (reqIds q.payload 4 1).eraseDups.length = 1 ∧
    (∀ i ∈ reqIds q.payload 4 1, ∃ r, (s.chip.pt q.part).request? i = some r ∧ r.ending = false) ∧ Claims.WorksFit s q :=
  ⟨by decide, by decide, by decide, fun i hi => ⟨req7, by revert i; decide⟩, by decide⟩

/-- RESET of a unit of every kind. -/
theorem witness_resetCompletes : ∀ x ∈ ([(1, .ctx 0 0), (2, .cluster 0), (3, .engine 0), (4, .streamEng 0), (5, .part 0), (6, .die 0), (7, .package)] : List (Byte × RecUnit)),
    let q := req (x.1 :: zeros 7)
    Claims.Taken ready 0x0901 q ∧ Claims.Zero q 1 1 ∧ Claims.Zero q 4 4 ∧ ready.chip.inRecoveryMode = false ∧ Claims.WorksFit ready q ∧
    (resetUnit ready.chip q).toOption = some x.2 := by decide
theorem witness_resetCompletes_units : (ready.chip.pt 0).hasCtx 0 = true ∧ (ready.chip.pt 0).ownsLcid 0 = true ∧ ready.chip.pcid 0 = some 0 ∧
    (ready.chip.pt 0).ownsEng 0 = true := by decide

/-- A queued fault of each kind of unit starts its step. -/
theorem witness_recoveryEventsComplete_units : ∀ x ∈ ([.cluster 0, .engine 0, .streamEng 0, .part 0, .die 0] : List RecUnit),
    (pkgQueued x 6).chip.ready = true ∧ ((pkgQueued x 6).chip.takeFault x 6).isSome = true := by decide
theorem witness_recoveryEventsComplete_ctx : (partQueued (.ctx 0 0) 4).chip.ready = true ∧ ((partQueued (.ctx 0 0) 4).chip.takeFault (.ctx 0 0) 4).isSome = true := by decide
theorem witness_recoveryEventsComplete_package : (pkgQueued .package 12).mod.st = .on ∧ ((pkgQueued .package 12).chip.takeFault .package 12).isSome = true := by decide

/-- A cluster whose test after its collapse fails, without an lcid and with lcid 0 (CLUSTER_REINTEGRATION). -/
theorem witness_reintegrationRow_fails : ∀ x ∈ [(withSvc (.collapsing 0 200 1), none), (withCl { runCl with svc := .collapsing 0 200 1 }, some 0)],
    let s : State := x.1
    (s.chip.cl 0).svc = .collapsing 0 200 1 ∧
    (((((s.chip.modCl 0 fun x => { x with bistPass := false }).recordFailed 0).notice s.clk 2 0).cl 0).lcid = x.2) := by decide

/-! ### Ill-formed commands: one for each check of WellFormed -/

theorem test_wf_cluster : (Instr.snop 79).wf = true ∧ (Instr.snop 80).wf = false := by decide
theorem test_wf_slot : (Instr.waitSatisfied 0 4).wf = false := by decide
theorem test_wf_lcid : (Instr.scratchpadFill 0 64).wf = false := by decide
theorem test_wf_part : (Instr.telemetryPeriod 8).wf = false := by decide
theorem test_wf_ctx : (Instr.suspectReplay 0 4096).wf = false := by decide
theorem test_wf_oag : (Instr.oagStart 0 0 2 0).wf = false := by decide
theorem test_wf_swap : (Instr.dbufWrite 0 0 16 0).wf = false := by decide
theorem test_wf_bank : (Instr.bankPowerOnComplete 0 16).wf = false := by decide
theorem test_wf_region : (Instr.outboundBlockCoding 16).wf = false := by decide
theorem test_wf_stream : (Instr.streamIdleReturn 0 64).wf = false := by decide
theorem test_wf_sem : (Instr.semWrite 0 0 256 0).wf = false := by decide
theorem test_wf_bar : (Instr.barrierRelease 0 32).wf = false := by decide
theorem test_wf_wheel : (Instr.wheelPosition 12 0).wf = false ∧ (Instr.wheelPosition 0 64).wf = false := by decide
theorem test_wf_lane : (Instr.blockEmission 0 8).wf = false := by decide
theorem test_wf_lidx : (Instr.liftComplete 8388608).wf = false := by decide
theorem test_wf_sector : (Instr.sectorRefreshRewriteComplete 0 16).wf = false ∧ (Instr.sectorRefreshRewriteComplete 67108864 0).wf = false := by decide
theorem test_wf_stack : (Instr.hbmRefreshDue 4 0 0).wf = false ∧ (Instr.hbmRefreshDue 0 32 0).wf = false ∧ (Instr.hbmRefreshDue 0 0 12).wf = false := by decide
theorem test_wf_frame : (Instr.frameZeroed 2097152).wf = false := by decide
theorem test_wf_engine : (Instr.attentionTaskReady 16).wf = false := by decide
theorem test_wf_handle : (Instr.epochRelease 16 0).wf = false ∧ (Instr.epochRelease 0 2).wf = false ∧ (Instr.shardPlaced 0 0 65536).wf = false := by decide
theorem test_wf_die : (Instr.oppSwitch 4).wf = false := by decide
theorem test_wf_sample : (Instr.powerSample [] []).wf = false ∧ (Instr.powerSample [{ rail := 17, mv := 0, ma := 0 }] (List.replicate 40 0)).wf = false := by decide
theorem test_wf_sensor : (Instr.thermalTrip 40 0).wf = false := by decide
theorem test_wf_hostPort : (Instr.hostPortLinkChange 2 true).wf = false := by decide
theorem test_wf_port : (Instr.portFrameSend 8).wf = false ∧ (Instr.linkCreditTimeout 0 2).wf = false := by decide
theorem test_wf_job : (Instr.flowAcknowledge 65536 0 0 0).wf = false ∧ (Instr.flowAcknowledge 0 512 0 0).wf = false := by decide
theorem test_wf_generation : (Instr.barrierFrame 0 0 0 65536 0 0 false).wf = false := by decide
theorem test_wf_request : (Instr.pwrQuery { req [] with seq := 2 ^ 32 }).wf = false ∧ (Instr.pwrQuery (req [])).wf = true := by decide

/-! ### Worked examples of the spec -/

/-- The ternary byte of +1, 0, −1, −1, +1 (spec/02_numerics.md, ternary packing). -/
theorem test_ternary_byte : (List.range 5).map (ternOf 167) = [1, 0, -1, -1, 1] := by decide

/-- The MXFP4 dot product by hand: two segments joined give 0x41BA7000 (spec/02_numerics.md). -/
theorem test_mxfp4_dot :
    let s0 := segSum ([0x5, 0xA, 0x1, 0x7].map (elemVal 0xA)) ([0x3C, 0x48, 0x26, 0xBA].map (elemVal 0x6))
    let s1 := segSum ([0x6, 0xB, 0x3, 0xD].map (elemVal 0xA)) ([0x40, 0x35, 0x31, 0x2A].map (elemVal 0x6))
    joinF (joinF 0 s0 (-1)) s1 2 = 0x41BA7000#32 := by decide +kernel

/-- Its writeback to BF16 under round to nearest even (spec/02_numerics.md). -/
theorem test_bf16_writeback : (convF fBF16 true true .rne (f32 0x41BA7000#32)).code = 0x41BA := by decide +kernel

/-- The convolution's step in pass (2, 1), at (5, 9), reads word 17,764; a step at its edge is masked (spec/03_matrix_array.md). -/
def convOag : Oag := { regs := [(0, 0x4000), (2, 4), (3, 224), (6, 56 * 65536 + 56), (7, 16 * 65536 + 16), (9, 0x00010303), (10, 1), (11, 0x11111100)], done := false }
theorem test_oag_step : ({ convOag with ky := 2, kx := 1, oy := 5, ox := 9 } : Oag).step.addr = 17764 ∧ convOag.step.masked = true := by decide

/-- The DRAM mapping of offset 0x4_1234_7800: pseudo-channel 28, banks 21 and 22 (spec/08_dram_flash.md). -/
theorem test_hbm_mapping : pchOf 0x412347800 = 28 ∧ bitsAt 0x412347800 14 21 = 1067217 ∧ bankOfBurst (9 * 1067217) = 21 ∧ bankOfBurst (9 * 1067217 + 7) = 22 := by decide

/-- The table of the coded weight block: length bytes, codewords and the first payload bits (spec/09_block_codec.md). -/
def exampleLens : List Nat := [2, 2, 3, 4, 5, 6, 7, 8, 8, 3, 4, 5, 6, 7, 8, 8]
theorem test_codec_image : slice (buildImage 0 exampleLens) 16 8 = [0x22, 0x43, 0x65, 0x87, 0x38, 0x54, 0x76, 0x88] ∧ kraft exampleLens = 4096 := by decide +kernel
theorem test_codec_words : imgCodes (buildImage 0 exampleLens) =
    [(0, 2, 0b00), (1, 2, 0b01), (2, 3, 0b100), (9, 3, 0b101), (3, 4, 0b1100), (10, 4, 0b1101), (4, 5, 0b11100), (11, 5, 0b11101), (5, 6, 0b111100), (12, 6, 0b111101),
     (6, 7, 0b1111100), (13, 7, 0b1111101), (7, 8, 0b11111100), (8, 8, 0b11111101), (14, 8, 0b11111110), (15, 8, 0b11111111)] := by decide +kernel
theorem test_codec_symbols : (symbolsOf 0 [0x91, 0xC0, 0x03]).take 5 = [0x1, 0x9, 0x0, 0xC, 0x3] ∧
    (packBits [false, true, true, false, true, false, false, true, true, true, true, false, true, true, true, false] 2) = [0x69, 0xEE] := by decide
/-- The check value of CRC-32C over the nine digits. -/
theorem test_crc32c : crc32c [0x31, 0x32, 0x33, 0x34, 0x35, 0x36, 0x37, 0x38, 0x39] = 0xE3069283#32 := by decide +kernel

/-- The address of CLU_NUM_STATUS of lcid 5 (spec/13_host_protocol.md). -/
theorem test_reg_address : mkAddr 1 5 0 0x21 = 0x08028021 := by decide

/-- The route of a frame from device 497 to device 22 (spec/14_fabric.md): 8 hops, x by the wrap first. -/
theorem test_route : ({ xs := 8, ys := 8, zs := 8 } : Fabric).path 497 22 24 = [496, 503, 502, 510, 454, 462, 470, 22] := by decide +kernel

/-- A median round trip of 56.0 ns reports 2.5 m (spec/14_fabric.md). -/
theorem test_cable_length : (match exec (.portBringUp 0 { lock := true, loss := 0, fecUe := 0, medianRtt := 560 }) (withPort { st := .measuring }) with
    | .next t => (t.chip.prt 0).length | _ => 0) = 25 := by decide

/-- The steps at T1 and T2 of the power example (spec/15_power_clocks_thermal.md): 15 and 7, and both stay. -/
theorem test_ladder : nextStep 600 74 22 = some 15 ∧ nextStep 7000 446 22 = some 7 ∧ nextStep 70 74 15 = some 15 ∧ nextStep 410 446 7 = some 7 := by decide +kernel
/-- P_reg of 100 W and 350 W under a fixed reserve of 86.75 W (spec/15_power_clocks_thermal.md): 5.95 W at 100 W. -/
theorem test_preg : pregOf 100 86750 = 595 ∧ pregOf 93 86750 = 0 := by decide

/-- BOOT_RGN14 after the boot of the repair example (spec/17_boot_configuration.md). -/
def rgn14 : Chip :=
  { clusters := [(70, { bistPass := true }), (71, { failed := true }), (72, { bistPass := true }), (73, { bistPass := true }), (74, { bistPass := true })],
    boot := { layout := List.range 16 } }
theorem test_boot_rgn : rgn14.readBoot 14 2 = 0xE881F800 := by decide

/-- PWR_SB_TRIP after the trip of sensor 11 at 116 °C, and the address that answers (spec/18_module.md). -/
theorem test_sb_trip : (match exec (.thermalTrip 11 116) ready with | .next t => (sideband t.clk t.mod t.chip 2, sideband t.clk t.mod t.chip 0 / 2 ^ 29, t.mod.alert) | _ => (0, 0, false)) =
    (0x740B0001, 3, true) := by decide
theorem test_alert_address : (match exec .smbusAlertResponse (pinned { vaux := true, trip := true }) with | .next t => t.chip.wire | _ => []) = [.alertAddress 0x2B] := by decide
/-- Clearing trip: 0x0800_0000 to PWR_SB_STATUS lets ALERT_N rise (spec/18_module.md). -/
theorem test_smbus_clear : (match exec (.smbusWrite 0 0x08000000 true) (pinned { vaux := true, trip := true }) with | .next t => t.mod.alert | _ => true) = false := by decide

/-- Physical cluster 57 is in region 3 of die 2 (spec/00_scope.md). -/
theorem test_geometry : dieOf 57 = 2 ∧ regionOf 57 = 2 * 4 + 3 ∧ 57 % 5 = 2 ∧ withCoord (withCoord (withCoord 0 0 5) 1 2) 2 7 = 0x1D5 := by decide

/-- Boot from empty flash: no identity, so recovery mode with cause 3 (spec/17_boot_configuration.md R492). -/
theorem test_boot_empty : (match exec (.bootSequence bootOk) (pinned { st := .sequencing, vaux := true, pwrEn := true }) with | .next t => (t.chip.boot.phase, t.chip.boot.recCause) | _ => (0, 0)) = (7, 3) := by
  decide +kernel

/-! ### One step each -/

/-- A step of the idle block is a nanosecond; a command in front runs. -/
theorem test_step_idle : (match step State.reset with | .next t => t.clk.localNs | _ => 0) = 1 := by decide
theorem test_step_front : (match step { ready with pending := [.hostPortLinkChange 1 true] } with | .next t => (t.chip.host.link1, t.pending) | _ => (false, [])) = (true, []) := by decide

/-- NEXT moves the pointer; LI writes its register, sign-extended, at the aclk's end; the edge that lands it is the control field's. -/
theorem test_next : (match exec (.next 0) ready with | .next t => (t.chip.cl 0).curSlot.ptr | _ => 0) = 1 := by decide +kernel
theorem test_li : (match exec (.li 0 3 0xFFF) (withTab (ent 0 0 0 0x13FFF) ready) with
    | .next t => (match exec (.next 0) t with | .next u => (look 0 (t.chip.cl 0).sreg 3, look 0 (u.chip.cl 0).sreg 3) | _ => (0, 0)) | _ => (0, 0)) = (0, 0xFFFFFFFFFFFFFFFF#64) := by
  decide +kernel

/-- What an entry's words name, written out from R122, R127, R142, R147 and R152: FRONT of frond 5, VADD v1 v2 v3, WAITSEM 7 of budget 1 and 2 units,
LI s3, LOOP of level 1 and count 9; reserved codes name nothing. -/
theorem test_entry_words :
    let e := ent 0b001_0101_0110_0110_0011_0000000000010 0b000100_0001_0010_0011_00000000000000 0b0001_00000111_01_000010 0b0001_0011_111111111111 1 1 9
    entryOp 0 0 e 0 = some (some (.front 0 5 6 6 3 2)) ∧ entryOp 0 0 e 1 = some (some (.vadd 0 1 2 3)) ∧ entryOp 0 0 e 2 = some (some (.waitsem 0 7 1 2)) ∧
    entryOp 0 0 e 3 = some (some (.li 0 3 0xFFF)) ∧ entryControl 0 e = .loop 0 1 9 ∧
    entryOp 0 0 (ent 0x80000000 0 0 0) 0 = none ∧ entryOp 0 0 (ent 0 0x64000000 0 0) 1 = none ∧ entryOp 0 0 (ent 0 0 0xB0000 0) 2 = none ∧ entryOp 0 0 (ent 0 0 0 0xF0000) 3 = none := by
  decide +kernel

/-- PWR_CAP of 44 W is held at 45 W and answered CAP_CLAMPED (spec/15_power_clocks_thermal.md R442). -/
theorem test_pwr_cap : (match exec (.pwrCap (req [0, 44, 0, 0])) ready with | .next t => (t.chip.power.capNext, t.chip.wire) | _ => (0, [])) =
    (45, [.reply 0 0 0 1 1 .capClamped []]) := by decide

/-- MEM_WRITE and MEM_READ through a mapped page (spec/13_host_protocol.md R392). -/
theorem test_mem_write_read : (match exec (.memWrite (req (toBe 65536 8 ++ toBe 2 4 ++ zeros 4 ++ [0xAB, 0xCD]))) mapped with
    | .next t => t.chip.hbm | _ => []) = [(458752, 0xAB), (458753, 0xCD)] := by decide +kernel

/-- A semaphore write is on its way to the region's sync unit (spec/06_streams_barriers.md R207, R513). -/
theorem test_sem_write : (match exec (.semWrite 0 0 2 9) ready with | .next t => (t.chip.rg 0).semFlight.map fun x => (x.1, x.2.1) | _ => []) = [(2, 9)] := by decide +kernel

/-- A barrier whose members have all arrived releases: its generation rises by 1 (spec/06_streams_barriers.md R209). -/
theorem test_barrier : (match exec (.barrierRelease 0 0) (withBar { mask := 1, released := 1, relCkpt := [false] }) with | .next t => ((t.chip.pt 0).bar 0).gen | _ => 0) = 1 := by
  decide +kernel

/-- R379, R382: a reply's header repeats the request and carries its own status and stamp. -/
theorem test_reply_header : (packetHeader 1 0x0701 Status.capClamped.code 3 5 0 9 7 11).take 20 =
    [0xA5, 0xC1, 1, 1, 0x07, 0x01, 0x05, 0x02, 0x60, 0x0A, 0, 0, 0, 0, 0, 9, 0, 0, 0, 0] := by decide

end Sys2Proof.Tests
end

/-! # The clocks over one nanosecond, and the step of an empty queue (O2) -/

namespace Sys2Proof.Machine

/-! The three ways the clocks pass a nanosecond (spec/13_host_protocol.md R377), an equation for each. -/

theorem Clock.tick_of_no_slew {k : Clock} (h : (k.localNs + 1) % 10000 ≠ 0 ∨ k.slew = 0) :
    k.tick = { k with localNs := k.localNs + 1, timebase := wrap64 (k.timebase + 1) } := by
  simp [Clock.tick, h]

theorem Clock.tick_of_slew_pos {k : Clock} (hn : (k.localNs + 1) % 10000 = 0) (hs : 0 < k.slew) :
    k.tick = { k with localNs := k.localNs + 1, timebase := wrap64 (k.timebase + 2), slew := k.slew - 1 } := by
  simp [Clock.tick, hn, hs, hs.ne']

theorem Clock.tick_of_slew_neg {k : Clock} (hn : (k.localNs + 1) % 10000 = 0) (hs : k.slew < 0) :
    k.tick = { k with localNs := k.localNs + 1, slew := k.slew + 1 } := by
  simp [Clock.tick, hn, hs.ne, hs.not_gt]

/-- The local count is never stepped or slewed (R378). -/
@[simp] theorem Clock.tick_localNs (k : Clock) : k.tick.localNs = k.localNs + 1 := by
  simp only [Clock.tick]
  split_ifs <;> rfl

/-- Between the instants at which a slew acts, the timebase counts nanoseconds in its 64 bits (R14). -/
theorem Clock.tick_timebase_of_no_slew {k : Clock} (h : (k.localNs + 1) % 10000 ≠ 0 ∨ k.slew = 0) :
    k.tick.timebase = (k.timebase + 1) % 2 ^ 64 := by
  rw [Clock.tick_of_no_slew h]
  rfl

/-- A slew holds the timebase for a nanosecond or adds one to it, and does no more (R377). -/
theorem Clock.tick_timebase_cases (k : Clock) :
    k.tick.timebase = k.timebase ∨ k.tick.timebase = (k.timebase + 1) % 2 ^ 64 ∨
      k.tick.timebase = (k.timebase + 2) % 2 ^ 64 := by
  by_cases hn : (k.localNs + 1) % 10000 = 0
  · obtain hs | hs | hs := lt_trichotomy k.slew 0
    · exact .inl (by rw [Clock.tick_of_slew_neg hn hs])
    · exact .inr (.inl (Clock.tick_timebase_of_no_slew (.inr hs)))
    · exact .inr (.inr (by rw [Clock.tick_of_slew_pos hn hs]; rfl))
  · exact .inr (.inl (Clock.tick_timebase_of_no_slew (.inl hn)))

/-! What a nanosecond leaves of the state. -/

@[simp] theorem tick_clk (s : State) : (tick s).clk = s.clk.tick := rfl

@[simp] theorem tick_mod (s : State) : (tick s).mod = s.mod := rfl

@[simp] theorem tick_pending (s : State) : (tick s).pending = s.pending := rfl

/-- A block that is not READY has no edges to deliver. -/
theorem tick_chip_of_not_ready {s : State} (h : s.chip.boot.phase ≠ 6) : (tick s).chip = s.chip := by
  simp [tick, Chip.ready, h]

/-- Settles O2: an idle step is `tick`, whose clocks pass a nanosecond in one of three ways. -/
theorem idleStepPassesOneNanosecond : Obligations.IdleStepPassesOneNanosecond := by
  intro s hidle
  exact ⟨tick s, step_idle hidle, tick_mod s, (tick_pending s).trans hidle, Clock.tick_localNs s.clk,
    Clock.tick_timebase_cases s.clk, fun hn => Clock.tick_timebase_of_no_slew (.inl hn),
    tick_chip_of_not_ready⟩

end Sys2Proof.Machine

/-! # Every command answers a next state and keeps the queue (O3) -/

namespace Sys2Proof.Machine

/-- The commands that may change the clocks: time sync (spec/13_host_protocol.md R377), and the two ways into a package reset, which
loses the synchronisation. -/
def maySetClocks : Instr → Bool
  | .timeSyncMessage .. | .timeSyncLoss .. | .packageReset .. | .resetNAssert .. => true
  | _ => false

/-- The commands that may change the module's pins, so far as it shows without their conditions: supplies, PWR_EN and RESET_N, boot, trip and power samples,
SMBus writes and the scan chain (spec/18_module.md R499 to R511), telemetry, and a package reset with the watches over it. -/
def maySetPins : Instr → Bool
  | .pwrEnRise | .pwrEnFall | .powerOffHoldEnd | .vinEntersRange .. | .vinLockout .. | .vauxChange .. => true
  | .resetNAssert .. | .resetNRelease | .bootSequence .. | .bootReady | .thermalTrip .. | .tripHoldEnd => true
  | .powerSample .. | .smbusWrite .. | .debugScanAccess .. | .telemetryPeriod .. => true
  | .packageReset .. | .stepWatchdogExpiry .. | .mgmtStartTimeout => true
  | _ => false

/-- Every command answers a next state on the queue it was given, without an exception entry (log entry 54), and leaves the clocks and
the pins unless it may set them: its meaning is `onChip`, `onClock`, `onModule` or `onAll` of what it does. -/
theorem exec_next_frame (i : Instr) (s : State) :
    ∃ t, exec i s = .next t ∧ t.pending = s.pending ∧ (maySetClocks i = false → t.clk = s.clk) ∧ (maySetPins i = false → t.mod = s.mod) := by
  cases i with
  | timeSyncMessage | timeSyncLoss => exact ⟨_, rfl, rfl, nofun, fun _ => rfl⟩
  | packageReset | resetNAssert => exact ⟨_, rfl, rfl, nofun, nofun⟩
  | pwrEnRise | pwrEnFall | powerOffHoldEnd | vinEntersRange | vinLockout | vauxChange | resetNRelease | bootSequence | bootReady
  | thermalTrip | tripHoldEnd | powerSample | smbusWrite | debugScanAccess | telemetryPeriod | stepWatchdogExpiry
  | mgmtStartTimeout => exact ⟨_, rfl, rfl, fun _ => rfl, nofun⟩
  | _ => exact ⟨_, rfl, rfl, fun _ => rfl, fun _ => rfl⟩

/-- Settles O3: the answer and the queue are two of the things every command's frame gives. -/
theorem everyCommandAnswers : Obligations.EveryCommandAnswers := by
  intro i s
  obtain ⟨t, hnext, hqueue, -, -⟩ := exec_next_frame i s
  exact ⟨t, hnext, hqueue⟩

end Sys2Proof.Machine

/-! # What reset leaves (O10) -/

namespace Sys2Proof.Machine

/-! The stores of the block are empty at reset, so that every cluster, region and port reads as its default, the reset column of its tables. -/

@[simp] theorem State.reset_cl (c : Nat) : State.reset.chip.cl c = {} := rfl

@[simp] theorem State.reset_rg (r : Nat) : State.reset.chip.rg r = {} := rfl

@[simp] theorem State.reset_prt (p : Nat) : State.reset.chip.prt p = {} := rfl

/-- The numeric registers and the address generators of a cluster at reset (spec/02_numerics.md R82, R83, R85; spec/03_matrix_array.md R112;
spec/05_scratchpad.md R173); every generator's register 11 holds strides and dilations of 1. -/
theorem State.reset_cluster (c : Nat) : let x := State.reset.chip.cl c
    x.satFp = true ∧ x.num = {} ∧ x.seedLo = 0 ∧ x.bankPwr = 0 ∧ look 0 x.oag0.regs 11 = 0x00111100 ∧ look 0 x.oag1.regs 11 = 0x00111100 := by
  rw [State.reset_cl]
  exact ⟨rfl, rfl, rfl, rfl, rfl, rfl⟩

/-- Every semaphore of every region starts at 0 (R207). -/
theorem State.reset_sem (r k : Nat) : look 0 (State.reset.chip.rg r).sems k = 0 := by
  rw [State.reset_rg, look_nil]

/-- Every fabric port starts disabled (R423). -/
theorem State.reset_port (p : Nat) : (State.reset.chip.prt p).st = .disabled := by
  rw [State.reset_prt]

/-- Before boot's last phase the block takes no work. -/
theorem State.reset_not_ready : State.reset.chip.ready = false := rfl

/-- With every alert bit clear ALERT_N is high (R511). -/
theorem State.reset_no_alert : State.reset.mod.alert = false := rfl

/-- Settles O10: what is indexed by cluster, region or port reads as the default of an empty store, and the rest are fields of the reset state. -/
theorem resetValues : Obligations.ResetValues :=
  ⟨rfl, rfl, State.reset_not_ready, State.reset_no_alert, rfl, State.reset_cluster, State.reset_sem, State.reset_port, rfl, rfl, rfl, rfl,
    by decide⟩

end Sys2Proof.Machine

/-! # The array field: FRONT, ISSUE and MODE (O27) -/

namespace Sys2Proof.Machine

/-! A cluster written, and its slots and ports claimed. -/

/-- A cluster other than the default reads back as it was written, in canonical form or not. -/
theorem Chip.modCl_cl_of_ne_default (ch : Chip) (c : Nat) {x : Cluster} (h : x ≠ {}) : (ch.modCl c fun _ => x).cl c = x :=
  look_put_of_ne ({} : Cluster) ch.clusters c h

/-- A cluster that holds a port is not the default one. -/
theorem Cluster.ne_default_of_ports {x : Cluster} (h : x.ports ≠ []) : x ≠ {} := by
  rintro rfl
  exact h rfl

/-- Free slots are claimed (R161). -/
theorem Cluster.claim_of_free {x : Cluster} {us : List SlotUse} (h : Claims.UsesFree x us) :
    x.claim us = some { x with uses := x.uses ++ us } := by
  obtain ⟨hself, hfree⟩ := h
  have hheld : us.any (fun u => x.uses.contains u) = false := by simpa using fun u hu => (hfree u hu).1
  have hoff : us.any (fun u => !x.bankOn u.2.2) = false := by simpa using fun u hu => (hfree u hu).2
  simp only [Cluster.claim, hself, hheld, hoff]
  rfl

/-- Free ports are claimed (R149). -/
theorem Cluster.claimPorts_of_free {x : Cluster} {ps : List (Nat × Nat)} (h : Claims.PortsFree x ps) :
    x.claimPorts ps = some { x with ports := x.ports ++ ps } := by
  have hheld : ps.any (fun p => x.ports.contains p) = false := by simpa using h
  simp only [Cluster.claimPorts, hheld]
  rfl

/-- Reading words without errors does nothing beside delivering them (R157). -/
theorem Chip.eccReads_of_no_errors {ch : Chip} (k : Clock) {c : Nat} (ctx : Nat) {ws : List Nat} (h : ∀ w ∈ ws, (ch.cl c).errs w = 0) :
    ch.eccReads k c ctx ws = ch := by
  have hnone : ws.filter (fun w => (ch.cl c).errs w ≠ 0) = [] := by simpa using h
  simp only [Chip.eccReads, hnone, List.foldl_nil]

/-- A field that fires and changes its cluster by f leaves the state of its claim. -/
theorem after_field_of_fires {s : State} {c j : Nat} {i : Instr} {f : Cluster → Cluster} (hfires : Claims.Fires s c i j) (hwait : waitOf i = none)
    (hfield : fieldOf i s.clk s.chip (s.chip.cl c) = some (s.chip.modCl c f)) :
    Claims.after s (field c i s.clk s.chip) = Claims.acts s c j f := by
  obtain ⟨hdue, hlegal⟩ := hfires
  rw [field_acts hdue hwait hlegal hfield]
  rfl

/-! FRONT (spec/03_matrix_array.md R95, R98, R102 to R104). -/

/-- FRONT: each check of the front finds its condition met, its slots are claimed, and it starts. -/
theorem front_of_admitted : Claims.frontRow := by
  intro s c frond wfmt afmt sa off hfires
  dsimp only
  intro p hpair hmode hfrond halign hlast hrow hseg hbus huses
  refine congrArg Host.Outcome.next (after_field_of_fires hfires rfl ?_)
  show fieldFront c frond wfmt afmt sa off s.clk s.chip (s.chip.cl c) = _
  simp only [fieldFront, Cluster.frontOf, hpair]
  rw [if_neg, if_neg, if_neg, if_neg, if_neg]
  · dsimp only
    rw [Cluster.claim_of_free huses]
    rfl
  case hnc => -- the column's bus
    simpa using hbus
  case hnc => -- segments still written
    simpa using hseg
  case hnc => -- the frond's reading
    simpa [imp_iff_not_or] using hrow
  case hnc => -- vectors issued before
    split
    · next v hv => simpa using hlast v hv
    · exact Bool.false_ne_true
  case hnc => -- mode, frond and alignment
    simp [hmode, hfrond, halign]

/-! MODE (spec/03_matrix_array.md R106). -/

/-- MODE: an empty array admits the change. -/
theorem mode_of_empty : Claims.modeRow := by
  intro s c m hfires hm hempty
  refine congrArg Host.Outcome.next (after_field_of_fires hfires rfl ?_)
  show fieldMode c m s.clk s.chip (s.chip.cl c) = _
  simp only [fieldMode, hm, hempty]
  rfl

/-! ISSUE (spec/03_matrix_array.md R91, R98, R108, R110 to R114; spec/04_cluster.md R144). -/

/-- The generator's walk over, no lane has a step and the generator stays (R114). -/
theorem Oag.draw_of_done {o : Oag} (h : o.done = true) (n : Nat) : o.draw n = (List.replicate n none, o) := by
  cases n with
  | zero => rfl
  | succ n => simp [Oag.draw, h]

/-- One generator written, the other kept. -/
theorem Cluster.setOag_eq (x : Cluster) (g : Bool) (o : Oag) :
    x.setOag g o = { x with oag0 := if g then x.oag0 else o, oag1 := if g then o else x.oag1 } := by
  cases g <;> rfl

/-- What an ISSUE claims: slots and ports that are both free (R149, R161). -/
theorem Cluster.claim_bind_claimPorts_of_free {x : Cluster} {us : List SlotUse} {ps : List (Nat × Nat)} (hus : Claims.UsesFree x us)
    (hps : Claims.PortsFree x ps) :
    ((x.claim us).bind fun y => y.claimPorts ps) = some { x with uses := x.uses ++ us, ports := x.ports ++ ps } := by
  rw [Cluster.claim_of_free hus, Option.bind_some]
  exact Cluster.claimPorts_of_free hps

/-- An ISSUE that names a port claims one. -/
theorem issuePorts_ne_nil (t : Nat) {ports : BitVec 2} (h : ports ≠ 0) :
    (if ports.getLsbD 0 then [(t, 0)] else []) ++ (if ports.getLsbD 1 then [(t, 1)] else []) ≠ [] := by
  have hbit : ports.getLsbD 0 = true ∨ ports.getLsbD 1 = true := by
    revert ports
    decide
  obtain hbit | hbit := hbit <;> simp [hbit]

/-- Cluster x after an ISSUE that claimed slots us and ports ps, drew from generator gen up to o and put vectors vs into the fronds of set; nan is its
status bit, and it counts macs multiplications of class cls. -/
def Cluster.issued (x : Cluster) (us : List SlotUse) (ps : List (Nat × Nat)) (gen : Bool) (o : Oag) (set : List Nat) (vs : List VecFlight) (nan : Bool)
    (cls macs : Nat) : Cluster :=
  { x with
    uses := x.uses ++ us, ports := x.ports ++ ps, oag0 := if gen then x.oag0 else o, oag1 := if gen then o else x.oag1, num := x.num.or { scaleNan := nan },
    arr := { x.arr with vecs := x.arr.vecs ++ vs, fronds := set.foldl (fun m f => upd {} m f fun z => { z with lastVec := some x.aclk }) x.arr.fronds },
    activity := upd 0 (upd 0 x.activity cls (· + macs)) 3 (· + us.length) }

section
variable (x : Cluster) (us : List SlotUse) (ps : List (Nat × Nat)) (gen : Bool) (o : Oag) (set : List Nat) (vs : List VecFlight) (nan : Bool)
  (cls macs : Nat)

theorem Cluster.issued_oag : (x.issued us ps gen o set vs nan cls macs).oag gen = o := by
  cases gen <;> rfl

theorem Cluster.issued_oag_not : (x.issued us ps gen o set vs nan cls macs).oag (!gen) = x.oag (!gen) := by
  cases gen <;> rfl

/-- The words an ISSUE reads hold no errors, so that reading them after it does no more (R157). -/
theorem Chip.eccReads_issued (ch : Chip) (k : Clock) (c ctx : Nat) {ws : List Nat} (hps : ps ≠ []) (hws : ∀ w ∈ ws, x.errs w = 0) :
    (ch.modCl c fun _ => x.issued us ps gen o set vs nan cls macs).eccReads k c ctx ws =
      ch.modCl c fun _ => x.issued us ps gen o set vs nan cls macs := by
  have hne : x.issued us ps gen o set vs nan cls macs ≠ {} := Cluster.ne_default_of_ports (List.append_ne_nil_of_right_ne_nil _ hps)
  refine Chip.eccReads_of_no_errors k ctx fun w hw => ?_
  rw [Chip.modCl_cl_of_ne_default ch c hne]
  exact hws w hw

end

/-- ISSUE: each check of the share set finds its condition met, slots and ports are claimed, and the vectors go in. -/
theorem issue_of_admitted : Claims.issueRow := by
  intro s c frond share e0 gen acc ports hfires x fr f p side d scaled lanes ws uses ps add set hset hmode hfrond hacc hshare hports hwidth huses hfree herrs
  let vs := set.flatMap fun g => lanes.map fun l => x.laneVec c g e0.toNat scaled (decide add) l.1 l.2
  let nan := scaled && vs.any fun v => v.scales.any fun b => decide (b = 0xFF)
  have hadd : (decide (acc = 1) || decide (acc = 2) && !x.curSlot.firstIter) = decide add := by simp [add]
  refine ⟨x.issued uses ps gen d.2 set vs nan (if p.row then 1 else 0) (lanes.length * set.length * side * side * p.w),
    congrArg Host.Outcome.next (after_field_of_fires hfires rfl ?_), rfl, rfl,
    Cluster.issued_oag .., Cluster.issued_oag_not .., rfl, rfl, rfl, rfl, rfl, rfl, rfl, rfl⟩
  show fieldIssue c frond share e0 gen acc ports s.clk s.chip x = _
  simp only [fieldIssue, show shareSet (perOf x.arr.side) frond.toNat share.toNat = some set from hset]
  rw [if_neg, if_neg, if_neg, if_neg, hadd, Cluster.claim_bind_claimPorts_of_free huses hfree, Option.map_some, Cluster.setOag_eq]
  · refine congrArg some (Chip.eccReads_issued x uses ps gen d.2 set vs nan _ _ s.chip s.clk c _ (issuePorts_ne_nil _ hports) ?_)
    intro w hw
    obtain ⟨words, hwords, hmem⟩ := List.mem_flatMap.1 hw
    obtain ⟨b, hb, rfl⟩ := List.mem_map.1 hmem
    exact herrs words hwords b hb
  case hnc => -- ports
    simpa using ⟨hports, hwidth⟩
  case hnc => -- timing of each frond
    simpa using fun g hg => (hshare g hg).2.2.2
  case hnc => -- formats
    intro hany
    obtain ⟨g, hg, hbad⟩ := List.any_eq_true.1 hany
    obtain ⟨hafmt, hlanes, hrow, -⟩ := hshare g hg
    simp [hafmt, hlanes, hrow, f, p, fr] at hbad
  case hnc => -- mode, frond and accumulation
    simpa using ⟨⟨hmode, hfrond⟩, hacc⟩

/-- ISSUE of an empty walk: its one frond is a share set of its own, and no lane draws a step. -/
theorem issue_of_walk_done : Claims.issueEmptyRow := by
  intro s c frond e0 gen acc ports hfires
  dsimp only
  intro hmode hfrond hacc htimely hports hwidth hfree hdone _
  have hnone : ∀ n, (List.replicate n (none : Option (Nat × OagStep))).filterMap id = [] := fun _ => List.filterMap_replicate_of_none rfl
  have hrow := issue_of_admitted s c frond 0 e0 gen acc ports hfires [frond.toNat] rfl hmode hfrond hacc
    (by simpa using htimely) hports hwidth
  simp only [Oag.draw_of_done hdone, hnone, List.filter_nil, List.map_nil, List.flatMap_nil, List.flatMap_cons, List.append_nil] at hrow
  obtain ⟨t, hexec, hvecs, hfronds, hdrawn, hother, huses, hps, hfile, -, hsreg, hvreg, hspd, hflight⟩ := hrow ⟨rfl, nofun⟩ hfree nofun
  have hoags : t.oag0 = (s.chip.cl c).oag0 ∧ t.oag1 = (s.chip.cl c).oag1 := by
    cases gen
    · exact ⟨hdrawn, hother⟩
    · exact ⟨hother, hdrawn⟩
  exact ⟨t, hexec, hps, hvecs, hfile, hoags.1, hoags.2, hfronds, huses, hspd, hvreg, hsreg, hflight⟩

/-- Settles O27: the rows of the array field, each admitted by its conditions. -/
theorem arrayRows : Obligations.ArrayRows :=
  ⟨front_of_admitted, issue_of_walk_done, issue_of_admitted, mode_of_empty⟩

end Sys2Proof.Machine

/-! # Fields of a schedule entry leave memory, flash, models, keys, pins and clocks (O21) -/

namespace Sys2Proof.Machine

/-- What the device holds beside its clusters, partitions and queues: HBM with its errors, frames, flash, models, security state and sequences. -/
def Chip.stores (ch : Chip) : List Host.Cell × Store (BitVec 288) × Store Frame × Flash × Store Model × Security × Store KvSeq :=
  (ch.hbm, ch.hbmErr, ch.frames, ch.flash, ch.models, ch.sec, ch.seqs)

/-! The shared operations that leave the stores. -/

@[simp] theorem Chip.modCl_stores (ch : Chip) (c : Nat) (f : Cluster → Cluster) : (ch.modCl c f).stores = ch.stores := rfl

@[simp] theorem Chip.modRg_stores (ch : Chip) (r : Nat) (f : Region → Region) : (ch.modRg r f).stores = ch.stores := rfl

@[simp] theorem Chip.act_stores (ch : Chip) (c j : Nat) : (ch.act c j).stores = ch.stores := rfl

theorem foldl_stores {α : Type} (f : Chip → α → Chip) (h : ∀ ch a, (f ch a).stores = ch.stores) (l : List α) (ch : Chip) :
    (l.foldl f ch).stores = ch.stores := by
  induction l generalizing ch with
  | nil => rfl
  | cons a t ih => rw [List.foldl_cons, ih, h]

@[simp] theorem Chip.sendEvent_stores (ch : Chip) (sid : Nat) (ev : Event) : (ch.sendEvent sid ev).stores = ch.stores := by
  unfold Chip.sendEvent
  split
  · rfl
  · dsimp only
    split <;> rfl

@[simp] theorem Chip.raise_stores (ch : Chip) (k : Clock) (p code : Nat) (st : Status) (ctx : Nat) (b : List Byte) :
    (ch.raise k p code st ctx b).stores = ch.stores :=
  foldl_stores _ (fun c _ => c.sendEvent_stores _ _) _ _

@[simp] theorem Chip.faultEvent_stores (ch : Chip) (k : Clock) (ps : List Nat) (cause phase : Nat) (u : RecUnit) (detail ctx : Nat) :
    (ch.faultEvent k ps cause phase u detail ctx).stores = ch.stores :=
  foldl_stores _ (fun c _ => c.raise_stores _ _ _ _ _ _) _ _

@[simp] theorem Chip.enqueue_stores (ch : Chip) (f : FaultRec) : (ch.enqueue f).stores = ch.stores := by
  unfold Chip.enqueue
  dsimp only
  split
  · split <;> rfl
  · rfl

@[simp] theorem Chip.abandon_stores (ch : Chip) (k : Clock) (x : RecStep) : (ch.abandon k x).stores = ch.stores := by
  have hevent : (if x.cause = 0 then ch else ch.faultEvent k x.parts x.cause 2 x.unit x.detail).stores = ch.stores := by
    split
    · rfl
    · exact Chip.faultEvent_stores ..
  unfold Chip.abandon
  dsimp only
  split <;> exact hevent

/-- A fault sends events and queues recovery, and does no more to the device. -/
@[simp] theorem Chip.fault_stores (ch : Chip) (k : Clock) (cause : Nat) (u : RecUnit) (detail ctx : Nat) :
    (ch.fault k cause u detail ctx).stores = ch.stores := by
  unfold Chip.fault
  dsimp only
  rw [apply_ite Chip.stores, apply_ite Chip.stores, foldl_stores _ (fun c x => by simp), foldl_stores _ (fun c x => by simp)]
  simp only [Chip.enqueue_stores, Chip.faultEvent_stores]
  exact (ite_congr rfl (fun _ => rfl) fun _ => ite_self _).trans (ite_self _)

@[simp] theorem Chip.illegal_stores (ch : Chip) (k : Clock) (c : Nat) : (ch.illegal k c).stores = ch.stores := by
  simp [Chip.illegal]

@[simp] theorem Chip.eccReads_stores (ch : Chip) (k : Clock) (c ctx : Nat) (ws : List Nat) : (ch.eccReads k c ctx ws).stores = ch.stores := by
  refine foldl_stores _ (fun h w => ?_) _ _
  split
  · rfl
  · split
    · simp
    · rfl

/-! What the fields of the units come to. -/

/-- A field that, where it is legal, leaves the stores. -/
def KeepsStores (f : Field) : Prop := ∀ (k : Clock) (ch t : Chip) (x : Cluster), f k ch x = some t → t.stores = ch.stores

theorem stores_of_map_eq_some {α : Type} {ch t : Chip} {o : Option α} {f : α → Chip} (h : o.map f = some t) (hf : ∀ a, (f a).stores = ch.stores) :
    t.stores = ch.stores := by
  obtain ⟨a, -, rfl⟩ := Option.map_eq_some_iff.1 h
  exact hf a

/-- A field that is legal always and does what leaves the stores, as the operations of the vector unit on registers do. -/
theorem keepsStores_of_some {f : Field} {g : Clock → Chip → Cluster → Chip} (hf : f = fun k ch x => some (g k ch x))
    (hg : ∀ k ch x, (g k ch x).stores = ch.stores) : KeepsStores f := by
  subst hf
  intro k ch t x h
  obtain rfl := Option.some.inj h
  exact hg k ch x

theorem scalarOp_keepsStores (c : Nat) (sd : BitVec 4) (f : Cluster → DWord) : KeepsStores (scalarOp c sd f) :=
  fun _ _ _ _ h => stores_of_map_eq_some h fun _ => rfl

theorem fieldFront_keepsStores (c : Nat) (frond wfmt afmt sa : BitVec 4) (off : BitVec 13) : KeepsStores (fieldFront c frond wfmt afmt sa off) := by
  intro k ch t x h
  unfold fieldFront at h
  dsimp only at h
  split at h
  · cases h
  · exact stores_of_map_eq_some h fun _ => rfl

theorem fieldIssue_keepsStores (c : Nat) (frond : BitVec 4) (share : BitVec 2) (e0 : BitVec 8) (gen : Bool) (acc ports : BitVec 2) :
    KeepsStores (fieldIssue c frond share e0 gen acc ports) := by
  intro k ch t x h
  unfold fieldIssue at h
  dsimp only at h
  split at h
  · cases h
  · obtain ⟨-, -, -, -, h⟩ : _ ∧ _ ∧ _ ∧ _ ∧ _ := by simpa only [Option.ite_none_left_eq_some] using h
    exact stores_of_map_eq_some h fun _ => Chip.eccReads_stores ..

theorem fieldMode_keepsStores (c : Nat) (m : BitVec 2) : KeepsStores (fieldMode c m) := by
  intro k ch t x h
  obtain ⟨-, h⟩ := Option.ite_none_left_eq_some.1 h
  obtain rfl := Option.some.inj h
  rfl

theorem fieldVld_keepsStores (c : Nat) (vd sa ss : BitVec 4) (post port : Bool) (fmt : BitVec 4) (raw : Bool) :
    KeepsStores (fieldVld c vd sa ss post port fmt raw) := by
  intro k ch t x h
  unfold fieldVld at h
  exact stores_of_map_eq_some (Option.ite_none_left_eq_some.1 h).2 fun _ => Chip.eccReads_stores ..

theorem fieldVst_keepsStores (c : Nat) (vs sa ss : BitVec 4) (post : Bool) (shift : BitVec 5) (fmt : BitVec 4) (sr raw srcint : Bool) :
    KeepsStores (fieldVst c vs sa ss post shift fmt sr raw srcint) := by
  intro k ch t x h
  unfold fieldVst at h
  exact stores_of_map_eq_some (Option.ite_none_left_eq_some.1 h).2 fun _ => rfl

theorem fieldLdn_keepsStores (c : Nat) (sd sa : BitVec 4) (imm : BitVec 8) : KeepsStores (fieldLdn c sd sa imm) :=
  fun _ _ _ _ h => stores_of_map_eq_some h fun _ => Chip.eccReads_stores ..

theorem fieldStn_keepsStores (c : Nat) (sb sa : BitVec 4) (imm : BitVec 8) : KeepsStores (fieldStn c sb sa imm) :=
  fun _ _ _ _ h => stores_of_map_eq_some h fun _ => Chip.eccReads_stores ..

theorem fieldWreg_keepsStores (c : Nat) (num : BitVec 8) (sa : BitVec 4) : KeepsStores (fieldWreg c num sa) := by
  intro k ch t x h
  obtain ⟨-, h⟩ := Option.ite_none_left_eq_some.1 h
  obtain rfl := Option.some.inj h
  rfl

theorem fieldRdreg_keepsStores (c : Nat) (sd : BitVec 4) (num : BitVec 8) : KeepsStores (fieldRdreg c sd num) :=
  fun _ _ _ _ h => stores_of_map_eq_some (Option.ite_none_left_eq_some.1 h).2 fun _ => rfl

/-- A field that acts within its cluster leaves the stores. -/
theorem fieldOf_keepsStores {i : Instr} (hi : Claims.ofEntry i = true) : KeepsStores (fieldOf i) := by
  cases i with
  | anop | vnop | ynop | snop | phaseHint => exact keepsStores_of_some rfl fun _ _ _ => rfl
  | front => apply fieldFront_keepsStores
  | issue => apply fieldIssue_keepsStores
  | mode => apply fieldMode_keepsStores
  | vld => apply fieldVld_keepsStores
  | vst => apply fieldVst_keepsStores
  | vadd | vsub | vmul | vfma | vmax | vmin | vadds | vmuls | vexp2 | vexp | vrcp | vrsqrt | vdiv | vsumr | vmaxr | vabs | vneg | vcvtif | vcvtfi | viadd
  | vmov | accrd => exact keepsStores_of_some rfl fun _ _ _ => rfl
  | li | lui | add | sub | addi | and | or | xor | shl | shr => apply scalarOp_keepsStores
  | ldn => apply fieldLdn_keepsStores
  | stn => apply fieldStn_keepsStores
  | wreg => apply fieldWreg_keepsStores
  | rdreg => apply fieldRdreg_keepsStores
  | _ => exact absurd hi Bool.false_ne_true

/-- A field of the units does not wait (R127). -/
theorem waitOf_of_ofEntry {i : Instr} (hi : Claims.ofEntry i = true) : waitOf i = none := by
  cases i with
  | waitsem | waitbar | arrwait | ckpt | waithalf => exact absurd hi Bool.false_ne_true
  | _ => rfl

/-- Whether it acts, does not, or stops its slot, a field of the units leaves the stores. -/
theorem field_stores {i : Instr} (hi : Claims.ofEntry i = true) (c : Nat) (k : Clock) (ch : Chip) : (field c i k ch).stores = ch.stores := by
  unfold field
  rw [waitOf_of_ofEntry hi]
  split
  · rfl
  · dsimp only
    split
    · simp
    · split
      · next hf => rw [Chip.act_stores, fieldOf_keepsStores hi _ _ _ _ hf]
      · simp

theorem exec_of_ofEntry {i : Instr} (hi : Claims.ofEntry i = true) (s : State) : ∃ c, exec i s = .next { s with chip := field c i s.clk s.chip } := by
  cases i with
  | phaseHint | anop | vnop | ynop | snop | front | issue | mode | li | lui | add | sub | addi | and | or | xor | shl | shr | rdreg | wreg | ldn | stn
  | vld | vst | accrd | vadd | vsub | vmul | vfma | vmax | vmin | vadds | vmuls | vexp2 | vexp | vrcp | vrsqrt | vdiv | vsumr | vmaxr | vabs | vneg
  | vcvtif | vcvtfi | viadd | vmov => exact ⟨_, rfl⟩
  | _ => exact absurd hi Bool.false_ne_true

/-- A control field may set neither clocks nor pins. -/
theorem maySet_of_ofControl {i : Instr} (hi : Claims.ofControl i = true) : maySetClocks i = false ∧ maySetPins i = false := by
  cases i with
  | next | loop | endLoop | endSlot => exact ⟨rfl, rfl⟩
  | _ => exact absurd hi Bool.false_ne_true

/-- Settles O21: a field of the units changes only the block and leaves its stores; a control field has the frame of every command. -/
theorem scheduleEntriesLeaveTheRest : Obligations.ScheduleEntriesLeaveTheRest := by
  constructor
  · intro i s t hi hexec
    obtain ⟨c, hfield⟩ := exec_of_ofEntry hi s
    obtain rfl := Host.Outcome.next.inj (hfield.symm.trans hexec)
    have hstores := field_stores hi c s.clk s.chip
    simp only [Chip.stores, Prod.mk.injEq] at hstores
    obtain ⟨hhbm, herr, hframes, hflash, hmodels, hsec, hseqs⟩ := hstores
    exact ⟨hhbm, herr, hframes, hflash, hmodels, hsec, hseqs, rfl, rfl⟩
  · intro i s t hi hexec
    obtain ⟨hclocks, hpins⟩ := maySet_of_ofControl hi
    obtain ⟨u, hnext, hqueue, hclk, hmod⟩ := exec_next_frame i s
    obtain rfl := Host.Outcome.next.inj (hnext.symm.trans hexec)
    exact ⟨hmod hpins, hclk hclocks, hqueue⟩

end Sys2Proof.Machine

/-! # The sequencer's rows (O23) -/

namespace Sys2Proof.Machine

/-! ### The control fields (spec/04_cluster.md R122 to R125, R139) -/

/-- A control field that ends its legal entry does what it does to the block. -/
theorem exec_of_ends {s : State} {c : Nat} {i : Instr} (hends : Claims.Ends s c i) (hexec : exec i s = onChip s (controlField c i)) :
    exec i s = .next (Claims.after s (s.chip.control s.clk c i)) := by
  obtain ⟨hdue, hlegal⟩ := hends
  rw [hexec, onChip_eq, controlField_acts hdue hlegal]
  rfl

/-- A control field that moves the current slot to x. -/
theorem Chip.control_of_controlSlot {ch : Chip} {k : Clock} {c : Nat} {i : Instr} {x : Slot} (h : controlSlot i (ch.cl c) (ch.cl c).curSlot = some x) :
    ch.control k c i =
      ((ch.progress k (ch.cl c).curSlot.part (ch.cl c).curSlot.ctx).modCl c fun y => y.entryOver x).aclkEdge k c := by
  unfold Chip.control
  dsimp only
  split
  · cases h
  · rw [h]

/-- A control field that names no slot to go on with, and does not end its slot, is illegal. -/
theorem Chip.control_of_controlSlot_none {ch : Chip} {k : Clock} {c : Nat} {i : Instr} (h : controlSlot i (ch.cl c) (ch.cl c).curSlot = none)
    (hi : ∀ d, i ≠ .endSlot d) : ch.control k c i = (ch.progress k (ch.cl c).curSlot.part (ch.cl c).curSlot.ctx).illegal k c := by
  unfold Chip.control
  dsimp only
  split
  · exact absurd rfl (hi _)
  · rw [h]

/-- A legal entry whose control field moves its slot to x. -/
theorem exec_of_ends_moved {s : State} {c : Nat} {i : Instr} {x : Slot} (hends : Claims.Ends s c i) (hexec : exec i s = onChip s (controlField c i))
    (hx : controlSlot i (s.chip.cl c) (Claims.cur s c) = some x) : exec i s = .next (Claims.moved s c x) := by
  rw [exec_of_ends hends hexec, Chip.control_of_controlSlot hx]
  rfl

theorem controlSlot_loop {c : Nat} {level : BitVec 2} {count : BitVec 16} {cl : Cluster} {x : Slot} (h : level ≠ 3) :
    controlSlot (.loop c level count) cl x = some (x.loop level.toNat count.toNat (cl.matchLoop x)) := if_neg h

theorem controlSlot_endLoop {c : Nat} {level : BitVec 2} {cl : Cluster} {x : Slot} (h : level ≠ 3) :
    controlSlot (.endLoop c level) cl x = some (x.endLoop level.toNat) := if_neg h

theorem next_moves : Claims.nextRow := fun _ _ h => exec_of_ends_moved h rfl rfl

/-! The two ways of LOOP and of ENDLOOP (R123). -/

theorem Slot.loop_of_ne_zero (x : Slot) (level last : Nat) {count : Nat} (h : count ≠ 0) :
    x.loop level count last = { x with
      ptr := x.ptr + 1, depth := level + 1, cnt := put 0 x.cnt level count, total := put 0 x.total level count,
      start := put 0 x.start level (x.ptr + 1) } := if_neg h

theorem Slot.endLoop_of_ne_zero {x : Slot} {level : Nat} (h : look 0 x.cnt level - 1 ≠ 0) :
    x.endLoop level = { x with cnt := put 0 x.cnt level (look 0 x.cnt level - 1), ptr := look 0 x.start level } := if_pos (Nat.pos_of_ne_zero h)

theorem Slot.endLoop_of_eq_zero {x : Slot} {level : Nat} (h : look 0 x.cnt level - 1 = 0) :
    x.endLoop level = { x with cnt := put 0 x.cnt level 0, ptr := x.ptr + 1, depth := level } := by
  simp only [Slot.endLoop, h]
  rfl

theorem loop_moves : Claims.loopRow := by
  intro s c level count hends hlevel
  have hmoves := exec_of_ends_moved hends rfl (controlSlot_loop hlevel)
  refine ⟨fun hcount => ?_, ?_⟩
  · rw [hmoves, Slot.loop_of_ne_zero _ _ _ fun h => hcount (BitVec.eq_of_toNat_eq h)]
  · rintro rfl
    exact hmoves

theorem endLoop_moves : Claims.endLoopRow := by
  intro s c level hends hlevel
  have hmoves := exec_of_ends_moved hends rfl (controlSlot_endLoop hlevel)
  exact ⟨fun hn => by rw [hmoves, Slot.endLoop_of_ne_zero hn], fun hn => by rw [hmoves, Slot.endLoop_of_eq_zero hn]⟩

theorem endSlot_ends : Claims.endSlotRow := fun _ _ h => exec_of_ends h rfl

/-- Level 3 names no loop (R121, R139). -/
theorem badLevel_illegal : Claims.badLevel := by
  intro s c count
  have hloop : s.chip.control s.clk c (.loop c 3 count) = _ := Chip.control_of_controlSlot_none rfl nofun
  have hendLoop : s.chip.control s.clk c (.endLoop c 3) = _ := Chip.control_of_controlSlot_none rfl nofun
  exact ⟨fun hends => by rw [exec_of_ends hends rfl, hloop], fun hends => by rw [exec_of_ends hends rfl, hendLoop]⟩

/-! ### The other fields -/

/-- A field that fires and takes the block to t. -/
theorem exec_of_fires {s : State} {c j : Nat} {i : Instr} {t : Chip} (hfires : Claims.Fires s c i j) (hexec : exec i s = onChip s (field c i))
    (hwait : waitOf i = none) (hfield : fieldOf i s.clk s.chip (s.chip.cl c) = some t) : exec i s = .next (Claims.after s (t.act c j)) := by
  obtain ⟨hdue, hlegal⟩ := hfires
  rw [hexec, onChip_eq, field_acts hdue hwait hlegal hfield]
  rfl

theorem phaseHint_keeps_hint : Claims.phaseHintRow := fun _ _ _ h => exec_of_fires h rfl rfl rfl

theorem nops_leave_mark : Claims.nopRows := fun _ _ =>
  ⟨fun h => exec_of_fires h rfl rfl rfl, fun h => exec_of_fires h rfl rfl rfl, fun h => exec_of_fires h rfl rfl rfl,
    fun h => exec_of_fires h rfl rfl rfl⟩

/-! ### The entry as a whole (R120, R139) -/

theorem find?_range_five {p : Nat → Bool} {j : Nat} (h : [0, 1, 2, 3, 4].find? p = some j) : j ≤ 4 ∧ p j = true := by
  have hmem := List.mem_of_find?_eq_some h
  exact ⟨by simp at hmem; omega, List.find?_some h⟩

/-- A field that is due is one of the five of its entry, and has not acted. -/
theorem Cluster.opAt_of_fieldDue {x : Cluster} {c j : Nat} {i : Instr} (h : x.fieldDue c i = some j) :
    j ≤ 4 ∧ x.opAt c j = some (some i) ∧ x.acted.getLsbD j = false := by
  unfold Cluster.fieldDue at h
  split at h
  · cases h
  · obtain ⟨hfind, hopen⟩ := Option.filter_eq_some_iff.1 h
    obtain ⟨hj, hop⟩ := find?_range_five hfind
    simp only [Bool.and_eq_true, Bool.not_eq_true'] at hopen
    exact ⟨hj, of_decide_eq_true hop, hopen.1⟩

/-- A field that has acted, is absent or has no effect leaves the block as it is. -/
theorem Chip.runKind_of_idle {ch : Chip} {x : Cluster} {c n : Nat} (k : Clock)
    (h : x.acted.getLsbD n = true ∨ x.opAt c n = some none ∨ ∃ y, x.opAt c n = some (some y) ∧ isNop y = true) : ch.runKind k c x n = some ch := by
  unfold Chip.runKind
  split
  · rfl
  · next hacted =>
    obtain h | h | ⟨y, h, hnop⟩ := h
    · exact absurd h hacted
    · rw [h]
    · rw [h]
      cases y with
      | anop | vnop | ynop | snop => rfl
      | _ => cases hnop

theorem Chip.runKind_of_due {ch : Chip} {x : Cluster} {c j : Nat} {i : Instr} (k : Clock) (hop : x.opAt c j = some (some i))
    (hopen : x.acted.getLsbD j = false) (hwait : waitOf i = none) : ch.runKind k c x j = fieldOf i k ch (ch.cl c) := by
  simp [Chip.runKind, hop, hopen, hwait]

/-- The five fields of which all but the one at j leave the block: a legal entry does what that one does. -/
theorem foldl_bind_lone {α : Type} {f : α → Nat → Option α} {j : Nat} (hj : j ≤ 4) (hid : ∀ a, ∀ n ≤ 4, n ≠ j → f a n = some a) (a : α) :
    [0, 1, 2, 3, 4].foldl (fun s n => s.bind fun h => f h n) (some a) = f a j := by
  interval_cases j <;> simp [hid]

theorem rest_of_lone_field : Claims.loneField := by
  intro k ch c i j hdue hwait hidle
  obtain ⟨hj, hop, hopen⟩ := Cluster.opAt_of_fieldDue hdue
  exact (foldl_bind_lone hj (fun _ n hn hne => Chip.runKind_of_idle k (hidle n hn hne)) ch).trans (Chip.runKind_of_due k hop hopen hwait)

theorem finishEntry_of_legal : Claims.wholeEntry := by
  intro k ch t c hrest
  rw [Chip.finishEntry, hrest]

/-- Settles O23: each control field through the slot it moves to, the other fields through what they do to a legal entry's block. -/
theorem sequencerRows : Obligations.SequencerRows :=
  ⟨fun _ _ _ => rfl, fun _ _ => rfl, next_moves, loop_moves, endLoop_moves, endSlot_ends, phaseHint_keeps_hint, nops_leave_mark, badLevel_illegal,
    fun k _ _ _ => ⟨field_notDue k, controlField_notDue k⟩, fun _ _ _ _ _ => field_illegal, rest_of_lone_field, finishEntry_of_legal,
    fun _ _ _ => rfl⟩

end Sys2Proof.Machine

/-! # The scalar rows (O24) -/

namespace Sys2Proof.Machine

/-! What the scalar unit's shared operations come to where they are legal (spec/04_cluster.md R146, R151). -/

/-- A register that no other field of the entry writes is claimed. -/
theorem Cluster.claimReg_of_free {x : Cluster} {r : BitVec 4} {vector : Bool} (h : r = 0 ∨ (r.toNat, !vector) ∉ x.entryW) :
    x.claimReg r vector = some { x with entryW := x.entryW ++ [(r.toNat, vector)] } := by
  have hfree : (r ≠ 0 && x.entryW.contains (r.toNat, !vector)) = false := by
    obtain rfl | h := h
    · rfl
    · simp [h]
  simp only [Cluster.claimReg, hfree]
  rfl

/-- A free scalar register is claimed, its result under way and counted. -/
theorem Cluster.scalarTo_of_free {x : Cluster} {sd : BitVec 4} (h : sd = 0 ∨ (sd.toNat, true) ∉ x.entryW) (lat : Nat) (v : DWord) :
    x.scalarTo sd lat v = some { x with
      entryW := x.entryW ++ [(sd.toNat, false)], flight := x.flight ++ [{ due := x.aclk + lat - 1, issued := x.aclk, what := .sreg sd.toNat v }],
      activity := upd 0 x.activity 5 (· + 1) } := by
  rw [Cluster.scalarTo, Cluster.claimReg_of_free h]
  rfl

/-- A row of the scalar unit that is one of its operations writes that operation's result for the next aclk. -/
theorem writesS_of_scalarOp {i : Instr} {c : Nat} {sd : BitVec 4} {f : Cluster → DWord} (hexec : ∀ s, exec i s = onChip s (field c i))
    (hwait : waitOf i = none) (hfield : fieldOf i = scalarOp c sd f) : Claims.WritesS i c sd 1 fun _ x => f x := by
  intro s hfires hfree
  refine exec_of_fires hfires (hexec s) hwait ?_
  rw [hfield, scalarOp, Cluster.scalarTo_of_free hfree]
  rfl

theorem rdreg_reads : Claims.rdregRow := by
  intro c sd num hlocal s hfires hfree
  refine exec_of_fires hfires rfl rfl ?_
  show fieldRdreg c sd num s.clk s.chip (s.chip.cl c) = _
  simp only [fieldRdreg, hlocal, Cluster.scalarTo_of_free hfree]
  rfl

theorem wreg_writes : Claims.wregRow := by
  intro s c num sa hfires hgood
  refine exec_of_fires hfires rfl rfl ?_
  show fieldWreg c num sa s.clk s.chip (s.chip.cl c) = _
  simp only [fieldWreg, hgood]
  rfl

/-! The narrow accesses (R152, R162; spec/05_scratchpad.md R157, R160, R161). -/

/-- A word without errors is not lost and reads as it is stored (R157). -/
theorem Cluster.lostWord_of_errs_zero {x : Cluster} {w : Nat} (h : x.errs w = 0) : x.lostWord w = false := by simp [Cluster.lostWord, h]

theorem Cluster.read_of_errs_zero {x : Cluster} {w : Nat} (c : Nat) (h : x.errs w = 0) : x.read c w = x.word w := by simp [Cluster.read, h]

theorem Cluster.ne_default_of_uses {x : Cluster} (h : x.uses ≠ []) : x ≠ {} := by
  rintro rfl
  exact h rfl

/-- A cluster written with its words' errors as they were and a slot held: reading its error-free words does no more. -/
theorem Chip.eccReads_modCl_of_no_errors {ch : Chip} (k : Clock) {c : Nat} (ctx : Nat) {ws : List Nat} {x : Cluster} (hx : x ≠ {})
    (h : ∀ w ∈ ws, x.errs w = 0) : (ch.modCl c fun _ => x).eccReads k c ctx ws = ch.modCl c fun _ => x := by
  refine Chip.eccReads_of_no_errors k ctx fun w hw => ?_
  rw [Chip.modCl_cl_of_ne_default ch c hx]
  exact h w hw

theorem ldn_loads : Claims.ldnRow := by
  intro s c sd sa imm hfires hfree x w herr hon hslot
  refine exec_of_fires hfires rfl rfl ?_
  show fieldLdn c sd sa imm s.clk s.chip x = _
  have hclaim : x.claim [(x.aclk, 2, bankOf w)] = _ := Cluster.claim_of_free ⟨rfl, by simpa using ⟨hslot, hon⟩⟩
  simp only [fieldLdn, w, Claims.narrowWord] at hclaim herr ⊢
  rw [hclaim, Option.bind_some, Cluster.lostWord_of_errs_zero herr, if_neg Bool.false_ne_true,
    Cluster.scalarTo_of_free (x := { x with uses := x.uses ++ [(x.aclk, 2, bankOf w)] }) hfree, Option.map_some, Chip.eccReads_modCl_of_no_errors, Cluster.read_of_errs_zero c herr]
  · rfl
  · exact Cluster.ne_default_of_uses (List.append_ne_nil_of_right_ne_nil _ (List.cons_ne_nil _ _))
  · exact List.forall_mem_singleton.2 herr

theorem stn_stores : Claims.stnRow := by
  intro s c sb sa imm hfires x w herr hon hread hwrite
  refine exec_of_fires hfires rfl rfl ?_
  show fieldStn c sb sa imm s.clk s.chip x = _
  have hclaim : x.claim [(x.aclk, 2, bankOf w), (x.aclk + 2, 3, bankOf w)] = _ :=
    Cluster.claim_of_free ⟨by simp [selfMeets], by simpa using ⟨⟨hread, hon⟩, hwrite, hon⟩⟩
  simp only [fieldStn, w, Claims.narrowWord] at hclaim herr ⊢
  rw [hclaim, Option.map_some, Cluster.lostWord_of_errs_zero herr, if_neg Bool.false_ne_true, Chip.eccReads_modCl_of_no_errors,
    Cluster.read_of_errs_zero c herr]
  · rfl
  · exact Cluster.ne_default_of_uses (List.append_ne_nil_of_right_ne_nil _ (List.cons_ne_nil _ _))
  · exact List.forall_mem_singleton.2 herr

/-- Settles O24: the ten operations of the unit by what an operation does, the accesses to registers and words each on its own. -/
theorem scalarRows : Obligations.ScalarRows :=
  ⟨fun _ _ _ => writesS_of_scalarOp (fun _ => rfl) rfl rfl, fun _ _ _ => writesS_of_scalarOp (fun _ => rfl) rfl rfl,
    fun _ _ _ _ => writesS_of_scalarOp (fun _ => rfl) rfl rfl, fun _ _ _ _ => writesS_of_scalarOp (fun _ => rfl) rfl rfl,
    fun _ _ _ _ => writesS_of_scalarOp (fun _ => rfl) rfl rfl, fun _ _ _ _ => writesS_of_scalarOp (fun _ => rfl) rfl rfl,
    fun _ _ _ _ => writesS_of_scalarOp (fun _ => rfl) rfl rfl, fun _ _ _ _ => writesS_of_scalarOp (fun _ => rfl) rfl rfl,
    fun _ _ _ _ => writesS_of_scalarOp (fun _ => rfl) rfl rfl, fun _ _ _ _ => writesS_of_scalarOp (fun _ => rfl) rfl rfl,
    rdreg_reads, wreg_writes, ldn_loads, stn_stores⟩

end Sys2Proof.Machine

/-! # The vector rows (O25) -/

namespace Sys2Proof.Machine

/-! Lane by lane: what the operations on whole registers are at each of the 128 lanes (spec/04_cluster.md R145). -/

theorem lanes2_map_range (g : Nat → Word → Word → Word) (a b : Nat → Word) :
    lanes2 g ((List.range 128).map a) ((List.range 128).map b) = (List.range 128).map fun l => g l (a l) (b l) := by
  rw [lanes2, List.zip_map', List.zipWith_map_right, List.zipWith_self]

theorem lanes2_vec (g : Nat → Word → Word → Word) (x : Cluster) (va vb : BitVec 4) :
    lanes2 g (x.vec va) (x.vec vb) = Claims.lanewise2 g x va vb := lanes2_map_range ..

theorem replicate_eq_map_range (w : Word) : List.replicate 128 w = (List.range 128).map fun _ => w := by
  rw [List.map_const', List.length_range]

/-- A vector register with a scalar one in every lane. -/
theorem lanes2_vec_replicate (g : Nat → Word → Word → Word) (x : Cluster) (va : BitVec 4) (w : Word) :
    lanes2 g (x.vec va) (List.replicate 128 w) = (List.range 128).map fun l => g l (x.v va.toNat l) w := by
  rw [replicate_eq_map_range]
  exact lanes2_map_range ..

theorem lanes1_vec (g : Word → Word) (x : Cluster) (va : BitVec 4) : lanes1 g (x.vec va) = Claims.lanewise1 g x va := List.map_map

/-- The three operands of VFMA, lane by lane. -/
theorem zipWith_vec_three (g : Nat → Word × Word × Word → Word) (x : Cluster) (va vb vd : BitVec 4) :
    List.zipWith g (List.range 128) ((x.vec va).zip ((x.vec vb).zip (x.vec vd))) =
      (List.range 128).map fun l => g l (x.v va.toNat l, x.v vb.toNat l, x.v vd.toNat l) := by
  simp only [Cluster.vec]
  rw [List.zip_map', List.zip_map', List.zipWith_map_right, List.zipWith_self]

/-- A row of the vector unit whose field g is the operation of latency lat with the lanes v. -/
theorem writesV_of_field {i : Instr} {c : Nat} {vd : BitVec 4} {lat : Nat} {g : Field} {v : Nat → Cluster → List Word}
    (hexec : ∀ s, exec i s = onChip s (field c i)) (hwait : waitOf i = none) (hfield : fieldOf i = g) (hlanes : g = vecOp c vd lat v) :
    Claims.WritesV i c vd lat v := by
  intro s hfires
  refine exec_of_fires hfires (hexec s) hwait ?_
  rw [hfield, hlanes]
  rfl

/-! The rows of two registers (R75, R76, R147). -/

theorem vadd_writes : Claims.vaddRow := fun c vd va vb =>
  writesV_of_field (fun _ => rfl) rfl (show fieldOf _ = fieldVadd c vd va vb from rfl) (by simp only [fieldVadd, lanes2_vec])
theorem vsub_writes : Claims.vsubRow := fun c vd va vb =>
  writesV_of_field (fun _ => rfl) rfl (show fieldOf _ = fieldVsub c vd va vb from rfl) (by simp only [fieldVsub, lanes2_vec])
theorem vmul_writes : Claims.vmulRow := fun c vd va vb =>
  writesV_of_field (fun _ => rfl) rfl (show fieldOf _ = fieldVmul c vd va vb from rfl) (by simp only [fieldVmul, lanes2_vec])
theorem vmax_writes : Claims.vmaxRow := fun c vd va vb =>
  writesV_of_field (fun _ => rfl) rfl (show fieldOf _ = fieldVmax c vd va vb from rfl) (by simp only [fieldVmax, lanes2_vec])
theorem vmin_writes : Claims.vminRow := fun c vd va vb =>
  writesV_of_field (fun _ => rfl) rfl (show fieldOf _ = fieldVmin c vd va vb from rfl) (by simp only [fieldVmin, lanes2_vec])
theorem vdiv_writes : Claims.vdivRow := fun c vd va vb =>
  writesV_of_field (fun _ => rfl) rfl (show fieldOf _ = fieldVdiv c vd va vb from rfl) (by simp only [fieldVdiv, lanes2_vec])
theorem viadd_writes : Claims.viaddRow := fun c vd va vb =>
  writesV_of_field (fun _ => rfl) rfl (show fieldOf _ = fieldViadd c vd va vb from rfl) (by simp only [fieldViadd, lanes2_vec])

/-! The rows of a register and a scalar one, and of three registers (R75, R147). -/

theorem vadds_writes : Claims.vaddsRow := fun c vd va sb =>
  writesV_of_field (fun _ => rfl) rfl (show fieldOf _ = fieldVadds c vd va sb from rfl) (by simp only [fieldVadds, lanes2_vec_replicate])
theorem vmuls_writes : Claims.vmulsRow := fun c vd va sb =>
  writesV_of_field (fun _ => rfl) rfl (show fieldOf _ = fieldVmuls c vd va sb from rfl) (by simp only [fieldVmuls, lanes2_vec_replicate])
theorem vfma_writes : Claims.vfmaRow := fun c vd va vb =>
  writesV_of_field (fun _ => rfl) rfl (show fieldOf _ = fieldVfma c vd va vb from rfl) (by simp only [fieldVfma, zipWith_vec_three])

/-! The rows of one register (R76, R77, R147). -/

theorem vexp2_writes : Claims.vexp2Row := fun c vd va =>
  writesV_of_field (fun _ => rfl) rfl (show fieldOf _ = fieldVexp2 c vd va from rfl) (by simp only [fieldVexp2, lanes1_vec])
theorem vexp_writes : Claims.vexpRow := fun c vd va =>
  writesV_of_field (fun _ => rfl) rfl (show fieldOf _ = fieldVexp c vd va from rfl) (by simp only [fieldVexp, lanes1_vec])
theorem vrcp_writes : Claims.vrcpRow := fun c vd va =>
  writesV_of_field (fun _ => rfl) rfl (show fieldOf _ = fieldVrcp c vd va from rfl) (by simp only [fieldVrcp, lanes1_vec])
theorem vrsqrt_writes : Claims.vrsqrtRow := fun c vd va =>
  writesV_of_field (fun _ => rfl) rfl (show fieldOf _ = fieldVrsqrt c vd va from rfl) (by simp only [fieldVrsqrt, lanes1_vec])
theorem vabs_writes : Claims.vabsRow := fun c vd va =>
  writesV_of_field (fun _ => rfl) rfl (show fieldOf _ = fieldVabs c vd va from rfl) (by simp only [fieldVabs, lanes1_vec])
theorem vneg_writes : Claims.vnegRow := fun c vd va =>
  writesV_of_field (fun _ => rfl) rfl (show fieldOf _ = fieldVneg c vd va from rfl) (by simp only [fieldVneg, lanes1_vec])
theorem vcvtif_writes : Claims.vcvtifRow := fun c vd va =>
  writesV_of_field (fun _ => rfl) rfl (show fieldOf _ = fieldVcvtif c vd va from rfl) (by simp only [fieldVcvtif, lanes1_vec])
theorem vcvtfi_writes : Claims.vcvtfiRow := fun c vd va =>
  writesV_of_field (fun _ => rfl) rfl (show fieldOf _ = fieldVcvtfi c vd va from rfl) (by simp only [fieldVcvtfi, lanes1_vec])
theorem vmov_writes : Claims.vmovRow := fun c vd va =>
  writesV_of_field (fun _ => rfl) rfl (show fieldOf _ = fieldVmov c vd va from rfl) (by simp only [fieldVmov, lanes1_vec, Claims.lanewise1])

/-! The reductions (R75, R148). -/

theorem vsumr_writes : Claims.vsumrRow := fun c vd va =>
  writesV_of_field (fun _ => rfl) rfl (show fieldOf _ = fieldVsumr c vd va from rfl) rfl
theorem vmaxr_writes : Claims.vmaxrRow := fun c vd va =>
  writesV_of_field (fun _ => rfl) rfl (show fieldOf _ = fieldVmaxr c vd va from rfl) rfl

theorem accrd_reads : Claims.accrdRow := fun _ _ _ _ h => exec_of_fires h rfl rfl rfl

/-- Settles O25: each row is an operation of its latency on registers, taken lane by lane. -/
theorem vectorRows : Obligations.VectorRows :=
  ⟨accrd_reads, vadd_writes, vsub_writes, vmul_writes, vfma_writes, vmax_writes, vmin_writes, vadds_writes, vmuls_writes, vexp2_writes, vexp_writes,
    vrcp_writes, vrsqrt_writes, vdiv_writes, vsumr_writes, vmaxr_writes, vabs_writes, vneg_writes, vcvtif_writes, vcvtfi_writes, viadd_writes,
    vmov_writes⟩

end Sys2Proof.Machine

/-! # VLD and VST (O26) -/

namespace Sys2Proof.Machine

/-! What a vector access claims where it is legal: its slots and ports, and the registers its post-increment advances (spec/04_cluster.md R146, R149;
spec/05_scratchpad.md R161). -/

/-- A post-increment of registers that the entry's scalar field does not write. -/
theorem postInc_of_free {x : Cluster} {sa ss : BitVec 4} {post mx : Bool} (h : Claims.IncFree x sa ss post mx) (bytes : Nat) :
    postInc x sa ss post mx bytes = some { x with
      entryW := x.entryW ++ Claims.incClaims sa ss post mx, flight := x.flight ++ Claims.increments x sa ss post mx bytes } := by
  cases post with
  | false => simp [postInc, Claims.incClaims, Claims.increments]
  | true =>
    obtain ⟨hsa, hss⟩ := h rfl
    cases mx with
    | false =>
      simp only [postInc, Cluster.claimReg_of_free (vector := true) hsa]
      rfl
    | true =>
      have hclaim : (ss = 0 ∨ (ss.toNat, !true) ∉ x.entryW ++ [(sa.toNat, true)]) := (hss rfl).imp_right fun h => by simpa using h
      simp only [postInc, Cluster.claimReg_of_free (vector := true) hsa, Option.bind_some, if_true,
        Cluster.claimReg_of_free (x := { x with entryW := x.entryW ++ [(sa.toNat, true)] }) (vector := true) hclaim, Option.map_some]
      simp [Cluster.later, Claims.incClaims, Claims.increments]

/-- What a VLD and a VST claim. -/
theorem Cluster.claim_vector_of_free {x : Cluster} {us : List SlotUse} {ps : List (Nat × Nat)} {sa ss : BitVec 4} {post mx : Bool}
    (hus : Claims.UsesFree x us) (hps : Claims.PortsFree x ps) (hinc : Claims.IncFree x sa ss post mx) (bytes : Nat) :
    (((x.claim us).bind fun y => y.claimPorts ps).bind fun y => postInc y sa ss post mx bytes) = some { x with
      uses := x.uses ++ us, ports := x.ports ++ ps, entryW := x.entryW ++ Claims.incClaims sa ss post mx,
      flight := x.flight ++ Claims.increments x sa ss post mx bytes } := by
  rw [Cluster.claim_bind_claimPorts_of_free hus hps, Option.bind_some]
  exact postInc_of_free (x := { x with uses := x.uses ++ us, ports := x.ports ++ ps }) hinc bytes

/-- The scratchpad is a whole number of words, so an address is aligned where its place in it is (R155). -/
theorem mod_spdSize_mod_word (a : Nat) : a % spdSize % 32 = a % 32 := Nat.mod_mod_of_dvd a (by decide)

/-! VLD (R147, R157, R160). -/

theorem Cluster.ne_default_of_vlds {x : Cluster} (h : x.vlds ≠ []) : x ≠ {} := by
  rintro rfl
  exact h rfl

theorem vld_loads : Claims.vldRow := by
  intro s c vd sa ss post port fmt raw hfires x f mx occ parts sw uses ps halign hfmt huses hports hinc herrs
  refine exec_of_fires hfires rfl rfl ?_
  show fieldVld c vd sa ss post port fmt raw s.clk s.chip x = _
  have hlegal : ¬ (decide ((x.s sa).toNat % spdSize % 32 ≠ 0) || (raw && decide (f ≠ 0)) || (!raw && !vecFmt f)) = true := by
    rw [mod_spdSize_mod_word, halign]
    cases raw <;> simpa using hfmt
  have hlost : sw.any x.lostWord = false := by simpa using fun w hw => Cluster.lostWord_of_errs_zero (herrs w hw)
  have hclaim := Cluster.claim_vector_of_free huses hports hinc (moveBytes f raw)
  refine (if_neg hlegal).trans ((congrArg (Option.map _) hclaim).trans (congrArg some ?_))
  dsimp only
  simp only [sw, mx, f, Claims.scaleWords] at hlost
  rw [hlost]
  exact Chip.eccReads_modCl_of_no_errors s.clk _ (Cluster.ne_default_of_vlds (List.append_ne_nil_of_right_ne_nil _ (List.cons_ne_nil _ _))) herrs

/-! VST (R150, R160, R165). -/

theorem foldl_later {α : Type} (due : Nat) (g : α → Landing) (l : List α) (x : Cluster) :
    l.foldl (fun y w => y.later due (g w)) x =
      { x with flight := x.flight ++ l.map fun w => { due := due, issued := x.aclk, what := g w } } := by
  induction l generalizing x with
  | nil => simp
  | cons w t ih =>
    rw [List.foldl_cons, ih, List.map_cons, ← List.singleton_append, ← List.append_assoc]
    rfl

/-- Bytes stored are under way in their pieces. -/
theorem Cluster.storeLater_eq (x : Cluster) (due a : Nat) (bytes : List Byte) :
    x.storeLater due a bytes = { x with flight := x.flight ++ Claims.storePieces x due a bytes } := foldl_later ..

/-- The parts of a store, one after the other. -/
theorem foldl_storeLater (due a : Nat → Nat) (bytes : Nat → List Byte) (l : List Nat) (x : Cluster) :
    l.foldl (fun y j => y.storeLater (due j) (a j) (bytes j)) x =
      { x with flight := x.flight ++ l.flatMap fun j => Claims.storePieces x (due j) (a j) (bytes j) } := by
  induction l generalizing x with
  | nil => simp
  | cons j t ih =>
    rw [List.foldl_cons, ih, Cluster.storeLater_eq, List.flatMap_cons, ← List.append_assoc]
    rfl

/-- The scale bytes of an MX format. -/
theorem Cluster.storeLater_if (x : Cluster) (mx : Bool) (due a : Nat) (bytes : List Byte) :
    (if mx then x.storeLater due a bytes else x) = { x with flight := x.flight ++ if mx then Claims.storePieces x due a bytes else [] } := by
  cases mx with
  | true => exact x.storeLater_eq due a bytes
  | false => simp

/-- Only a conversion records status and draws. -/
theorem Cluster.flag_unless (x : Cluster) {raw sr : Bool} (h : raw = true → sr = false) (f : NumStatus) :
    (if raw then x else { x.flag f with draws := if sr then x.draws + 1 else x.draws }) =
      { x with num := if raw then x.num else x.num.or f, draws := if sr then x.draws + 1 else x.draws } := by
  cases raw with
  | true =>
    rw [h rfl]
    rfl
  | false => rfl

theorem vst_stores : Claims.vstRow := by
  intro s c vs sa ss post shift fmt sr raw srcint hfires x f a mx occ parts sw uses ps st data halign hfmt hshift huses hports hinc
  refine exec_of_fires hfires rfl rfl ?_
  show fieldVst c vs sa ss post shift fmt sr raw srcint s.clk s.chip x = _
  have hraw : raw = true → f = 0 ∧ sr = false := fun h => by simpa [h] using hfmt
  have hconv : raw = false → vecFmt f = true := fun h => by simpa [h] using hfmt
  have hlegal : ¬ (decide (a % 32 ≠ 0) || (raw && (decide (f ≠ 0) || sr)) || (!raw && !vecFmt f) ||
      (decide (shift ≠ 0) && (!srcint || (!raw && decide (2 ≤ f))))) = true := by
    simp only [Bool.or_eq_true, Bool.and_eq_true, Bool.not_eq_true', decide_eq_true_eq]
    rintro (((h | ⟨h, h'⟩) | ⟨h, h'⟩) | ⟨h, h'⟩)
    · exact h halign
    · obtain ⟨hf, hsr⟩ := hraw h
      simp [hf, hsr] at h'
    · rw [hconv h] at h'
      cases h'
    · obtain ⟨hint, hwide⟩ := hshift h
      rw [hint] at h'
      grind
  have hclaim := Cluster.claim_vector_of_free huses hports hinc (moveBytes f raw)
  refine (if_neg hlegal).trans ((congrArg (Option.map _) hclaim).trans (congrArg some ?_))
  dsimp only
  rw [foldl_storeLater, Cluster.storeLater_if, Cluster.flag_unless _ fun h => (hraw h).2]
  rfl

/-! A misaligned access (R146, R139). -/

/-- An entry whose array field leaves the block, and whose vector field is the one due and is illegal, is illegal. -/
theorem Chip.rest_of_vector_illegal {ch : Chip} {k : Clock} {c : Nat} {i : Instr} (hdue : (ch.cl c).fieldDue c i = some 1) (hwait : waitOf i = none)
    (harray : (ch.cl c).acted.getLsbD 0 = true ∨ (ch.cl c).opAt c 0 = some (some (.anop c))) (hbad : fieldOf i k ch (ch.cl c) = none) :
    ch.rest k c = none := by
  obtain ⟨-, hop, hopen⟩ := Cluster.opAt_of_fieldDue hdue
  have hnop : ch.runKind k c (ch.cl c) 0 = some ch := Chip.runKind_of_idle k (harray.imp_right fun h => .inr ⟨_, h, rfl⟩)
  have hnone : ch.runKind k c (ch.cl c) 1 = none := (Chip.runKind_of_due k hop hopen hwait).trans hbad
  simp [Chip.rest, hnop, hnone]

theorem vec_misaligned_illegal : Claims.vecMisaligned := by
  intro s c r sa ss post halign harray
  have hbad : ((s.chip.cl c).s sa).toNat % spdSize % 32 ≠ 0 := by rwa [mod_spdSize_mod_word]
  constructor
  · intro port fmt raw hdue
    have hnone : fieldVld c r sa ss post port fmt raw s.clk s.chip (s.chip.cl c) = none := if_pos (by simp [hbad])
    exact congrArg (fun ch => Host.Outcome.next (Claims.after s ch)) (field_illegal hdue rfl (Chip.rest_of_vector_illegal hdue rfl harray hnone))
  · intro shift fmt sr raw srcint hdue
    have hnone : fieldVst c r sa ss post shift fmt sr raw srcint s.clk s.chip (s.chip.cl c) = none := if_pos (by simp [hbad])
    exact congrArg (fun ch => Host.Outcome.next (Claims.after s ch)) (field_illegal hdue rfl (Chip.rest_of_vector_illegal hdue rfl harray hnone))

/-- Settles O26: each access finds its conditions met and its slots, ports and registers free; a misaligned one makes its entry illegal. -/
theorem vectorMemoryRows : Obligations.VectorMemoryRows := ⟨vld_loads, vst_stores, vec_misaligned_illegal⟩

end Sys2Proof.Machine

/-! # Semaphores and waits (O28) -/

namespace Sys2Proof.Machine

/-! ### A slot of a cluster, written and read back -/

/-- A cluster with a slot that is not the default one is not the default one. -/
theorem Cluster.ne_default_of_slot {x : Cluster} {n : Nat} (h : x.slot n ≠ {}) : x ≠ {} := by
  rintro rfl
  exact h rfl

/-- A slot of a cluster written with a value other than the default reads back, in canonical form or not. -/
theorem Cluster.modSlot_slot_of_ne_default (x : Cluster) (n : Nat) {f : Slot → Slot} (h : f (x.slot n) ≠ {}) : (x.modSlot n f).slot n = f (x.slot n) :=
  look_put_of_ne ({} : Slot) x.slots n h

theorem Cluster.modSlot_slot_ne (x : Cluster) {m n : Nat} (f : Slot → Slot) (h : n ≠ m) : (x.modSlot m f).slot n = x.slot n :=
  look_upd_ne ({} : Slot) x.slots f h

/-- A slot of the block written with a value other than the default reads back. -/
theorem Chip.modSlot_slot_of_ne_default (ch : Chip) (c n : Nat) {f : Slot → Slot} (h : f ((ch.cl c).slot n) ≠ {}) :
    ((ch.modSlot c n f).cl c).slot n = f ((ch.cl c).slot n) := by
  have hslot := (ch.cl c).modSlot_slot_of_ne_default n h
  have hcl : (ch.modSlot c n f).cl c = (ch.cl c).modSlot n f :=
    Chip.modCl_cl_of_ne_default ch c (Cluster.ne_default_of_slot fun e => h (hslot.symm.trans e))
  rw [hcl, hslot]

/-! ### Waits (spec/04_cluster.md R126, R129, R135, R138, R139) -/

theorem cancelAtWait_cancels : Claims.cancelAtWait := fun _ _ _ _ _ h => if_pos h

/-- Outside a replay an operation on a semaphore is live (R464). -/
theorem Chip.replayOp_of_no_replay {ch : Chip} {c : Nat} (h : (ch.cl c).replay = none) : ch.replayOp c = none := by simp [Chip.replayOp, h]

theorem Chip.absorb_of_no_replay {ch : Chip} {c : Nat} (h : (ch.cl c).replay = none) (op : SemOp) : ch.absorb c op = .live := by
  rw [Chip.absorb, Chip.replayOp_of_no_replay h]

theorem takeWait_leaves : Claims.takeWaitRule := by
  intro k ch c hlive
  refine ⟨fun j n => ?_, fun _ _ => rfl, fun _ _ => rfl⟩
  simp only [Chip.takeWait, Chip.absorb_of_no_replay hlive]

/-- A wait that a slot stands in: before its turn nothing changes, at its turn it is taken, unless the rest of a waiting entry is illegal. -/
theorem Chip.waitGo_of_standing {ch : Chip} {k : Clock} {c n : Nat} {w : WaitRec} (h : ((ch.cl c).slot n).standing = some w) :
    ch.waitGo k c n =
      if !ch.waitTurn c n w.on then ch
      else if ((ch.cl c).slot n).st = .waiting && (ch.rest k c).isNone then ch.illegal k c
      else ch.satisfy k c n w := by
  simp only [Chip.waitGo, h]

/-- A wait without a barrier, presented by a slot that is not cancelled. -/
theorem Chip.present_of_wait {ch h : Chip} {k : Clock} {c : Nat} {dl : BitVec 2} {f : WaitField} {on : WaitOn} (hgo : (ch.cl c).curSlot.cancelling = false)
    (hf : f k ch (ch.cl c) = some (h, on)) (hon : ∀ b g, on ≠ .bar b g) : ch.present k c dl f = (h.stand c on dl).waitGo k c (ch.cl c).cur := by
  simp only [Chip.present, hgo, hf]
  cases on with
  | bar b g => exact absurd rfl (hon b g)
  | sem => rfl
  | half => rfl

/-- A field that waits on a semaphore or a half, and before that does nothing: its slot stands in the wait, which is taken at its turn. -/
theorem presents_of_wait {s : State} {c : Nat} {i : Instr} {dl : BitVec 2} {f : WaitField} {on : WaitOn} (hwaits : Claims.Waits s c i)
    (hexec : exec i s = onChip s (field c i)) (hwait : waitOf i = some (dl, f)) (hf : f s.clk s.chip (s.chip.cl c) = some (s.chip, on))
    (hon : ∀ b g, on ≠ .bar b g) : Claims.Presents s i c s.chip dl on id := by
  obtain ⟨hdue, hgo⟩ := hwaits
  unfold Claims.Presents
  extract_lets n w h
  have hslot : (h.cl c).slot n = { (s.chip.cl c).slot n with st := .waiting, wait := some w } :=
    Chip.modSlot_slot_of_ne_default s.chip c n (fun e => nomatch congrArg Slot.st e)
  have hstanding : ((h.cl c).slot n).standing = some w := by rw [hslot]; rfl
  have hst : ((h.cl c).slot n).st = .waiting := by rw [hslot]
  have hgoes : exec i s = .next (Claims.after s (h.waitGo s.clk c n)) := by
    rw [hexec, onChip_eq, field_waits hdue hwait, Chip.present_of_wait hgo hf hon]
    rfl
  rw [hgoes, Chip.waitGo_of_standing hstanding, hst]
  refine ⟨fun hturn => ?_, fun hturn hrest => ?_, fun hturn hrest => ?_⟩
  · simp [hturn, w]
  · simp [hturn, w, Option.isSome_iff_ne_none.1 hrest]
  · simp [hturn, w, hrest]

theorem waitsem_presents : Claims.waitsemRow := fun _ _ _ _ _ hwaits howns => presents_of_wait hwaits rfl rfl (if_pos howns) nofun

theorem semTurn_iff : Claims.semTurn := by
  intro ch c n j m hcapture hheld hlive v
  simp [Chip.waitTurn, Chip.waitMet, Chip.replayOp_of_no_replay hlive, hcapture, hheld, v]

/-! ### Messages (R128, R130, R477) -/

theorem message_of_fresh {ch : Chip} {c : Nat} {epoch : BitVec 16} (i : Instr) (k : Clock) (h : ch.fresh? c epoch = true) :
    message c epoch i k ch = field c i k ch := if_pos h

theorem message_of_stale {ch : Chip} {c : Nat} {epoch : BitVec 16} (i : Instr) (k : Clock) (h : ch.fresh? c epoch = false) :
    message c epoch i k ch = ch.dropStale := if_neg (Bool.eq_false_iff.1 h)

theorem sigsem_raises : Claims.sigsemRow := by
  intro s c epoch sem n hfresh hfires hlive howns
  have hexec : onChip s (message c epoch (.sigsem c epoch sem n)) = onChip s (field c (.sigsem c epoch sem n)) := by
    rw [onChip_eq, message_of_fresh _ s.clk hfresh, onChip_eq]
  refine exec_of_fires hfires hexec rfl ?_
  show fieldSigsem c sem n s.clk s.chip (s.chip.cl c) = _
  simp only [fieldSigsem, Chip.absorb_of_no_replay hlive]
  exact if_neg (by simpa using howns)

theorem stale_counts : Claims.staleRows := by
  intro s c epoch hstale
  have hdrop : ∀ i, onChip s (message c epoch i) = .next (Claims.after s s.chip.dropStale) := fun i => by
    rw [onChip_eq, message_of_stale i s.clk hstale]
    rfl
  exact ⟨fun _ _ => hdrop _, fun _ => hdrop _, fun _ _ => hdrop _, fun _ _ => hdrop _, fun _ _ => hdrop _⟩

/-! ### Waits that end (R126, R135) -/

theorem Slot.standing_of_untaken {x : Slot} {w : WaitRec} (h : x.wait = some w) (hopen : w.taken = none) : x.standing = some w := by
  simp [Slot.standing, h, hopen]

theorem waitSatisfied_takes : Claims.waitSatisfiedRow := by
  intro s c n w hwait hopen st
  have hgoes : exec (.waitSatisfied c n) s = .next (Claims.after s (s.chip.waitGo s.clk c n)) := rfl
  rw [hgoes, Chip.waitGo_of_standing (Slot.standing_of_untaken hwait hopen)]
  refine ⟨fun hturn => ?_, fun hturn hlegal => ?_, fun hturn hst hrest => ?_⟩
  · rw [hturn]
    rfl
  · have hgo : (decide (st = .waiting) && (s.chip.rest s.clk c).isNone) = false := by
      obtain hst | hrest := hlegal
      · simp [hst]
      · simp [hrest]
    rw [hturn, hgo]
    rfl
  · rw [hturn, show ((s.chip.cl c).slot n).st = .waiting from hst, hrest]
    rfl

theorem waitBudget_yields : Claims.waitBudgetRow := by
  intro s c
  have hexec : exec (.waitBudgetExpiry c) s = .next (Claims.after s (s.chip.budgetExpiry c)) := rfl
  rw [hexec, Chip.budgetExpiry]
  refine ⟨fun hout hready => ?_, fun h => ?_⟩
  · rw [hout, Option.isSome_iff_ne_none.2 hready]
    rfl
  · have hkeep : (s.chip.budgetOut c && (s.chip.cl c).choose.isSome) = false := by
      obtain hin | hnone := h
      · rw [hin, Bool.false_and]
      · rw [hnone, Option.isSome_none, Bool.and_false]
    rw [hkeep]
    rfl

/-- Settles O28: a wait stands until its turn, a message acts when it is fresh, and a stale one is counted. -/
theorem semaphoreRows : Obligations.SemaphoreRows :=
  ⟨cancelAtWait_cancels, fun _ _ _ _ _ => rfl, takeWait_leaves, waitsem_presents, semTurn_iff, sigsem_raises, waitSatisfied_takes, waitBudget_yields,
    stale_counts⟩

end Sys2Proof.Machine

/-! # Heartbeats and captures (O31) -/

namespace Sys2Proof.Machine

/-! Heartbeats (spec/04_cluster.md R140; spec/16_faults_recovery.md R449). -/

theorem heartbeat_noted : Claims.heartbeatRow := by
  intro s c hbeats
  have hnoted : (s.chip.modCl c fun x => if x.beats then { x with lastBeat := s.clk.localNs } else x) =
      s.chip.modCl c fun x => { x with lastBeat := s.clk.localNs } :=
    congrArg (fun x => { s.chip with clusters := put {} s.chip.clusters c x }) (if_pos hbeats)
  exact congrArg (fun ch => Host.Outcome.next (Claims.after s ch)) hnoted

theorem heartbeatLoss_faults : Claims.heartbeatLossRow := by
  intro s c hbeats
  refine ⟨fun hlate => ?_, fun hearly => ?_⟩
  · exact congrArg (fun ch => Host.Outcome.next (Claims.after s ch)) (if_pos (by simpa [hbeats] using hlate))
  · exact congrArg (fun ch => Host.Outcome.next (Claims.after s ch)) (if_neg (by simpa [hbeats] using hearly))

/-! Captures (R457, R459, R460, R464). -/

theorem Cluster.ne_default_of_lcid {x : Cluster} {l : Nat} (h : x.lcid = some l) : x ≠ {} := by
  rintro rfl
  cases h

/-- A region other than the default reads back as it was written, in canonical form or not. -/
theorem Chip.modRg_rg_of_ne_default (ch : Chip) (r : Nat) {f : Region → Region} (h : f (ch.rg r) ≠ {}) : (ch.modRg r f).rg r = f (ch.rg r) :=
  look_put_of_ne ({} : Region) ch.regions r h

/-- A region that holds a mirror is not the default one. -/
theorem Region.ne_default_of_mir {g : Region} {l : Nat} (h : g.mir l ≠ {}) : g ≠ {} := by
  rintro rfl
  exact h rfl

/-- A mirror written with a value other than the default reads back. -/
theorem Chip.modMir_mir_of_ne_default (ch : Chip) (r l : Nat) {f : Mirror → Mirror} (h : f ((ch.rg r).mir l) ≠ {}) :
    ((ch.modMir r l f).rg r).mir l = f ((ch.rg r).mir l) := by
  have hmir : ({ ch.rg r with mirror := upd {} (ch.rg r).mirror l f } : Region).mir l = f ((ch.rg r).mir l) :=
    look_put_of_ne ({} : Mirror) (ch.rg r).mirror l h
  rw [Chip.modMir, Chip.modRg_rg_of_ne_default ch r (Region.ne_default_of_mir fun e => h (hmir.symm.trans e)), hmir]

/-- A stream of a region changed leaves the region's mirrors. -/
theorem Chip.modStr_mir (ch : Chip) (r n l : Nat) (f : Stream → Stream) (h : (ch.rg r).mir l ≠ {}) :
    ((ch.modStr r n f).rg r).mir l = (ch.rg r).mir l := by
  have hne : ({ ch.rg r with streams := upd {} (ch.rg r).streams n f } : Region) ≠ {} := Region.ne_default_of_mir (l := l) h
  rw [Chip.modStr, Chip.modRg_rg_of_ne_default ch r hne]
  rfl

/-- Streams of a region changed one after the other leave clusters and mirrors. -/
theorem Chip.foldl_modStr_keeps (r l : Nat) (f : Stream → Stream) (ns : List Nat) (ch : Chip) (h : (ch.rg r).mir l ≠ {}) :
    (ns.foldl (fun t n => t.modStr r n f) ch).clusters = ch.clusters ∧ ((ns.foldl (fun t n => t.modStr r n f) ch).rg r).mir l = (ch.rg r).mir l := by
  induction ns generalizing ch with
  | nil => exact ⟨rfl, rfl⟩
  | cons n t ih =>
    have hmir := ch.modStr_mir r n l f h
    obtain ⟨hclusters, hmirs⟩ := ih (ch.modStr r n f) (by rwa [hmir])
    exact ⟨hclusters, hmirs.trans hmir⟩

/-- A cluster that serves an lcid reads back as it was written. -/
theorem Chip.modCl_cl_of_lcid (ch : Chip) (c : Nat) {f : Cluster → Cluster} {l : Nat} (h : (f (ch.cl c)).lcid = some l) :
    (ch.modCl c f).cl c = f (ch.cl c) :=
  Chip.modCl_cl_of_ne_default ch c (x := f (ch.cl c)) (Cluster.ne_default_of_lcid h)

/-- A capture at its end whose carried words hold no errors: the mirror takes the image with an empty log, the replay ends, and the region's
streams are gone through for retired descriptors. -/
theorem Chip.captureComplete_of_readable {ch : Chip} (k : Clock) {c l : Nat} {cp : Capture} (hcapture : (ch.cl c).capture = some cp)
    (hlcid : (ch.cl c).lcid = some l) (hend : cp.endAt ≤ (ch.cl c).aclk)
    (hread : ∀ w ∈ ((ch.cl c).carried cp.keys).flatMap fun x => spdWords x.spd x.len, (ch.cl c).errs w = 0) :
    ∃ (img : Image) (f : Stream → Stream) (ns : List Nat), ch.captureComplete k c = ns.foldl (fun t n => t.modStr (regionOf c) n f)
      (((ch.modCl c fun x => { x with capture := none }).modMir (regionOf c) l
        fun m => { m with current := some img, log := [], overflow := false }).modCl c fun x => { x with replay := none }) := by
  have hlost : (((ch.cl c).carried cp.keys).flatMap fun x => spdWords x.spd x.len).any (ch.cl c).lostWord = false :=
    List.any_eq_false.2 fun w hw => by rw [Cluster.lostWord_of_errs_zero (hread w hw)]; exact Bool.false_ne_true
  have hread' : ∀ w ∈ ((ch.cl c).carried cp.keys).flatMap fun x => spdWords x.spd x.len,
      ((ch.modCl c fun x => { x with capture := none }).cl c).errs w = 0 := by
    rw [Chip.modCl_cl_of_lcid ch c hlcid]
    exact hread
  unfold Chip.captureComplete
  rw [hcapture, hlcid]
  dsimp only
  rw [if_neg (Nat.not_lt.2 hend), hlost, Chip.eccReads_of_no_errors k _ hread']
  exact ⟨_, _, _, rfl⟩

theorem capture_completes : Claims.captureRow := by
  intro s c cp l hcapture hlcid hend hread _
  obtain ⟨img, f, ns, hdone⟩ := Chip.captureComplete_of_readable s.clk hcapture hlcid hend fun w hw =>
    let ⟨x, hx, hxw⟩ := List.mem_flatMap.1 hw
    hread x hx w hxw
  generalize hopen : (s.chip.modCl c fun x => { x with capture := none }) = h at hdone
  generalize himaged : (h.modMir (regionOf c) l fun m => { m with current := some img, log := [], overflow := false }) = h' at hdone
  have hcl : h'.cl c = { s.chip.cl c with capture := none } := by
    rw [← himaged, ← hopen]
    exact Chip.modCl_cl_of_lcid s.chip c (f := fun x => { x with capture := none }) hlcid
  have hmir : (h'.rg (regionOf c)).mir l = { current := some img, log := [], overflow := false } := by
    rw [← himaged]
    exact Chip.modMir_mir_of_ne_default h (regionOf c) l fun e => nomatch congrArg Mirror.current e
  have hlive : (h'.modCl c fun x => { x with replay := none }).cl c = { h'.cl c with replay := none } :=
    Chip.modCl_cl_of_lcid h' c (by rw [hcl]; exact hlcid)
  have hmir' : ((h'.modCl c fun x => { x with replay := none }).rg (regionOf c)).mir l = { current := some img, log := [], overflow := false } := hmir
  obtain ⟨hclusters, hmirs⟩ := Chip.foldl_modStr_keeps (regionOf c) l f ns (h'.modCl c fun x => { x with replay := none })
    (by rw [hmir']; exact fun e => nomatch congrArg Mirror.current e)
  have hend_cl : (s.chip.captureComplete s.clk c).cl c = { s.chip.cl c with capture := none, replay := none } := by
    rw [hdone, Chip.cl, hclusters, ← Chip.cl, hlive, hcl]
  refine ⟨s.chip.captureComplete s.clk c, rfl, ?_⟩
  rw [hend_cl, hdone, hmirs, hmir']
  exact ⟨rfl, rfl, rfl, rfl, rfl⟩

/-- Settles O31: the heartbeat by its field, the loss by its fault, the capture by what its end writes to the mirror and the cluster. -/
theorem heartbeatAndCaptureRows : Obligations.HeartbeatAndCaptureRows := ⟨heartbeat_noted, heartbeatLoss_faults, capture_completes⟩

end Sys2Proof.Machine

/-! # Tables, runs and requests (O41) -/

namespace Sys2Proof.Machine

/-! ### A host command that is taken -/

/-- A host command taken up, whose checks and effect answer t, leaves the block t. -/
theorem exec_of_taken {s : State} {op : Nat} {q : Req} {i : Instr} {body : Clock → Chip → Cmd} {t : Chip} (htaken : Claims.Taken s op q)
    (hexec : exec i s = onChip s (runCmd op q body)) (hbody : body s.clk s.chip = .ok t) : exec i s = .next (Claims.after s t) := by
  obtain ⟨hanswers, hgate⟩ := htaken
  rw [hexec, onChip_eq, runCmd_taken _ _ hanswers hgate, hbody]
  rfl

/-- A host command taken up that its own checks refuse gets that refusal. -/
theorem exec_of_taken_refused {s : State} {op : Nat} {q : Req} {i : Instr} {body : Clock → Chip → Cmd} {r : Refuse} (htaken : Claims.Taken s op q)
    (hexec : exec i s = onChip s (runCmd op q body)) (hbody : body s.clk s.chip = .error r) : exec i s = .next (Claims.after s (s.chip.refuse q r)) := by
  obtain ⟨hanswers, hgate⟩ := htaken
  rw [hexec, onChip_eq, runCmd_taken _ _ hanswers hgate, hbody]
  rfl

/-! ### SLOT_LOAD (spec/04_cluster.md R121, R141; spec/13_host_protocol.md R392) -/

theorem planBytes_nil : planBytes [] = 0 := rfl

/-- Each check of a SLOT_LOAD is refuted by the condition that asks for its contrary. -/
theorem slotChecks_clear {s : State} {q : Req} {c : Nat} {plan : List PlanRec} (hslot : Claims.SlotOk s q c) (hplan : Claims.PlanOk s q c plan) :
    Claims.Clear (slotChecks q s.chip) := by
  obtain ⟨hlcid, howns, hserves, howned, hquar, hrange, hlost, hn, hprio, hzero, hbase, hfits, hgood, hidle, hmeets⟩ := hslot
  have hn' := Nat.not_lt.2 (Nat.le_of_lt_succ hn)
  have hprio' := Nat.not_lt.2 (Nat.le_of_lt_succ hprio)
  have hlen := (Nat.le_add_left _ _).trans hfits
  obtain ⟨hnone, hck, -, hbytes⟩ | ⟨b, hsome, -, hform, hkeys, hcap, hbytes⟩ := hplan
  · simpa [Claims.Clear, slotChecks, reserved, hnone, hck, hlcid, howns, hserves, howned, hquar, hrange, hlost, hn', hprio', hzero, hbase, hfits,
      hgood, hidle, hlen, planBytes_nil] using And.intro hmeets (by simpa [Claims.otherPlans] using hbytes)
  · simpa [Claims.Clear, slotChecks, reserved, hsome, hlcid, howns, hserves, howned, hquar, hrange, hlost, hn', hprio', hzero, hbase, hfits, hgood,
      hidle, hlen] using And.intro hform ⟨hkeys, hcap, hmeets, by simpa [Claims.otherPlans] using hbytes⟩

/-- A table in form, with the plan it asks for, is loaded. -/
theorem slotLoad_of_ok {s : State} {q : Req} {c : Nat} {plan : List PlanRec} (htaken : Claims.Taken s 0x0501 q) (hslot : Claims.SlotOk s q c)
    (hplan : Claims.PlanOk s q c plan) : let x := slotReq q.payload
    exec (.slotLoad q) s = .next (Claims.after s (Claims.ok ((s.chip.touchDva s.clk q.part x.dva (16 * x.len)).modCl c fun y =>
      y.loadTable x q.part q.ctx (s.chip.tableAt q.part x.dva x.len) plan) q [])) := by
  have hserves : s.chip.pcid (slotReq q.payload).lcid = some c := by
    obtain ⟨-, -, hserves, -⟩ := hslot
    exact hserves
  have hclear := firstFail_eq_none.2 (slotChecks_clear hslot hplan)
  have hcmd : slotLoadCmd q s.clk s.chip = .ok (Claims.ok ((s.chip.touchDva s.clk q.part (slotReq q.payload).dva (16 * (slotReq q.payload).len)).modCl c
      fun y => y.loadTable (slotReq q.payload) q.part q.ctx (s.chip.tableAt q.part (slotReq q.payload).dva (slotReq q.payload).len) plan) q []) := by
    unfold slotLoadCmd
    dsimp only
    rw [hclear, hserves]
    obtain ⟨hnone, -, rfl, -⟩ | ⟨b, hsome, rfl, -⟩ := hplan
    · rw [hnone]
    · rw [hsome]
  exact exec_of_taken htaken rfl hcmd

theorem slotLoad_loads : Claims.slotLoadRow := by
  intro s q c htaken hslot x es done
  refine ⟨fun hnone hck hbytes => slotLoad_of_ok htaken hslot (.inl ⟨hnone, hck, rfl, hbytes⟩), ?_⟩
  intro b hsome recs hform hkeys hcap hbytes
  exact slotLoad_of_ok htaken hslot (.inr ⟨b, hsome, rfl, hform, hkeys, hcap, hbytes⟩)

theorem loadTable_leaves : Claims.slotLoaded := by
  intro c x part ctx es plan y
  have hslot : y.slot x.slot = { st := .loaded, prio := x.prio, base := x.base, len := x.len, part := part, ctx := ctx, dva := x.dva, plan := plan, budgets := (c.slot x.slot).budgets } :=
    Cluster.modSlot_slot_of_ne_default _ x.slot fun e => nomatch congrArg Slot.st e
  rw [hslot]
  exact ⟨rfl, rfl, rfl, rfl, rfl, rfl, rfl, fun n hn => Cluster.modSlot_slot_ne _ _ hn, rfl, rfl, rfl, rfl, rfl⟩

/-! ### RUN_START (R393) -/

theorem any_eq_false {α : Type} {l : List α} {p : α → Bool} (h : ∀ a ∈ l, p a = false) : l.any p = false :=
  List.any_eq_false.2 fun a ha => Bool.eq_false_iff.1 (h a ha)

/-- Each check of a RUN_START is refuted by the condition that asks for its contrary. -/
theorem runChecks_clear {s : State} {q : Req} (hrun : Claims.RunOk s q) : Claims.Clear (runChecks q s.chip) := by
  obtain ⟨hlen, hquar, hzero, hreserved, hepoch, hreqs, hslots, hengines, hslotsOnce, henginesOnce, hworks⟩ := hrun
  simp only [Claims.Clear, runChecks, List.forall_mem_cons]
  refine ⟨?length, hquar, ?handle, ?slotsOwned, ?enginesOwned, ?foreign, ?zero, hreserved, ?epoch, ?requests, ?once, ?tasks, ?serves, ?slotsReady,
    ?enginesReady, Chip.worksFull_false hworks, nofun⟩
  case length => simpa using hlen
  case handle =>
    obtain ⟨hnone, -⟩ | ⟨-, howns, -⟩ := hepoch
    · simp [hnone]
    · simp [howns]
  case slotsOwned =>
    refine any_eq_false fun e he => ?_
    obtain ⟨hlcid, howns, -⟩ := hslots e he
    simp [hlcid, howns]
  case enginesOwned =>
    refine any_eq_false fun e he => ?_
    obtain ⟨heng, howns, hregion, -⟩ := hengines e he
    simpa [heng, howns] using hregion
  case foreign =>
    refine any_eq_false fun i hi => ?_
    obtain ⟨x, hx, -⟩ := hreqs i hi
    simp [Chip.foreignReq, hx]
  case zero => simpa [reserved] using hzero
  case epoch =>
    obtain ⟨hnone, hzero⟩ | ⟨hnamed, -, hlt, hresident⟩ := hepoch
    · simp [hnone, hzero]
    · simp [hnamed, Nat.mod_eq_of_lt hlt, hresident, Nat.le_of_lt_succ hlt]
  case requests =>
    refine any_eq_false fun i hi => ?_
    obtain ⟨x, hx, hhandle, hepoch⟩ := hreqs i hi
    simp [hx, hhandle, hepoch]
  case once => simp [hslotsOnce, henginesOnce]
  case tasks =>
    refine any_eq_false fun e he => ?_
    obtain ⟨-, -, -, htasks, -⟩ := hengines e he
    simpa using htasks
  case serves =>
    refine any_eq_false fun e he => ?_
    obtain ⟨-, -, c, hserves, -⟩ := hslots e he
    simp [hserves]
  case slotsReady =>
    refine any_eq_false fun e he => ?_
    obtain ⟨-, -, c, hserves, howned, hst, hidle, hon⟩ := hslots e he
    have hready : ¬ (((s.chip.cl c).slot e.2).st ≠ .loaded ∧ ((s.chip.cl c).slot e.2).st ≠ .ended) := by tauto
    simp only [hserves, howned, hidle, hon, hready]
    rfl
  case enginesReady =>
    refine any_eq_false fun e he => ?_
    obtain ⟨-, -, -, -, hidle⟩ := hengines e he
    simp [hidle]

theorem runStart_starts : Claims.runStartRow := fun _ _ htaken hrun => exec_of_taken htaken rfl (checked_ok _ (runChecks_clear hrun))

theorem slot_begins : Claims.slotBegins := fun _ _ => ⟨fun h => if_neg h, fun h => if_pos h, rfl, rfl, rfl, rfl, rfl, rfl, rfl⟩

/-! ### RUN_CANCEL (R138, R394) -/

theorem runCancel_cancels : Claims.runCancelRow := by
  intro s q htaken id
  refine ⟨fun r hr hpart hctx => exec_of_taken htaken rfl ?_, fun r hr hforeign => exec_of_taken_refused htaken rfl ?_,
    fun hnone => exec_of_taken_refused htaken rfl ?_⟩
  · rw [hr]
    exact checked_ok _ (by simp [hpart, hctx])
  · rw [hr]
    exact checked_error _ (if_pos (by simpa using hforeign))
  · rw [hnone]

/-- A slot whose wait was not satisfied in this aclk is cancelled by its state. -/
theorem cancelOne_cancels : Claims.cancelledSlot := by
  intro ch k l n c hserves hopen
  simp only [Chip.cancelOne, hserves, hopen]
  cases ((ch.cl c).slot n).st <;> simp

/-! ### Requests (R312, R394) -/

theorem reqAdmit_admits : Claims.reqAdmitRow := by
  intro s q htaken b h n ids m ep hh howns hzero hzero' hn hmax hlen hvalid honce hnew hcurrent hkept hfit
  refine exec_of_taken htaken rfl (checked_ok _ ?_)
  simp only [List.forall_mem_cons]
  refine ⟨?handle, ?zero, ?zero', ?some, ?valid, ?new, ?length, ?ready, ?room, nofun⟩
  case handle => exact Bool.or_eq_false_iff.2 ⟨decide_eq_false (Nat.not_le.2 hh), by simpa using howns⟩
  case zero => simpa [reserved] using hzero
  case zero' => simpa [reserved] using hzero'
  case some => simpa using hn.ne'
  case valid => simpa using hvalid
  case new => simpa using ⟨honce, hnew⟩
  case length => simpa using ⟨hmax, hlen⟩
  case ready => simpa using ⟨hcurrent, hkept⟩
  case room => simpa using hfit

theorem reqEnd_ends : Claims.reqEndRow := by
  intro s q htaken b n ids hzero hn hmax hlen honce hadmitted hworks
  refine exec_of_taken htaken rfl (checked_ok _ ?_)
  simp only [List.forall_mem_cons]
  refine ⟨?zero, ?some, ?admitted, ?length, Chip.worksFull_false hworks, nofun⟩
  case zero => simpa [reserved] using hzero
  case some => simpa using hn.ne'
  case admitted =>
    refine Bool.or_eq_false_iff.2 ⟨by simpa using honce, any_eq_false fun i hi => ?_⟩
    obtain ⟨r, hr, hopen⟩ := hadmitted i hi
    rw [hr]
    exact hopen
  case length => simpa using ⟨hmax, hlen⟩

/-- Settles O41: a command whose checks are all refuted has its effect, and a slot is loaded, begins and is cancelled as its update says. -/
theorem runRows : Obligations.RunRows :=
  ⟨slotLoad_loads, loadTable_leaves, runStart_starts, slot_begins, runCancel_cancels, cancelOne_cancels, reqAdmit_admits, reqEnd_ends⟩

end Sys2Proof.Machine

/-! # Run, job and RESET commands complete (O59) -/

namespace Sys2Proof.Machine

/-! ### Tables and runs (spec/04_cluster.md R138, R141; spec/13_host_protocol.md R392, R393) -/

theorem slotLoad_completes : Claims.slotLoadCompletes := fun s q _ _ htaken hslot hplan =>
  ⟨s.chip.touchDva s.clk q.part (slotReq q.payload).dva (16 * (slotReq q.payload).len), slotLoad_of_ok htaken hslot hplan⟩

/-- A command accepted keeps its record among the works. -/
theorem taken_works (s : State) (ch : Chip) (q : Req) (op : Nat) (kind : WorkKind) (b : List Byte) :
    (Claims.taken s ch q op kind b).works = ch.works ++ [Claims.work s q op kind] := rfl

theorem runs_complete : Claims.runsComplete := by
  intro s q
  refine ⟨fun htaken hrun => ⟨_, runStart_starts s q htaken hrun, rfl, taken_works ..⟩, fun r htaken hr hpart hctx => ?_⟩
  obtain ⟨hcancels, -⟩ := runCancel_cancels s q htaken
  exact ⟨_, hcancels r hr hpart hctx, rfl⟩

/-! ### Requests (spec/13_host_protocol.md R394) -/

/-- A request appended under an id that no earlier one has is the one found. -/
theorem find?_append_map_new {old : List Request} {mk : Nat → Request} (hid : ∀ i, (mk i).id = i) {ids : List Nat} {i : Nat} (hi : i ∈ ids)
    (hnew : (old.find? fun r => r.id = i) = none) : ((old ++ ids.map mk).find? fun r => r.id = i) = some (mk i) := by
  have hsame : ((ids.map mk).find? fun r => r.id = i) = (ids.find? (· = i)).map mk := by
    rw [List.find?_map]
    congr 2
    funext j
    simp [hid]
  have hfound : ids.find? (· = i) = some i := by
    obtain ⟨j, hj⟩ := Option.isSome_iff_exists.1 (List.find?_isSome.2 ⟨i, hi, by simp⟩ : (ids.find? (· = i)).isSome)
    have hsame : j = i := by simpa using List.find?_some hj
    rw [hj, hsame]
  rw [List.find?_append, hnew, hsame, hfound]
  rfl

theorem requests_complete : Claims.requestsComplete := by
  intro s q
  refine ⟨fun htaken hadmit hwf => ?admitted, fun htaken hzero hn hmax hlen honce hadmitted hworks => ?retire⟩
  case admitted =>
    obtain ⟨hh, howns, hzero, hzero', hn, hmax, hlen, hvalid, honce, hnew, hcurrent, hkept, hfit⟩ := hadmit
    refine ⟨_, reqAdmit_admits s q htaken hh howns hzero hzero' hn hmax hlen hvalid honce hnew hcurrent hkept hfit, fun i hi => ?_⟩
    rw [Chip.modPt_pt _ _ _ hwf, if_pos rfl]
    exact ⟨_, find?_append_map_new (fun _ => rfl) hi (hnew i hi), rfl, rfl, rfl⟩
  case retire => exact ⟨_, reqEnd_ends s q htaken hzero hn hmax hlen honce hadmitted hworks, taken_works ..⟩

/-! ### RESET (spec/16_faults_recovery.md R480) -/

/-- A RESET of a unit that may be reset is accepted and its step queued. -/
theorem reset_of_unit {s : State} {q : Req} {u : RecUnit} (htaken : Claims.Taken s 0x0901 q) (hunit : resetUnit s.chip q = .ok u) (hzero : Claims.Zero q 1 1)
    (hzero' : Claims.Zero q 4 4) (hmode : s.chip.inRecoveryMode = false ∨ u = .package) (hworks : Claims.WorksFit s q) :
    exec (.reset q) s = .next (Claims.after s ((Claims.taken s s.chip q 0x0901 (.recovery u.code) []).enqueue
      { cause := 0, unit := u, detail := 0, seen := s.clk.timebase, works := [s.chip.nextWork] })) := by
  refine exec_of_taken htaken rfl ?_
  rw [hunit]
  refine checked_ok _ ?_
  simp only [List.cons_append, List.nil_append, List.forall_mem_cons]
  refine ⟨?zero, ?zero', ?mode, Chip.worksFull_false hworks, nofun⟩
  case zero => simpa [reserved] using hzero
  case zero' => simpa [reserved] using hzero'
  case mode => simpa [or_iff_not_imp_left] using hmode

theorem reset_completes : Claims.resetCompletes := by
  intro s q u htaken hzero hzero' hmode hworks kind unit p hnames
  have hunit : resetUnit s.chip q = .ok u := by
    dsimp only [kind, unit, p] at hnames
    obtain ⟨hkind, hctx, rfl⟩ | ⟨c, hkind, hid, howns, hserves, rfl⟩ | ⟨hkind, hid, howns, rfl⟩ | ⟨hkind, hmgmt, hid, rfl⟩ | ⟨hkind, hid, rfl⟩ |
      ⟨hkind, hmgmt, hid, rfl⟩ | ⟨hkind, hmgmt, hid, rfl⟩ := hnames
    · simp [resetUnit, hkind, hctx]
    · simp [resetUnit, hkind, hid, howns, hserves]
    · simp [resetUnit, hkind, hid, howns]
    · simp [resetUnit, hkind, hid, hmgmt]
    · simp [resetUnit, hkind, hid]
    · simp [resetUnit, hkind, hid, hmgmt]
    · simp [resetUnit, hkind, hid, hmgmt]
  exact ⟨_, reset_of_unit htaken hunit hzero hzero' hmode hworks, taken_works ..⟩

/-! ### Jobs and the fabric's status (spec/14_fabric.md R413, R414, R417, R423) -/

/-- Each check of a JOB_SETUP is refuted by the condition that asks for its contrary. -/
theorem jobChecks_clear {s : State} {q : Req} (hjob : Claims.JobOk s q) : Claims.Clear (jobChecks q s.chip) := by
  obtain ⟨hkey, hself, hroot, hshape, hweight, hweight', hzero, hzero', hzero'', hwinZero, hwins, hlong, hdev, hnew, hcolls, hflows, hflows', htimeout, hncoll,
    hnwin, hlen, hbars, hrange, htabs, hflowRoom, htabRoom, hslot⟩ := hjob
  simp only [Claims.Clear, jobChecks, List.forall_mem_cons]
  refine ⟨?key, ?self, ?root, ?shape, ?weight, ?zero, ?zero', ?zero'', ?windowZero, hwins, ?device, ?new, ?entries, ?flows, ?flowsMax, ?timeout, ?entriesMax,
    ?windowsMax, ?lengths, hlong, ?bound, ?range, ?sems, ?tables, ?images, ?arrived, ?flowRoom, ?tableRoom, ?slot, nofun⟩
  case key => simpa using hkey
  case self => simpa using hself
  case root => simpa using hroot
  case shape => exact any_eq_false fun d hd => by simp [hshape d hd]
  case weight => simpa using ⟨Nat.pos_iff_ne_zero.1 hweight, hweight'⟩
  case zero => simpa [reserved] using hzero
  case zero' => simpa [reserved] using hzero'
  case zero'' => simpa [reserved] using hzero''
  case windowZero => exact any_eq_false fun i hi => by simp [hwinZero i (List.mem_range.1 hi)]
  case device => exact any_eq_false fun w hw => by simp [hdev w hw]
  case new => simp [hnew]
  case entries =>
    refine any_eq_false fun e he => ?_
    obtain ⟨hform, -, -⟩ := hcolls e he
    exact hform
  case flows => simpa using Nat.pos_iff_ne_zero.1 hflows
  case flowsMax => simpa using hflows'
  case timeout => simpa using htimeout
  case entriesMax => simpa using hncoll
  case windowsMax => simpa using ⟨hnwin, hlen⟩
  case lengths =>
    refine any_eq_false fun e he => ?_
    obtain ⟨-, hshort, -⟩ := hcolls e he
    simpa using hshort
  case bound => exact any_eq_false fun b hb => by simp [hbars b hb]
  case range => simpa using hrange
  case sems =>
    refine any_eq_false fun e he => ?_
    obtain ⟨-, -, howns⟩ := hcolls e he
    simp [howns]
  case tables =>
    refine any_eq_false fun t ht => ?_
    obtain ⟨hread, -⟩ := htabs t ht
    exact hread
  case images =>
    refine any_eq_false fun t ht => ?_
    obtain ⟨-, hvalid⟩ := htabs t ht
    simp [hvalid]
  case arrived => exact any_eq_false fun b hb => by simp [hbars b hb]
  case flowRoom => simpa using hflowRoom
  case tableRoom => simpa using htabRoom
  case slot => simpa using Option.isSome_iff_ne_none.2 hslot

/-- The last check of a JOB_SETUP asks for a free job slot. -/
theorem freeJob_of_clear {ch : Chip} {q : Req} (hclear : Claims.Clear (jobChecks q ch)) : ∃ n, ch.fabric.freeJob = some n := by
  have hsome := hclear (ch.fabric.freeJob.isNone, (.noResource, none)) (by simp [jobChecks])
  exact Option.isSome_iff_exists.1 (by simpa using hsome)

theorem jobSetup_sets_up {s : State} {q : Req} {n : Nat} (htaken : Claims.Taken s 0x0A01 q) (hclear : Claims.Clear (jobChecks q s.chip))
    (hfree : s.chip.fabric.freeJob = some n) : exec (.jobSetup q) s = .next (Claims.after s (Claims.ok (s.chip.setupJob q n) q [])) := by
  refine exec_of_taken htaken rfl ?_
  rw [firstFail_eq_none.2 hclear, hfree]

/-- JOB_END of a job of the sender's partition is accepted, ends the job and is done. -/
theorem jobEnd_of_own {s : State} {q : Req} {n : Nat} {j : Job} (htaken : Claims.Taken s 0x0A02 q)
    (hslot : s.chip.jobSlot (beAt q.payload 0 2) = some (n, j)) (hpart : j.part = q.part) (hzero : Claims.Zero q 2 2) (hworks : Claims.WorksFit s q) :
    let kind : WorkKind := .jobEnd (beAt q.payload 0 2)
    exec (.jobEnd q) s = .next (Claims.after s (((Claims.taken s s.chip q 0x0A02 kind []).endJob s.clk n j).complete s.clk
      (Claims.work s q 0x0A02 kind) 0xE001 .ok [])) := by
  refine exec_of_taken htaken rfl ?_
  dsimp only
  rw [hslot]
  refine checked_ok _ ?_
  simp only [List.forall_mem_cons]
  refine ⟨by simpa using hpart, by simpa [reserved] using hzero, Chip.worksFull_false hworks, nofun⟩

theorem fabStatus_length (cfg : Nat) (status : Nat → Nat) : (toBe cfg 4 ++ (List.range 8).flatMap fun n => toBe (status n) 4).length = 36 := by
  simp [toBe, toLe]

theorem jobs_complete : Claims.jobsComplete := by
  intro s q
  refine ⟨fun htaken hjob => ?setup, fun n j htaken hslot hpart hzero hworks => ?finish, fun htaken => ?status⟩
  case setup =>
    have hclear := jobChecks_clear hjob
    obtain ⟨n, hfree⟩ := freeJob_of_clear hclear
    exact ⟨n, hfree, jobSetup_sets_up htaken hclear hfree⟩
  case finish => exact ⟨_, _, jobEnd_of_own htaken hslot hpart hzero hworks, rfl⟩
  case status => exact ⟨_, exec_of_taken htaken rfl rfl, fabStatus_length ..⟩

/-- Settles O59: each command's conditions clear its checks, and its effect keeps the works, the runs or the requests that the claim tells of. -/
theorem runJobAndResetCommandsComplete : Obligations.RunJobAndResetCommandsComplete :=
  ⟨slotLoad_completes, runs_complete, requests_complete, reset_completes, jobs_complete⟩

end Sys2Proof.Machine

/-! # Power collapse of a cluster (O35) -/

namespace Sys2Proof.Machine

/-! A notice reaches sessions and rings only, so no cluster changes by it (spec/13_host_protocol.md R398). -/

@[simp] theorem Chip.sendEvent_clusters (ch : Chip) (sid : Nat) (ev : Event) : (ch.sendEvent sid ev).clusters = ch.clusters := by
  unfold Chip.sendEvent
  split
  · rfl
  · dsimp only
    split <;> rfl

@[simp] theorem Chip.raiseTo_clusters (ch : Chip) (k : Clock) (p : Nat) (sids : List Nat) (ev : Event) :
    (ch.raiseTo k p sids ev).clusters = ch.clusters :=
  List.foldlRecOn (motive := fun t : Chip => t.clusters = ch.clusters) sids _ rfl fun t ht sid _ => (t.sendEvent_clusters sid ev).trans ht

@[simp] theorem Chip.notice_cl (ch : Chip) (k : Clock) (kind unit c : Nat) : (ch.notice k kind unit).cl c = ch.cl c := by
  rw [Chip.cl, Chip.notice, Chip.raise, Chip.raiseTo_clusters, Chip.cl]

/-! The count of a collapse's samples (spec/05_scratchpad.md R176). -/

/-- A sample below 0.15 V counts on from the samples before it. -/
theorem Chip.supplySample_below {ch : Chip} {c mv since n reason : Nat} (k : Clock) (hcollapsing : (ch.cl c).svc = .collapsing since n reason)
    (hlow : mv < 150) (hn : n < 200) : ch.supplySample k c mv =
      if n + 1 < 200 then ch.modCl c fun x => { x with svc := .collapsing since (n + 1) reason } else ch.collapseDone k c reason := by
  simp [Chip.supplySample, hcollapsing, hlow, Nat.not_le.2 hn]

/-- A sample of 0.15 V or more restarts the count. -/
theorem Chip.supplySample_above {ch : Chip} {c mv since n reason : Nat} (k : Clock) (hcollapsing : (ch.cl c).svc = .collapsing since n reason)
    (hhigh : 150 ≤ mv) (hn : n < 200) : ch.supplySample k c mv = ch.modCl c fun x => { x with svc := .collapsing since 0 reason } := by
  simp [Chip.supplySample, hcollapsing, Nat.not_lt.2 hhigh, Nat.not_le.2 hn]

theorem supplySample_counts : Claims.supplySampleRow := by
  intro s c mv since n reason hcollapsing hn
  have hexec : exec (.collapseSupplySample c mv) s = .next (Claims.after s (s.chip.supplySample s.clk c mv)) := rfl
  rw [hexec]
  refine ⟨fun hlow hmore => ?fewer, fun hhigh => ?above, fun hlow hlast => ?last⟩
  case fewer => rw [Chip.supplySample_below s.clk hcollapsing hlow hn, if_pos hmore]
  case above => rw [Chip.supplySample_above s.clk hcollapsing hhigh hn]
  case last => rw [Chip.supplySample_below s.clk hcollapsing hlow hn, if_neg (by omega)]

/-! The end of a collapse (R175, R176). -/

/-- The cluster whose domain has been off, in the epoch it then takes. -/
def Cluster.renewed (x : Cluster) : Cluster := { x.collapsed with epoch := x.epoch + 1 }

/-- A cluster in an epoch other than the first reads back as it was written. -/
theorem Chip.modCl_cl_of_epoch (ch : Chip) (c : Nat) {f : Cluster → Cluster} (h : (f (ch.cl c)).epoch ≠ 0) : (ch.modCl c f).cl c = f (ch.cl c) :=
  Chip.modCl_cl_of_ne_default ch c (x := f (ch.cl c)) fun e => h (congrArg Cluster.epoch e)

/-- A collapse that neither returns its cluster from repair nor belongs to a teardown leaves the cluster renewed and clean; the epoch it takes
is not the first. -/
theorem Chip.collapseDone_cl {ch : Chip} {c : Nat} (k : Clock) (h : (ch.cl c).epoch ≠ 0xFFFF) :
    (ch.collapseDone k c 0).cl c = { (ch.cl c).renewed with svc := .clean } := by
  have hepoch : (ch.cl c).renewed.epoch ≠ 0 := by
    change (ch.cl c).epoch + 1 ≠ 0
    bv_omega
  have hrenewed := ch.modCl_cl_of_epoch c (f := Cluster.renewed) hepoch
  have hclean (t : Chip) (ht : t.cl c = (ch.cl c).renewed) :
      (t.modCl c fun x => { x with svc := .clean }).cl c = { (ch.cl c).renewed with svc := .clean } := by
    rw [t.modCl_cl_of_epoch c (by rwa [ht]), ht]
  have hdone : ch.collapseDone k c 0 = ((if (ch.cl c).rowsPending then
      { ch.modCl c Cluster.renewed with boot := { ch.boot with repairDirty := true } } else ch.modCl c Cluster.renewed).modCl c
        fun x => { x with svc := .clean }).notice k 1 c := rfl
  rw [hdone, Chip.notice_cl, hclean]
  split <;> exact hrenewed

theorem collapse_leaves_clean : Claims.collapsedCluster := by
  intro k ch c h
  rw [Chip.collapseDone_cl k h]
  exact ⟨rfl, rfl, rfl, rfl, rfl, rfl, rfl, rfl, rfl, rfl, rfl, rfl⟩

/-! A collapse that fails (R177). -/

theorem Chip.collapseFailure_late {ch : Chip} {k : Clock} {c since n reason l : Nat} (hcollapsing : (ch.cl c).svc = .collapsing since n reason)
    (hn : n < 200) (hreason : reason < 16) (hlate : since + 2000000 ≤ k.localNs) (hlcid : (ch.cl c).lcid = some l) :
    ch.collapseFailure k c = ((ch.recordFailed c).notice k 2 c).useReserve k l c := by
  simp [Chip.collapseFailure, hcollapsing, hlcid, Nat.not_le.2 hn, Nat.not_lt.2 hlate, Nat.not_le.2 hreason]

theorem collapseFailure_uses_reserve : Claims.collapseFailureRow := fun s _ _ _ _ _ hcollapsing hn hreason hlate hlcid =>
  congrArg (fun ch => Host.Outcome.next (Claims.after s ch)) (Chip.collapseFailure_late hcollapsing hn hreason hlate hlcid)

/-- Settles O35: a sample by what it does to the count, the end of a collapse by what reads back, its failure by the branch it takes. -/
theorem collapseRows : Obligations.CollapseRows := ⟨supplySample_counts, collapse_leaves_clean, collapseFailure_uses_reserve⟩

end Sys2Proof.Machine

/-! # Barriers (O29) -/

namespace Sys2Proof.Machine

/-- A command that makes the block u, where u is t. -/
theorem exec_of_effect {s : State} {i : Instr} {u t : Chip} (hexec : exec i s = .next (Claims.after s u)) (h : u = t) :
    exec i s = .next (Claims.after s t) := h ▸ hexec

/-! ### A barrier, written and read back -/

/-- A partition other than the default reads back as it was written, in canonical form or not. -/
theorem Chip.modPt_pt_of_ne_default (ch : Chip) (p : Nat) {f : Partition → Partition} (h : f (ch.pt p) ≠ {}) : (ch.modPt p f).pt p = f (ch.pt p) :=
  look_put_of_ne ({} : Partition) ch.parts p h

/-- A partition that holds a barrier is not the default one. -/
theorem Partition.ne_default_of_bar {x : Partition} {b : Nat} (h : x.bar b ≠ {}) : x ≠ {} := by
  rintro rfl
  exact h rfl

/-- A barrier written with a value other than the default reads back. -/
theorem Chip.modBar_bar_of_ne_default (ch : Chip) (p b : Nat) {f : Barrier → Barrier} (h : f ((ch.pt p).bar b) ≠ {}) :
    ((ch.modBar p b f).pt p).bar b = f ((ch.pt p).bar b) := by
  have hbar : ({ ch.pt p with barriers := upd {} (ch.pt p).barriers b f } : Partition).bar b = f ((ch.pt p).bar b) :=
    look_put_of_ne ({} : Barrier) (ch.pt p).barriers b h
  rw [Chip.modBar, Chip.modPt_pt_of_ne_default ch p (Partition.ne_default_of_bar fun e => h (hbar.symm.trans e)), hbar]

/-! ### Arrivals (spec/06_streams_barriers.md R208 to R211) -/

/-- The member that arrived has last arrived at the generation that arrivals count to. -/
theorem Barrier.look_join_lastArr (x : Barrier) (l : Nat) (ckpt : Bool) (at_ : Option (Nat × Nat)) :
    look 0 (x.join l ckpt at_).lastArr l = x.arrGen.toNat + 1 := by
  have hput : (x.join l ckpt at_).lastArr = put 0 x.lastArr l (x.arrGen.toNat + 1) := by
    simp only [Barrier.join, apply_ite Barrier.lastArr, ite_self]
  rw [hput, look_put_of_ne 0 x.lastArr l (Nat.succ_ne_zero _)]

/-- A barrier with an arrival is not the default one. -/
theorem Barrier.join_ne_default (x : Barrier) (l : Nat) (ckpt : Bool) (at_ : Option (Nat × Nat)) : x.join l ckpt at_ ≠ {} := by
  intro h
  have hlast := x.look_join_lastArr l ckpt at_
  rw [h, look_nil] at hlast
  exact Nat.succ_ne_zero _ hlast.symm

/-- Outside a replay a cluster that serves an lcid of p arrives for it, as the entry it stands at (R209). -/
theorem Chip.arrive_of_live {ch : Chip} {c l p : Nat} (k : Clock) (hlcid : (ch.cl c).lcid = some l) (howner : ch.ownerOf l = some p)
    (hlive : (ch.cl c).replay = none) (b : Nat) (ckpt : Bool) :
    ch.arrive k c b ckpt = ch.arriveLive k c p l b ckpt (some ((ch.cl c).cur, (ch.cl c).curSlot.ptr)) := by
  simp only [Chip.arrive, hlcid, howner, hlive, Option.bind_some, Option.map_some]

/-- An arrival that is open to its lcid finds none of the faults of R209 and R210. -/
theorem Chip.arriveLive_of_open {s : State} {c l p b : Nat} {ckpt : Bool} (k : Clock) (at_ : Option (Nat × Nat))
    (hopen : Claims.ArrivalOpen s c l p b ckpt) :
    let y := ((s.chip.pt p).bar b).join l ckpt at_
    let t := s.chip.modBar p b fun _ => y
    s.chip.arriveLive k c p l b ckpt at_ =
      if y.count < y.members.length then some t
      else if y.job.isNone then some (t.modBar p b (Barrier.release (t.pt p).fill (if t.oneDie y then some (c, (t.cl c).aclk + 2) else none)))
      else some ((t.modBar p b fun z => { z with localDone := some k.localNs }).barrierUp p b) := by
  obtain ⟨-, -, hmember, hnew, hkind⟩ := hopen
  refine if_neg ?_
  rw [hmember, hnew]
  simpa [or_iff_not_imp_left] using hkind

/-- A live arrival of a member that is not the last joins the generation. -/
theorem Chip.arrive_joins {s : State} {c l p b : Nat} {ckpt : Bool} (k : Clock) (hlive : Claims.Live s c) (hopen : Claims.ArrivalOpen s c l p b ckpt) :
    let y := ((s.chip.pt p).bar b).join l ckpt (Claims.entryKey s c)
    y.count < y.members.length → s.chip.arrive k c b ckpt = some (s.chip.modBar p b fun _ => y) := by
  intro y hmore
  have ⟨hlcid, howner, _⟩ := hopen
  rw [Chip.arrive_of_live k hlcid howner hlive, Chip.arriveLive_of_open k _ hopen]
  exact if_pos hmore

/-- A live arrival of the last member of a barrier without a job releases its generation. -/
theorem Chip.arrive_releases {s : State} {c l p b : Nat} {ckpt : Bool} (k : Clock) (hlive : Claims.Live s c) (hopen : Claims.ArrivalOpen s c l p b ckpt) :
    let y := ((s.chip.pt p).bar b).join l ckpt (Claims.entryKey s c)
    let t := s.chip.modBar p b fun _ => y
    y.members.length ≤ y.count → y.job = none → s.chip.arrive k c b ckpt =
      some (t.modBar p b (Barrier.release (t.pt p).fill (if t.oneDie y then some (c, (t.cl c).aclk + 2) else none))) := by
  intro y t hlast hjob
  have ⟨hlcid, howner, _⟩ := hopen
  rw [Chip.arrive_of_live k hlcid howner hlive, Chip.arriveLive_of_open k _ hopen]
  exact (if_neg (Nat.not_lt.2 hlast)).trans (if_pos (Option.isNone_iff_eq_none.2 hjob))

/-- ARRIVE makes its arrival, and filler rises where the generation is near (R443). -/
theorem fieldArrive_of_arrive {ch t : Chip} {k : Clock} {c : Nat} {bar : BitVec 5} (h : ch.arrive k c bar.toNat false = some t) :
    fieldArrive c bar k ch (ch.cl c) = some (t.fillUp k (ch.cl c).curSlot.part bar.toNat) := by
  rw [fieldArrive, h, Option.map_some]

/-- A message that is fresh acts as the field of its entry. -/
theorem onChip_message_of_fresh {s : State} {c : Nat} {epoch : BitVec 16} (i : Instr) (h : Claims.Fresh s c epoch) :
    onChip s (message c epoch i) = onChip s (field c i) := by
  rw [onChip_eq, message_of_fresh i s.clk h, onChip_eq]

theorem arrive_joins_or_releases : Claims.arriveRow := by
  intro s c epoch bar l p hfresh hfires hlive hopen y t
  have hexec : exec (.arrive c epoch bar) s = onChip s (field c (.arrive c epoch bar)) := onChip_message_of_fresh _ hfresh
  exact ⟨fun hmore => exec_of_fires hfires hexec rfl (fieldArrive_of_arrive (Chip.arrive_joins s.clk hlive hopen hmore)),
    fun hlast hjob => exec_of_fires hfires hexec rfl (fieldArrive_of_arrive (Chip.arrive_releases s.clk hlive hopen hlast hjob))⟩

/-! ### Waits on a barrier (spec/04_cluster.md R126, R131; R208) -/

/-- A wait on a barrier, presented by a slot that is not cancelled: filler rises where the generation is near (R443). -/
theorem Chip.present_of_bar {ch t : Chip} {k : Clock} {c b g : Nat} {dl : BitVec 2} {f : WaitField} (hgo : (ch.cl c).curSlot.cancelling = false)
    (hf : f k ch (ch.cl c) = some (t, .bar b g)) :
    ch.present k c dl f = ((t.stand c (.bar b g) dl).waitGo k c (ch.cl c).cur).fillUp k (ch.cl c).curSlot.part b := by
  simp only [Chip.present, hgo, hf]
  rfl

/-- A slot that has come to stand in a wait, the cluster being otherwise as the entry found it: the wait is taken at its turn. -/
theorem presents_of_stand {s : State} {c : Nat} {i : Instr} {t : Chip} {dl : BitVec 2} {on : WaitOn} {fill : Chip → Chip} (hcl : t.cl c = s.chip.cl c)
    (hexec : exec i s = .next (Claims.after s (fill ((t.stand c on dl).waitGo s.clk c (s.chip.cl c).cur)))) : Claims.Presents s i c t dl on fill := by
  unfold Claims.Presents
  extract_lets n w h
  have hstand : t.stand c on dl = h := by
    change (t.modSlot c (t.cl c).cur fun y =>
      { y with st := .waiting, wait := some { on := on, budget := look 0xFFFFFF (t.cl c).curSlot.budgets dl.toNat, since := (t.cl c).aclk } }) = h
    rw [hcl]
  have hslot : (h.cl c).slot n = { (t.cl c).slot n with st := .waiting, wait := some w } :=
    Chip.modSlot_slot_of_ne_default t c n (fun e => nomatch congrArg Slot.st e)
  have hstanding : ((h.cl c).slot n).standing = some w := by rw [hslot]; rfl
  have hst : ((h.cl c).slot n).st = .waiting := by rw [hslot]
  rw [hexec, hstand, Chip.waitGo_of_standing hstanding, hst]
  refine ⟨fun hturn => ?_, fun hturn hrest => ?_, fun hturn hrest => ?_⟩
  · simp [hturn, w]
  · simp [hturn, w, Option.isSome_iff_ne_none.1 hrest]
  · simp [hturn, w, hrest]

/-- A field that waits on a barrier after it has made the block t of it. -/
theorem presents_of_bar {s : State} {c b g : Nat} {i : Instr} {dl : BitVec 2} {f : WaitField} {t : Chip} (hwaits : Claims.Waits s c i)
    (hexec : exec i s = onChip s (field c i)) (hwait : waitOf i = some (dl, f)) (hf : f s.clk s.chip (s.chip.cl c) = some (t, .bar b g))
    (hcl : t.cl c = s.chip.cl c) : Claims.Presents s i c t dl (.bar b g) fun h => h.fillUp s.clk (Claims.owner s c) b := by
  obtain ⟨hdue, hgo⟩ := hwaits
  refine presents_of_stand hcl ?_
  rw [hexec, onChip_eq, field_waits hdue hwait, Chip.present_of_bar hgo hf]
  rfl

theorem waitbar_presents : Claims.waitbarRow := by
  intro s c bar dl hwaits n hn
  exact presents_of_bar hwaits rfl rfl (if_neg hn) rfl

theorem barTurn_iff : Claims.barTurn := by
  intro ch c n b g hcapture hheld d
  simp [Chip.waitTurn, Chip.waitMet, hcapture, hheld, d]

/-- After the arrival of its lcid at a barrier of its own partition, a cluster's barrier wait is for the generation it arrived at (R131). -/
theorem Chip.barWait_of_join {s : State} {c l p b : Nat} {ckpt : Bool} (at_ : Option (Nat × Nat)) (hlive : Claims.Live s c)
    (howner : Claims.owner s c = p) (hlcid : (s.chip.cl c).lcid = some l) :
    let x := (s.chip.pt p).bar b
    let t := s.chip.modBar p b fun _ => x.join l ckpt at_
    t.barWait c b = some (t, .bar b x.arrGen.toNat) := by
  intro x t
  have hcl : t.cl c = s.chip.cl c := rfl
  have hbar : (t.pt p).bar b = x.join l ckpt at_ :=
    Chip.modBar_bar_of_ne_default s.chip p b (f := fun _ => x.join l ckpt at_) (x.join_ne_default l ckpt at_)
  have hlast : t.lastArrival c (t.cl c).curSlot.part b = x.arrGen.toNat + 1 := by
    have hpart : (s.chip.cl c).curSlot.part = p := howner
    simp only [Chip.lastArrival, hcl, hpart, hbar, hlcid, hlive, x.look_join_lastArr]
  rw [Chip.barWait, hlast]
  rfl

/-- An operation that arrives at a barrier as its lcid's arrival of a kind, and then waits on it. -/
theorem presents_of_arrival {s : State} {c l p : Nat} {i : Instr} {bar : BitVec 5} {dl : BitVec 2} {f : WaitField} {ckpt : Bool}
    (hwaits : Claims.Waits s c i) (hexec : exec i s = onChip s (field c i)) (hwait : waitOf i = some (dl, f))
    (hf : f s.clk s.chip (s.chip.cl c) = (s.chip.arrive s.clk c bar.toNat ckpt).bind fun h => h.barWait c bar.toNat) (hlive : Claims.Live s c)
    (howner : Claims.owner s c = p) (hopen : Claims.ArrivalOpen s c l p bar.toNat ckpt) :
    let y := ((s.chip.pt p).bar bar.toNat).join l ckpt (Claims.entryKey s c)
    y.count < y.members.length →
    Claims.Presents s i c (s.chip.modBar p bar.toNat fun _ => y) dl (.bar bar.toNat ((s.chip.pt p).bar bar.toNat).arrGen.toNat)
      fun h => h.fillUp s.clk p bar.toNat := by
  intro y hmore
  have ⟨hlcid, _⟩ := hopen
  have hwaitField : f s.clk s.chip (s.chip.cl c) =
      some (s.chip.modBar p bar.toNat fun _ => y, .bar bar.toNat ((s.chip.pt p).bar bar.toNat).arrGen.toNat) := by
    rw [hf, Chip.arrive_joins s.clk hlive hopen hmore]
    exact Chip.barWait_of_join (Claims.entryKey s c) hlive howner hlcid
  subst howner
  exact presents_of_bar hwaits hexec hwait hwaitField rfl

theorem arrwait_presents : Claims.arrwaitRow (fun c e b d => .arrwait c e b d) false := fun _ _ _ _ _ _ _ hfresh hwaits hlive howner hopen =>
  presents_of_arrival hwaits (onChip_message_of_fresh _ hfresh) rfl rfl hlive howner hopen

theorem ckpt_presents : Claims.arrwaitRow (fun c e b d => .ckpt c e b d) true := fun _ _ _ _ _ _ _ hfresh hwaits hlive howner hopen =>
  presents_of_arrival hwaits (onChip_message_of_fresh _ hfresh) rfl rfl hlive howner hopen

/-- Two changes of a cluster that agree on it as it stands. -/
theorem Chip.modCl_congr {ch : Chip} {c : Nat} {f g : Cluster → Cluster} (h : f (ch.cl c) = g (ch.cl c)) : ch.modCl c f = ch.modCl c g :=
  congrArg (fun x => { ch with clusters := put {} ch.clusters c x }) h

/-! ### Releases (R5, R128, R208) and filler (spec/15_power_clocks_thermal.md R443) -/

theorem barrierRelease_reaches : Claims.barrierReleaseRow := by
  intro s p b x hdue
  have hopen : ¬ (!s.chip.releaseDue x) = true := by simp [hdue]
  exact exec_of_effect rfl (if_neg hopen)

theorem releaseDue_iff : Claims.releaseDueRule := by
  intro ch x hreleased
  refine ⟨fun c t hat => ?_, fun hat => ?_⟩
  · simp only [Chip.releaseDue, hat]
    simp [hreleased]
  · simp only [Chip.releaseDue, hat]
    simp [hreleased]

theorem fillerRamp_ramps : Claims.fillerRampRow := by
  intro s c t hdown hdue
  refine exec_of_effect rfl (Chip.modCl_congr ?_)
  simp only [hdown]
  exact if_pos hdue

/-- Settles O29: an arrival by what the barrier then holds, a wait by the generation it is for, a release and the ramp by their conditions. -/
theorem barrierRows : Obligations.BarrierRows :=
  ⟨arrive_joins_or_releases, waitbar_presents, barTurn_iff, arrwait_presents, ckpt_presents, barrierRelease_reaches, releaseDue_iff, fillerRamp_ramps⟩

end Sys2Proof.Machine

/-! # Halves, roles and yields (O30) -/

namespace Sys2Proof.Machine

/-! ### WAITHALF (spec/04_cluster.md R127, R128) -/

theorem waithalf_presents : Claims.waithalfRow := fun _ _ _ _ _ hwaits howns => presents_of_wait hwaits rfl rfl (if_pos howns) nofun

theorem halfTurn_iff : Claims.halfTurn := by
  intro ch c n st h hcapture hheld y
  unfold Chip.waitTurn
  rw [hcapture, hheld]
  exact Bool.and_true _

/-! ### RELHALF (spec/06_streams_barriers.md R190, R191, R194, R195) -/

/-- A RELHALF of a copy stream or a stopped one changes nothing. -/
theorem fieldRelhalf_of_stopped {ch : Chip} (k : Clock) {c : Nat} {stream : BitVec 6} (half : Bool)
    (howns : (ch.pt (ch.cl c).curSlot.part).ownsStream (regionOf c) stream.toNat = true)
    (hstopped : let x := ch.str (regionOf c) stream.toNat; x.st = .faulted ∨ x.st = .stopping ∨ ∃ d, x.last = some d ∧ d.dir = 2) :
    fieldRelhalf c stream half k ch (ch.cl c) = some ch := by
  simp only [fieldRelhalf, howns, Bool.not_true, Bool.false_eq_true, if_false]
  refine if_pos ?_
  obtain hst | hst | ⟨d, hlast, hdir⟩ := hstopped
  · simp [hst]
  · simp [hst]
  · simp [hlast, hdir]

/-- A RELHALF of a stream that moves data, idle or active, puts the half on its way to the engine. -/
theorem fieldRelhalf_of_running {ch : Chip} (k : Clock) {c : Nat} {stream : BitVec 6} (half : Bool)
    (howns : (ch.pt (ch.cl c).curSlot.part).ownsStream (regionOf c) stream.toNat = true)
    (hst : let x := ch.str (regionOf c) stream.toNat; x.st = .idle ∨ x.st = .active)
    (hdir : ∀ d, (ch.str (regionOf c) stream.toNat).last = some d → d.dir ≠ 2) :
    fieldRelhalf c stream half k ch (ch.cl c) =
      some (ch.modCl c fun y => y.later y.aclk (.rel (regionOf c) stream.toNat (ch.halfOf c stream.toNat half))) := by
  simp only [fieldRelhalf, howns, Bool.not_true, Bool.false_eq_true, if_false]
  refine if_neg ?_
  cases hlast : (ch.str (regionOf c) stream.toNat).last with
  | none => obtain hst | hst := hst <;> simp [hst]
  | some d => obtain hst | hst := hst <;> simp [hst, hdir d hlast]

theorem relhalf_releases : Claims.relhalfRow := by
  intro s c epoch stream half hfresh hfires howns r x
  have hexec : exec (.relhalf c epoch stream half) s = onChip s (field c (.relhalf c epoch stream half)) := onChip_message_of_fresh _ hfresh
  exact ⟨fun hstopped => exec_of_fires hfires hexec rfl (fieldRelhalf_of_stopped s.clk half howns hstopped),
    fun hst hdir => exec_of_fires hfires hexec rfl (fieldRelhalf_of_running s.clk half howns hst hdir)⟩

theorem handOver_takes : Claims.handOverRule := by
  intro k ch r st h x
  have hruns (hst : x.st = .idle ∨ x.st = .active) : (decide (x.st = .faulted) || decide (x.st = .stopping)) = false := by
    obtain hst | hst := hst <;> simp [hst]
  refine ⟨fun hstopped => if_pos (by simpa using hstopped), fun hst heng => ?_, fun hst heng => ?_⟩
  · simp only [Chip.handOver, hruns hst, heng, x]
    rfl
  · simp only [Chip.handOver, hruns hst, heng, x]
    rfl

/-! ### SWAP and YIELDPT (spec/05_scratchpad.md R166; spec/04_cluster.md R135) -/

theorem swap_inverts : Claims.swapRow := fun _ _ _ hfires hpair => exec_of_fires hfires rfl rfl (if_pos hpair)

/-- A YIELDPT looks for a ready slot that outranks the current one. -/
theorem outranked_iff {s : State} {c : Nat} : Claims.Outranked s c ↔
    ((List.range 4).any fun n => decide (n ≠ (s.chip.cl c).cur) && ((s.chip.cl c).slot n).ready &&
      decide ((Claims.cur s c).prio < ((s.chip.cl c).slot n).prio)) = true := by
  simp [Claims.Outranked, and_assoc]

theorem yieldpt_yields : Claims.yieldptRow := fun _ _ hfires =>
  ⟨fun hout => exec_of_fires hfires rfl rfl (if_pos (outranked_iff.1 hout)),
    fun hnone => exec_of_fires hfires rfl rfl (if_neg fun h => hnone (outranked_iff.2 h))⟩

/-- Settles O30: a half by its wait, its release and its way into the engine, a role by the inversion on its way, a yield by the slot that outranks. -/
theorem halfAndSwapRows : Obligations.HalfAndSwapRows :=
  ⟨waithalf_presents, halfTurn_iff, relhalf_releases, handOver_takes, swap_inverts, yieldpt_yields⟩

end Sys2Proof.Machine

/-! # Stream slots: arm, withdrawal, deadline and return to idle (O42) -/

namespace Sys2Proof.Machine

/-! ### STREAM_ARM (spec/06_streams_barriers.md R183, R188) -/

/-- An arm whose checks find nothing is accepted and arms its descriptor. -/
theorem streamArm_of_clear {s : State} {q : Req} (htaken : Claims.Taken s 0x0504 q) (hclear : Claims.Clear (armChecks q s.chip)) :
    exec (.streamArm q) s = .next (Claims.after s (Claims.ok (s.chip.arm s.clk (leAt q.payload 0 1) (leAt q.payload 1 1)
      { descOf (q.payload.drop 4) with ctx := q.ctx, session := q.session, seqNo := q.seq, armed := s.clk.timebase }) q [])) :=
  exec_of_taken htaken rfl (checked_ok _ hclear)

theorem streamArm_arms : Claims.streamArmRow := by
  intro s q htaken hclear r st d
  rw [streamArm_of_clear htaken hclear, Chip.arm]
  refine ⟨fun hlen hidle => ?idle, fun hlen hactive => ?active, fun hlen => ?empty⟩
  case idle => rw [if_neg hlen, if_pos (Option.isNone_iff_eq_none.2 hidle)]
  case active => rw [if_neg hlen, if_neg (mt Option.isNone_iff_eq_none.1 hactive)]
  case empty => rw [if_pos hlen]

/-! ### STREAM_WITHDRAW (R195) -/

/-- A stop of a stream that is not active changes nothing. -/
theorem Chip.stopStream_of_not_active {ch : Chip} {r st : Nat} (k : Clock) (cause : Nat) (h : (ch.str r st).st ≠ .active) :
    ch.stopStream k r st cause = ch :=
  if_pos h

theorem streamWithdraw_stops : Claims.streamWithdrawRow := by
  intro s q htaken r st hr howns hzero
  have hstops : exec (.streamWithdraw q) s = .next (Claims.after s (Claims.ok (s.chip.stopStream s.clk r st 5) q [])) := by
    refine exec_of_taken htaken rfl (checked_ok _ ?_)
    simp only [List.forall_mem_cons]
    refine ⟨?own, ?zero, nofun⟩
    case own => exact Bool.or_eq_false_iff.2 ⟨decide_eq_false (Nat.not_le.2 hr), by simpa using howns⟩
    case zero => simpa [reserved] using hzero
  refine ⟨hstops, fun hidle => ?_⟩
  rw [hstops, Chip.stopStream_of_not_active s.clk 5 hidle]

/-! ### HALF_DEADLINE (R192) -/

/-- A half without a descriptor has no deadline. -/
theorem Chip.halfDeadline_of_none {ch : Chip} {r st : Nat} {h : Bool} (k : Clock) (hdesc : ((ch.str r st).half h).desc = none) :
    ch.halfDeadline k r st h = ch := by
  simp only [Chip.halfDeadline, hdesc]

/-- A half whose deadline has not passed in the engine's hands is left as it is; one that passes it is late, and of an inbound weight stream the
blocks still out are asked of the fallback. -/
theorem Chip.halfDeadline_of_desc {ch : Chip} {r st : Nat} {h : Bool} {d : Desc} (k : Clock) (hdesc : ((ch.str r st).half h).desc = some d) :
    let y := (ch.str r st).half h
    let t := ch.modStr r st fun x => { (x.modHalf h fun y => { y with expired := true }) with late := true }
    ch.halfDeadline k r st h =
      if y.eng = false ∨ y.expired = true ∨ d.deadline = 0 ∨ k.timebase < y.handover + d.deadline then ch
      else if d.dir = 0 ∧ d.fallback ≠ 0 then t.modStr r st fun x => (t.blocksOut r st h d).foldl (fun x b => x.askSub h b none true []) x
      else t.streamLate k r st d h := by
  simp only [Chip.halfDeadline, hdesc, Bool.or_eq_true, Bool.not_eq_true', Bool.and_eq_true, decide_eq_true_eq, or_assoc]

theorem halfDeadline_expires : Claims.halfDeadlineRow := by
  intro s r st h y
  have hexec : exec (.halfDeadline r st h) s = .next (Claims.after s (s.chip.halfDeadline s.clk r st h)) := rfl
  rw [hexec]
  refine ⟨fun hdesc => ?_, fun d hdesc => ?_⟩
  · rw [Chip.halfDeadline_of_none s.clk hdesc]
    rfl
  rw [Chip.halfDeadline_of_desc s.clk hdesc]
  refine ⟨fun hwaits => ?waits, fun heng hfirst hset hpast => ?past⟩
  case waits =>
    rw [if_pos hwaits]
    rfl
  case past =>
    have hpassed : ¬ (y.eng = false ∨ y.expired = true ∨ d.deadline = 0 ∨ s.clk.timebase < y.handover + d.deadline) := by
      simp [heng, hfirst, hset, hpast]
    rw [if_neg hpassed]
    exact ⟨fun hlate => by rw [if_neg (by tauto)], fun hin hfb => by rw [if_pos ⟨hin, hfb⟩]⟩

/-! ### STREAM_IDLE_RETURN (R196; spec/12_partitions_security.md R355) -/

theorem idleReturn_frees : Claims.streamIdleRow := by
  intro s r st x
  refine ⟨fun hstopped hdrained => exec_of_effect rfl (if_pos ⟨hstopped, List.isEmpty_iff.2 hdrained⟩),
    fun hbusy => exec_of_effect (t := s.chip) rfl (if_neg ?_)⟩
  rintro ⟨hstopped, hdrained⟩
  obtain hst | hst | hreqs := hbusy
  · simp [x, hst] at hstopped
  · simp [x, hst] at hstopped
  · exact hreqs (List.isEmpty_iff.1 hdrained)

/-- Settles O42: an arm by the slot it finds free, a withdrawal by its stop, a deadline and a return to idle by their conditions. -/
theorem streamRows : Obligations.StreamRows := ⟨streamArm_arms, streamWithdraw_stops, halfDeadline_expires, idleReturn_frees⟩

end Sys2Proof.Machine

/-! # The wheel and the stream's requests (O43) -/

namespace Sys2Proof.Machine

/-! ### WHEEL_POSITION (spec/06_streams_barriers.md R200, R204, R205) -/

/-- The partitions that borrow a position that p lends, in ascending order after p. -/
def Chip.borrowers (ch : Chip) (p w : Nat) (write : Bool) : List Nat :=
  ((List.range 7).map fun i => (p + 1 + i) % 8).filter fun b => (ch.pt b).valid && (ch.pt b).borrows w write

theorem Chip.wheelPosition_of_no_owner {ch : Chip} {w pos : Nat} (k : Clock) (h : (ch.wheelAt w pos).owner = none) : ch.wheelPosition k w pos = ch := by
  simp only [Chip.wheelPosition, h]

/-- A position goes to its owner's best offer. -/
theorem Chip.wheelPosition_of_own_offer {ch : Chip} {w pos p : Nat} {o : Offer} (k : Clock) (howner : (ch.wheelAt w pos).owner = some p)
    (hbest : bestOffer ((ch.makeReqs k p).offers k p w (ch.wheelAt w pos).write) = some o) :
    ch.wheelPosition k w pos = (ch.makeReqs k p).grant k w (ch.wheelAt w pos).write o := by
  simp only [Chip.wheelPosition, howner, hbest]

/-- A position its owner has no offer for stays idle when the owner does not lend it. -/
theorem Chip.wheelPosition_of_kept {ch : Chip} {w pos p : Nat} (k : Clock) (howner : (ch.wheelAt w pos).owner = some p)
    (hnone : bestOffer ((ch.makeReqs k p).offers k p w (ch.wheelAt w pos).write) = none)
    (hkept : ((ch.makeReqs k p).pt p).lends w (ch.wheelAt w pos).write = false) : ch.wheelPosition k w pos = ch.makeReqs k p := by
  simp only [Chip.wheelPosition, howner, hnone, hkept, Bool.not_false, if_true]

/-- A position that is lent goes to the first borrower that offers. -/
theorem Chip.wheelPosition_of_lent {ch : Chip} {w pos p : Nat} (k : Clock) (howner : (ch.wheelAt w pos).owner = some p)
    (hnone : bestOffer ((ch.makeReqs k p).offers k p w (ch.wheelAt w pos).write) = none)
    (hlent : ((ch.makeReqs k p).pt p).lends w (ch.wheelAt w pos).write = true) :
    let write := (ch.wheelAt w pos).write
    let bs := (ch.makeReqs k p).borrowers p w write
    let t := bs.foldl (fun c b => c.makeReqs k b) (ch.makeReqs k p)
    (∀ o, (bs.findSome? fun b => bestOffer (t.offers k b w write)) = some o → ch.wheelPosition k w pos = t.grant k w write o) ∧
    ((bs.findSome? fun b => bestOffer (t.offers k b w write)) = none → ch.wheelPosition k w pos = t) := by
  dsimp only [Chip.borrowers]
  exact ⟨fun o hfirst => by simp only [Chip.wheelPosition, howner, hnone, hlent, Bool.not_true, Bool.false_eq_true, if_false, hfirst],
    fun hfirst => by simp only [Chip.wheelPosition, howner, hnone, hlent, Bool.not_true, Bool.false_eq_true, if_false, hfirst]⟩

theorem wheelPosition_serves : Claims.wheelPositionRow := by
  intro s w pos x
  have hexec : exec (.wheelPosition w pos) s = .next (Claims.after s (s.chip.wheelPosition s.clk w pos)) := rfl
  rw [hexec]
  refine ⟨fun howner => ?_, fun p howner => ?_⟩
  · rw [Chip.wheelPosition_of_no_owner s.clk howner]
    rfl
  intro ch
  refine ⟨fun o hbest => ?own, fun hnone hkept => ?kept, fun hnone hlent => ?lent⟩
  case own => rw [Chip.wheelPosition_of_own_offer s.clk howner hbest]
  case kept => rw [Chip.wheelPosition_of_kept s.clk howner hnone hkept]
  case lent =>
    intro bs t
    obtain ⟨hgranted, hidle⟩ := Chip.wheelPosition_of_lent s.clk howner hnone hlent
    cases hfirst : bs.findSome? fun b => bestOffer (t.offers s.clk b w x.write) with
    | some o =>
      rw [hgranted o hfirst]
      rfl
    | none =>
      rw [hidle hfirst]
      rfl

/-! ### STREAM_REQUEST_COMPLETE (R163, R190, R191, R193) -/

theorem Chip.streamRequestComplete_of_none {ch : Chip} {r st : Nat} (k : Clock) (h : (ch.str r st).landable = none) :
    ch.streamRequestComplete k r st = ch := by
  simp only [Chip.streamRequestComplete, h]

/-- A granted request completes once its bytes have room. -/
theorem Chip.streamRequestComplete_of_some {ch : Chip} {r st : Nat} {q : StreamReq} (k : Clock) (h : (ch.str r st).landable = some q) :
    ch.streamRequestComplete k r st = if ch.roomFor r st q then ch.reqDoneAt k r st q (ch.reqBytes q) else ch := by
  simp only [Chip.streamRequestComplete, h]

/-- A write to memory that loses no word leaves its bytes there. -/
theorem Chip.landWrite_of_kept {ch : Chip} {q : StreamReq} {a : Nat} (k : Clock) (r st : Nat) (hwindow : q.window = none) (hphys : q.phys = some a)
    (hkept : ch.lostWrite a q.len = false) : ch.landWrite k r st q = ch.writePhys k a q.data := by
  simp [Chip.landWrite, hwindow, hphys, hkept]

/-- The bytes of a read of memory. -/
theorem Chip.reqBytes_of_phys {ch : Chip} {q : StreamReq} {a : Nat} (hwindow : q.window = none) (hphys : q.phys = some a) :
    ch.reqBytes q = if ch.lostPhys a q.len then none else some (ch.readPhys a q.len) := by
  simp only [Chip.reqBytes, hwindow, hphys]

/-- A write that completes lands, and counts for its stream unless that gave it up. -/
theorem Chip.reqDoneAt_of_write {ch : Chip} {q : StreamReq} (k : Clock) (r st : Nat) (data : Option (List Byte)) (hwrite : q.write = true) :
    let t := (ch.dropReq r st q).landWrite k r st q
    ch.reqDoneAt k r st q data = if q.drop = true ∨ (t.str r st).st ≠ .active then t else t.creditWrite k r st q := by
  simp [Chip.reqDoneAt, hwrite]

/-- A read of memory that completes is counted, and reaches its stream unless that gave it up. -/
theorem Chip.reqDoneAt_of_read {ch : Chip} {q : StreamReq} {a : Nat} (k : Clock) (r st : Nat) (data : Option (List Byte)) (hread : q.write = false)
    (hwindow : q.window = none) (hphys : q.phys = some a) :
    let t := (ch.dropReq r st q).touchPhys k a q.len
    ch.reqDoneAt k r st q data = if q.drop then t else t.landRead k r st q data := by
  simp [Chip.reqDoneAt, hread, hwindow, hphys]

theorem streamRequest_completes : Claims.streamRequestRow := by
  intro s r st
  have hexec : exec (.streamRequestComplete r st) s = .next (Claims.after s (s.chip.streamRequestComplete s.clk r st)) := rfl
  rw [hexec]
  refine ⟨fun hnone => ?none, fun q hq hfull => ?full, fun q a hq hroom hwindow hphys => ?done⟩
  case none =>
    rw [Chip.streamRequestComplete_of_none s.clk hnone]
    rfl
  case full =>
    rw [Chip.streamRequestComplete_of_some s.clk hq, if_neg (Bool.eq_false_iff.1 hfull)]
    rfl
  case done =>
    rw [Chip.streamRequestComplete_of_some s.clk hq, if_pos hroom]
    refine ⟨fun hwrite hdrop hkept => ?_, fun hwrite hdrop hkept hactive => ?_, fun hread hdrop => ?_, fun hread hdrop => ?_⟩
    · rw [Chip.reqDoneAt_of_write s.clk r st _ hwrite, if_pos (.inl hdrop), Chip.landWrite_of_kept s.clk r st hwindow hphys hkept]
    · rw [Chip.reqDoneAt_of_write s.clk r st _ hwrite, Chip.landWrite_of_kept s.clk r st hwindow hphys hkept, if_neg (by simp [hdrop, hactive])]
    · rw [Chip.reqDoneAt_of_read s.clk r st _ hread hwindow hphys, if_pos hdrop]
    · rw [Chip.reqDoneAt_of_read s.clk r st _ hread hwindow hphys, if_neg (Bool.eq_false_iff.1 hdrop), Chip.reqBytes_of_phys hwindow hphys]

/-! ### TRANSLATION_WALK_COMPLETE (spec/07_tiers_translation.md R222, R246) -/

/-- Whether a walk is one of stream st with no read left. -/
def Walk.done (st : Nat) (w : Walk) : Bool := decide (w.stream = st) && w.reads.isEmpty

/-- The block after a finished walk has left its region and its reads are counted. -/
def Chip.walkRead (ch : Chip) (k : Clock) (r : Nat) (w : Walk) : Chip :=
  w.addrs.foldl (fun c a => c.touchPhys k (a / 64 * 64) 64) (ch.modRg r fun g => { g with walks := g.walks.filter (· ≠ w) })

/-- The block with what walk w of region r found in one of its partition's ways. -/
def Chip.walkCached (ch : Chip) (r : Nat) (w : Walk) (large : Bool) : Chip :=
  ch.modRg r fun g => g.fillTlb w.part w.page large (look 0 (ch.pt w.part).wayBase r) (max 1 (look 0 (ch.pt w.part).ways r))

theorem Chip.walkDone_of_none {ch : Chip} {r st : Nat} (k : Clock) (h : (ch.rg r).walks.find? (Walk.done st) = none) : ch.walkDone k r st = ch := by
  unfold Walk.done at h
  simp only [Chip.walkDone, h]

/-- A finished walk with a lost word stops the streams that wait for it. -/
theorem Chip.walkDone_of_lost {ch : Chip} {r st : Nat} {w : Walk} (k : Clock) (h : (ch.rg r).walks.find? (Walk.done st) = some w)
    (hlost : w.addrs.any ch.lostAt = true) :
    ch.walkDone k r st = ((ch.walkRead k r w).waitWalk r w.part w.page).foldl (fun c x => c.stopStream k r x.1 1) (ch.walkRead k r w) := by
  unfold Walk.done at h
  simp [Chip.walkDone, h, hlost, Chip.walkRead]

/-- A finished walk whose words are all read: the streams that wait go on, with the entry cached where it is valid. -/
theorem Chip.walkDone_of_read {ch : Chip} {r st : Nat} {w : Walk} (k : Clock) (h : (ch.rg r).walks.find? (Walk.done st) = some w)
    (hread : w.addrs.any ch.lostAt = false) :
    let e := (ch.pt w.part).pte w.page
    let t := if e.v then (ch.walkRead k r w).walkCached r w e.lg else ch.walkRead k r w
    ch.walkDone k r st = (t.waitWalk r w.part w.page).foldl (fun c x => c.resolve k r x.1 { x.2 with walking := false }) t := by
  unfold Walk.done at h
  simp [Chip.walkDone, h, hread, Chip.walkRead, Chip.walkCached]

theorem walk_completes : Claims.walkRow := by
  intro s r st done
  have hexec : exec (.translationWalkComplete r st) s = .next (Claims.after s (s.chip.walkDone s.clk r st)) := rfl
  rw [hexec]
  refine ⟨fun hnone => ?_, fun w hw => ?_⟩
  · rw [Chip.walkDone_of_none s.clk hnone]
    rfl
  intro e ch full
  refine ⟨fun hlost => ?lost, fun hread hvalid => ?valid, fun hread hinvalid => ?invalid⟩
  case lost =>
    rw [Chip.walkDone_of_lost s.clk hw hlost]
    rfl
  case valid =>
    rw [Chip.walkDone_of_read s.clk hw hread, if_pos hvalid]
    rfl
  case invalid =>
    rw [Chip.walkDone_of_read s.clk hw hread, if_neg (Bool.eq_false_iff.1 hinvalid)]
    rfl

/-- Settles O43: a position by whose offer takes it, a request and a walk by the branch their completion takes. -/
theorem wheelRows : Obligations.WheelRows := ⟨wheelPosition_serves, streamRequest_completes, walk_completes⟩

end Sys2Proof.Machine

/-! # Memory commands (O36) -/

namespace Sys2Proof.Machine

/-! ### What a map, an unmap and a change of rights ask of their payload (spec/07_tiers_translation.md R218, R219; spec/13_host_protocol.md R392) -/

/-- A payload of aligned, counted pages with its reserved bits zero is in form. -/
theorem MapReq.form_clear {m : MapReq} {q : Req} (haligned : m.dva % 65536 = 0) (hpages : m.pages ≠ 0) (hrights : beAt q.payload 12 1 < 8)
    (hzero : Claims.Zero q 14 2) : Claims.Clear (m.form q) := by
  simpa [Claims.Clear, MapReq.form, reserved, haligned, hpages, hrights] using hzero

/-- Pages of which none is mapped hold no weights. -/
theorem MapReq.weight_of_free {m : MapReq} {x : Partition} (hfree : ∀ g ∈ m.list, (x.pte g).v = false) : m.weight x = false := by
  refine Bool.and_eq_false_iff.2 (.inr (any_eq_false fun g hg => ?_))
  rw [hfree g hg, Bool.false_and]

theorem MapReq.length_list (m : MapReq) : m.list.length = m.pages := by simp [MapReq.list]

/-- The pages of an aligned request begin at its DVA. -/
theorem MapReq.headD_list {m : MapReq} (haligned : m.dva % 65536 = 0) (hpages : m.pages ≠ 0) : m.list.headD 0 * 65536 = m.dva := by
  obtain ⟨n, hn⟩ := Nat.exists_eq_succ_of_ne_zero hpages
  simp only [MapReq.list, hn, List.range_succ_eq_map, List.map_cons, List.headD_cons, Nat.add_zero]
  exact Nat.div_mul_cancel (Nat.dvd_of_mod_eq_zero haligned)

/-- Each check of MEM_UNMAP and MEM_PROTECT is refuted by the condition that asks for its contrary. -/
theorem changeChecks_clear {s : State} {q : Req} (h : Claims.ChangeOk s q) : Claims.Clear (changeChecks q s.chip) := by
  obtain ⟨hrange, haligned, hpages, hrights, hzero, hweight, hnamed, hworks, -⟩ := h
  simp only [Claims.Clear, changeChecks, MapReq.above, List.cons_append, List.forall_mem_cons, List.forall_mem_append]
  refine ⟨hweight, ⟨⟨MapReq.form_clear haligned hpages hrights hzero, hnamed, nofun⟩, ?range, nofun⟩, Chip.worksFull_false hworks, nofun⟩
  case range => rw [hrange, Bool.not_true]

/-! ### MEM_MAP, MEM_UNMAP and MEM_PROTECT (R218, R219) -/

theorem memMap_maps : Claims.memMapRow := by
  intro s q st htaken m hrange haligned hpages hrights hzero hstack hlarge hfree hwindow hplace hworks
  refine exec_of_taken htaken rfl ?_
  unfold memMapCmd
  dsimp only
  rw [firstFail_eq_none.2 ?clear, hplace, firstFail_eq_none.2 ?works]
  case works => simpa only [List.forall_mem_cons] using ⟨Chip.worksFull_false hworks, nofun⟩
  case clear =>
    simp only [MapReq.above, List.cons_append, List.forall_mem_cons, List.forall_mem_append]
    refine ⟨MapReq.weight_of_free hfree, ⟨MapReq.form_clear haligned hpages hrights hzero, ?stack, ?base, ?count, ?free, hwindow, nofun⟩, ?range, nofun⟩
    case stack => exact Bool.and_eq_false_imp.2 fun hhigh => decide_eq_false (not_not.2 (hstack.resolve_left (Nat.not_lt.2 (of_decide_eq_true hhigh))))
    case base => exact Bool.and_eq_false_imp.2 fun hlg => decide_eq_false (not_not.2 (hlarge hlg).left)
    case count => exact Bool.and_eq_false_imp.2 fun hlg => decide_eq_false (not_not.2 (hlarge hlg).right)
    case free => rw [any_eq_false hfree, Bool.and_false]
    case range => rw [hrange, Bool.not_true]

theorem memUnmap_unmaps : Claims.memUnmapRow := by
  intro s q htaken hchange gs
  have ⟨_, haligned, hpages, _, _, _, _, _, howed⟩ := hchange
  refine exec_of_taken htaken rfl ?_
  dsimp only
  rw [checked_ok _ (changeChecks_clear hchange), MapReq.headD_list haligned hpages, MapReq.length_list, howed]
  rfl

theorem memProtect_changes_rights : Claims.memProtectRow := by
  intro s q htaken hchange m
  have ⟨_, _, _, _, _, _, _, _, howed⟩ := hchange
  refine exec_of_taken htaken rfl ?_
  dsimp only
  rw [checked_ok _ (changeChecks_clear hchange), howed]
  rfl

/-! ### TRANSLATION_CHANGE_COMPLETE (R219, R224) -/

theorem Chip.changeDone_of_unmap {ch : Chip} {id : Nat} {w : Work} {fs : List Nat} {old : List (Nat × Nat × Nat)} (k : Clock) (hwork : ch.work? id = some w)
    (hkind : w.kind = .unmap fs old) : ch.changeDone k id =
      if old.any ch.stillOut then ch else (fs.foldl (fun c f => c.freeFrame f w.part false) ch).complete k w 0xE001 .ok [] := by
  simp only [Chip.changeDone, hwork, hkind]

theorem Chip.changeDone_of_protect {ch : Chip} {id : Nat} {w : Work} {old : List (Nat × Nat × Nat)} (k : Clock) (hwork : ch.work? id = some w)
    (hkind : w.kind = .protect old) : ch.changeDone k id = if old.any ch.stillOut then ch else ch.complete k w 0xE001 .ok [] := by
  simp only [Chip.changeDone, hwork, hkind]

theorem translationChange_completes : Claims.translationChangeRow := by
  intro s id w hwork
  have hexec : exec (.translationChangeComplete id) s = .next (Claims.after s (s.chip.changeDone s.clk id)) := rfl
  refine ⟨fun fs old hkind hdone => ?unmap, fun old hkind hdone => ?protect, fun fs old hkind hout => ?out⟩
  case unmap => rw [hexec, Chip.changeDone_of_unmap s.clk hwork hkind, hdone]; rfl
  case protect => rw [hexec, Chip.changeDone_of_protect s.clk hwork hkind, hdone]; rfl
  case out =>
    refine exec_of_effect (t := s.chip) hexec ?_
    obtain hunmap | hprotect := hkind
    · rw [Chip.changeDone_of_unmap s.clk hwork hunmap, if_pos hout]
    · rw [Chip.changeDone_of_protect s.clk hwork hprotect, if_pos hout]

/-! ### MEM_WRITE and MEM_READ (spec/13_host_protocol.md R392) -/

theorem memWrite_stores : Claims.memWriteRow := by
  intro s q htaken dva n hrights hzero hlen hserved howed
  refine exec_of_taken htaken rfl ?_
  dsimp only
  rw [checked_ok _ ?clear, hserved, howed]
  case clear =>
    simp only [List.forall_mem_cons]
    exact ⟨hrights, by simpa [reserved] using hzero, by simpa using hlen, nofun⟩
  cases hlost : s.chip.firstLost q.part dva n true <;> rfl

theorem memRead_replies : Claims.memReadRow := by
  intro s q htaken dva n hrights hzero hfits hserved howed
  refine exec_of_taken htaken rfl ?_
  dsimp only
  rw [checked_ok _ ?clear, hserved, howed]
  case clear =>
    simp only [List.forall_mem_cons]
    exact ⟨hrights, by simpa [reserved] using hzero, decide_eq_false (Nat.not_lt.2 hfits), nofun⟩
  cases hlost : s.chip.firstLost q.part dva n false <;> rfl

/-- Settles O36: a command whose checks are all refuted has its effect, and a change completes once no request of the old entries is out. -/
theorem memoryCommandRows : Obligations.MemoryCommandRows :=
  ⟨memMap_maps, memUnmap_unmaps, memProtect_changes_rights, translationChange_completes, memWrite_stores, memRead_replies⟩

end Sys2Proof.Machine

/-! # Lifts, drops, flash sectors and zeroed frames (O47) -/

namespace Sys2Proof.Machine

/-! ### LIFT_COMPLETE and DROP_COMPLETE (spec/07_tiers_translation.md R226, R228, R230) -/

theorem lift_switches : Claims.liftRow := by
  intro s i e
  refine ⟨fun hlifting hwritten => exec_of_effect rfl (if_pos ?_), fun hopen => exec_of_effect (t := s.chip) rfl (if_neg ?_)⟩
  · rw [decide_eq_true hlifting, decide_eq_true hwritten]
    rfl
  · simpa only [Bool.and_eq_true, decide_eq_true_eq, not_and_or] using hopen

theorem drop_completes : Claims.dropRow := by
  intro s i e
  have hbusy : (e.st ≠ .dropping || e.inflight ≠ 0) = true ↔ e.st ≠ .dropping ∨ e.inflight ≠ 0 := by
    simp only [Bool.or_eq_true, decide_eq_true_eq]
  refine ⟨fun hdropping hidle => exec_of_effect rfl (if_neg ?_), fun hopen => exec_of_effect (t := s.chip) rfl (if_pos (hbusy.2 hopen))⟩
  rw [hbusy]
  exact not_or.2 ⟨not_not.2 hdropping, not_not.2 hidle⟩

/-! ### Sectors of page slots (R232; spec/08_dram_flash.md R261 to R263, R266) -/

/-- A sector read of a page slot that holds no page, or past a slot's last sector, changes nothing. -/
theorem Chip.sectorRead_of_no_page {ch : Chip} {slot sector : Nat} (k : Clock) (o : FlashOutcome)
    (h : 16 ≤ sector ∨ (slot < otherSlot ∧ ch.slotPage slot = none)) : ch.sectorRead k slot sector o = ch := by
  unfold Chip.sectorRead
  by_cases hsector : 16 ≤ sector
  · rw [if_pos hsector]
  · obtain ⟨hslot, hnone⟩ := h.resolve_left hsector
    rw [if_neg hsector, if_neg (Nat.not_le.2 hslot), hnone]

/-- The stream requests that take a sector when it is read: those that wait for it and have room. -/
def Chip.sectorTakers (ch : Chip) (slot sector : Nat) : List (Nat × Nat × StreamReq) :=
  (ch.sectorReqs slot sector).filter fun x => ch.roomFor x.1 x.2.1 x.2.2

/-- The block after the lift that lacks a sector, if any, wrote the sector's bytes to its frame. -/
def Chip.liftSector (ch : Chip) (k : Clock) (lift : Option (Nat × LedgerEntry)) (slot sector : Nat) : Chip :=
  match lift with
  | some (j, e) => (ch.writePhys k (e.frame * 65536 + sector * 4096) (ch.flash.sector slot sector)).modLed j fun x => { x with sectors := x.sectors ++ [sector] }
  | none => ch

/-- A sector of a page that is read without loss is counted and goes to the lift that lacks it and to the requests that wait for it. -/
theorem Chip.sectorRead_of_read {ch : Chip} {slot sector i : Nat} {o : FlashOutcome} (k : Clock) (hsector : sector < 16) (hslot : slot < otherSlot)
    (hpage : ch.slotPage slot = some i) (hread : ch.flash.outcome slot sector o = o) (hgood : o ≠ .uncorrectable) :
    let t := ch.countSector slot sector o
    ch.sectorRead k slot sector o = (ch.sectorTakers slot sector).foldl (fun c x => c.reqDoneAt k x.1 x.2.1 x.2.2
      (some (slice (t.flash.sector slot sector) (x.2.2.dva % 4096) x.2.2.len))) (t.liftSector k (ch.sectorLift slot sector) slot sector) := by
  unfold Chip.sectorRead
  rw [if_neg (Nat.not_le.2 hsector), if_neg (Nat.not_le.2 hslot), hpage]
  simp only [hread, if_neg hgood]
  cases ch.sectorLift slot sector <;> rfl

/-- A sector of a page that is lost is counted, makes its page suspect and leaves the requests that wait for it without data. -/
theorem Chip.sectorRead_of_lost {ch : Chip} {slot sector i : Nat} {o : FlashOutcome} (k : Clock) (hsector : sector < 16) (hslot : slot < otherSlot)
    (hpage : ch.slotPage slot = some i) (hlost : ch.flash.outcome slot sector o = .uncorrectable) :
    ch.sectorRead k slot sector o = (ch.sectorTakers slot sector).foldl (fun c x => c.reqDoneAt k x.1 x.2.1 x.2.2 none)
      ((ch.countSector slot sector .uncorrectable).setSuspect i) := by
  unfold Chip.sectorRead
  rw [if_neg (Nat.not_le.2 hsector), if_neg (Nat.not_le.2 hslot), hpage]
  simp only [hlost, if_true]
  rfl

/-- A sector that is out of service or out of place is lost, whatever its read gave. -/
theorem Flash.outcome_of_lost {f : Flash} {slot sector : Nat} {o : FlashOutcome} (h : o = .uncorrectable ∨ f.readable slot sector = false) :
    f.outcome slot sector o = .uncorrectable := by
  unfold Flash.outcome
  obtain rfl | hout := h
  · exact ite_self _
  · simp [hout]

theorem Flash.outcome_hard {f : Flash} {slot sector : Nat} (h : f.readable slot sector = true) (n : Nat) : f.outcome slot sector (.hard n) = .hard n := by
  simp [Flash.outcome, h]

theorem Flash.outcome_soft {f : Flash} {slot sector n : Nat} (h : f.readable slot sector = true) (hlow : 1 ≤ n) (hhigh : n ≤ 7) :
    f.outcome slot sector (.soft n) = .soft n := by
  have htries : ¬ (n = 0 ∨ 7 < n) := by omega
  simp [Flash.outcome, h, htries]

theorem Chip.sectorTakers_of_none {ch : Chip} {slot sector : Nat} (h : ch.sectorReqs slot sector = []) : ch.sectorTakers slot sector = [] := by
  rw [Chip.sectorTakers, h, List.filter_nil]

/-- Corrections up to the threshold are reported and nothing else. -/
theorem Chip.countSector_hard_within {ch : Chip} {n : Nat} (slot sector : Nat) (h : n ≤ ch.flash.threshold) :
    ch.countSector slot sector (.hard n) = { ch with flash := { ch.flash with report := some (slot, sector, .hard n) } } := by
  simp [Chip.countSector, Nat.not_lt.2 h]

theorem sectorRead_delivers : Claims.sectorReadRow := by
  intro s slot sector
  have hexec (o : FlashOutcome) :
      exec (.flashSectorReadComplete slot sector o) s = .next (Claims.after s (s.chip.sectorRead s.clk slot sector o)) := rfl
  refine ⟨fun o hnone => exec_of_effect (t := s.chip) (hexec o) (Chip.sectorRead_of_no_page s.clk o hnone), fun i hsector hslot hpage => ⟨?lift, ?stream, ?lost⟩⟩
  case lift =>
    intro j e n hreqs hreadable hlift hn ch
    rw [hexec, Chip.sectorRead_of_read s.clk hsector hslot hpage (Flash.outcome_hard hreadable n) nofun, Chip.sectorTakers_of_none hreqs, hlift,
      Chip.countSector_hard_within slot sector hn]
    rfl
  case stream =>
    intro x n hreqs hroom hreadable hlift hlow hhigh
    have htakers : s.chip.sectorTakers slot sector = [x] := by rw [Chip.sectorTakers, hreqs, List.filter_singleton, hroom, cond_true]
    rw [hexec, Chip.sectorRead_of_read s.clk hsector hslot hpage (Flash.outcome_soft hreadable hlow hhigh) nofun, htakers, hlift]
    rfl
  case lost =>
    intro o hreqs hlost
    rw [hexec, Chip.sectorRead_of_lost s.clk hsector hslot hpage (Flash.outcome_of_lost hlost), Chip.sectorTakers_of_none hreqs]
    rfl

/-! ### Sectors outside the page slots, and the counters (R262, R263, R266) -/

theorem otherSector_counts : Claims.otherSectorRow := by
  intro s slot sector o hsector hslot
  have hother : s.chip.sectorRead s.clk slot sector o =
      if !s.chip.flash.hasOther (slot - otherSlot) then s.chip
      else
        let t := s.chip.countSector slot sector o
        if o = .uncorrectable then { t with flash := t.flash.losesOther (slot - otherSlot) } else t :=
    (if_neg (Nat.not_le.2 hsector)).trans (if_pos hslot)
  refine ⟨fun hnone => exec_of_effect (t := s.chip) rfl (hother.trans (if_pos ?_)), fun hsome => exec_of_effect rfl (hother.trans (if_neg ?_))⟩
  · rw [hnone, Bool.not_false]
  · rw [hsome, Bool.not_true]
    exact Bool.false_ne_true

/-- Whatever a sector read gave is reported. -/
theorem Chip.countSector_report (ch : Chip) (slot sector : Nat) (o : FlashOutcome) : (ch.countSector slot sector o).flash.report = some (slot, sector, o) := by
  cases o with
  | hard n =>
    simp only [Chip.countSector]
    split <;> rfl
  | soft n => rfl
  | uncorrectable => rfl

/-- Corrections past the threshold ask for a rewrite that is not asked for yet. -/
theorem Chip.countSector_hard_past {ch : Chip} {slot sector n : Nat} (hpast : ch.flash.threshold < n) (hnew : (slot, sector) ∉ ch.flash.rewrites) :
    (ch.countSector slot sector (.hard n)).flash.rewrites = ch.flash.rewrites ++ [(slot, sector)] := by
  simp [Chip.countSector, hpast, hnew]

theorem countSector_counts : Claims.sectorCounts := fun ch slot sector =>
  ⟨fun _ => Chip.countSector_hard_past, fun _ => Chip.countSector_hard_within slot sector, ch.countSector_report slot sector, fun _ => rfl, rfl⟩

theorem rewrite_completes : Claims.rewriteRow := by
  intro s slot sector f
  exact ⟨fun hdue => exec_of_effect rfl (if_pos (List.contains_iff_mem.2 hdue)),
    fun hnot => exec_of_effect (t := s.chip) rfl (if_neg (mt List.contains_iff_mem.1 hnot))⟩

/-! ### FRAME_ZEROED (R247, R259) -/

/-- A frame under zeroing is done with once the engine has a position of its stack. -/
theorem Chip.frameZeroed_of_zeroing {ch : Chip} {f p : Nat} {t : Bool} (k : Clock) (h : (ch.fr f).use = .zeroing p t) :
    ch.frameZeroed k f = if !ch.mayZero k (stackOfFrame f) p t then ch
      else (((if (ch.fr f).marked then { ch with boot := { ch.boot with retireDirty := true } } else ch).zeroFrame f).modFr f fun x =>
        { x with use := if x.marked then .retired else .free, ces := [] }).zeroPositions (stackOfFrame f) := by
  simp only [Chip.frameZeroed, h]

theorem Chip.frameZeroed_of_other {ch : Chip} {f : Nat} (k : Clock) (h : ∀ p t, (ch.fr f).use ≠ .zeroing p t) : ch.frameZeroed k f = ch := by
  unfold Chip.frameZeroed
  split
  next p t hzeroing => exact absurd hzeroing (h p t)
  next => rfl

theorem frameZeroed_frees : Claims.zeroedRow := by
  intro s f
  have hexec : exec (.frameZeroed f) s = .next (Claims.after s (s.chip.frameZeroed s.clk f)) := rfl
  refine ⟨fun p t hzeroing => ?_, fun hother => exec_of_effect (t := s.chip) hexec (Chip.frameZeroed_of_other s.clk hother)⟩
  rw [hexec, Chip.frameZeroed_of_zeroing s.clk hzeroing]
  refine ⟨fun hmay hkept => ?free, fun hmay hmarked => ?retired, fun hwaits => ?waits⟩
  case free =>
    rw [hmay, hkept]
    rfl
  case retired =>
    rw [hmay, hmarked]
    rfl
  case waits =>
    rw [hwaits]
    rfl

/-- What a store reads where only its keys of a kind are kept. -/
theorem look_filter_key {α : Type} (d : α) (p : Nat → Bool) (m : Store α) (a : Nat) : look d (m.filter fun e => p e.1) a = if p a then look d m a else d := by
  induction m with
  | nil => simp
  | cons e t ih =>
    obtain ⟨i, v⟩ := e
    by_cases hi : p i = true
    · by_cases hia : i = a
      · simp [look, hia ▸ hi, hia]
      · simp [look, hi, hia, ih]
    · by_cases hia : i = a
      · simp [hi, ih, hia ▸ hi]
      · simp [look, hi, hia, ih]

theorem zeroFrame_reads_zero : Claims.zeroedBytes := by
  intro ch f a
  refine (look_filter_key 0 (fun i => decide (i / 65536 ≠ f)) ch.hbm a).trans ?_
  simp

/-- Settles O47: a page, a sector, a rewrite and a frame by the branch their completion takes. -/
theorem ledgerAndFlashRows : Obligations.LedgerAndFlashRows :=
  ⟨lift_switches, drop_completes, sectorRead_delivers, otherSector_counts, countSector_counts, rewrite_completes, frameZeroed_frees, zeroFrame_reads_zero⟩

end Sys2Proof.Machine

/-! # HBM reads back what was written, but for the tables and the ledger of the device region (O19) -/

namespace Sys2Proof.Machine

/-! ### Bytes put at consecutive addresses -/

theorem putBytes_take_drop (m : List Host.Cell) (a n : Nat) (bs : List Byte) :
    putBytes (putBytes m a (bs.take n)) (a + n) (bs.drop n) = putBytes m a bs := by
  induction bs generalizing m a n with
  | nil => simp [putBytes]
  | cons b t ih =>
    cases n with
    | zero => rfl
    | succ n =>
      have haddr : a + (n + 1) = a + 1 + n := by omega
      rw [List.take_succ_cons, List.drop_succ_cons, haddr]
      exact ih (put 0 m a b) (a + 1) n

theorem look_putBytes_outside (m : List Host.Cell) {a x : Nat} {bs : List Byte} (h : x < a ∨ a + bs.length ≤ x) :
    look 0 (putBytes m a bs) x = look 0 m x := by
  induction bs generalizing m a with
  | nil => rfl
  | cons b t ih =>
    rw [List.length_cons] at h
    calc look 0 (putBytes (put 0 m a b) (a + 1) t) x
      _ = look 0 (put 0 m a b) x := ih _ (by omega)
      _ = look 0 m x := look_put_ne 0 m b (by omega)

theorem look_putBytes_inside {m : List Host.Cell} (hwf : Memory.wf m = true) (a : Nat) {bs : List Byte} {i : Nat} (hi : i < bs.length) :
    look 0 (putBytes m a bs) (a + i) = bs[i] := by
  induction bs generalizing m a i with
  | nil => exact absurd hi (Nat.not_lt_zero i)
  | cons b t ih =>
    cases i with
    | zero => exact (look_putBytes_outside _ (.inl (Nat.lt_succ_self a))).trans (look_put_self a b hwf)
    | succ i =>
      have haddr : a + (i + 1) = a + 1 + i := by omega
      rw [haddr]
      exact ih (put_wf a b hwf) (a + 1) (Nat.lt_of_succ_lt_succ hi)

/-! ### HBM without errors (spec/08_dram_flash.md R244 to R246) -/

section
variable {ch : Chip} (hgood : ch.hbmErr = [])
include hgood

theorem Chip.errsAt_of_noErr (a : Nat) : ch.errsAt a = 0 := by
  simp [Chip.errsAt, Chip.errWord, hgood]

theorem Chip.lostAt_of_noErr (a : Nat) : ch.lostAt a = false := by
  simp [Chip.lostAt, Chip.errsAt_of_noErr hgood]

/-- A byte is delivered as the device region or memory holds it. -/
theorem Chip.hbmByte_of_noErr (a : Nat) : ch.hbmByte a = if devBase ≤ a % 2 ^ 35 then ch.devByte a else look 0 ch.hbm a := by
  simp [Chip.hbmByte, Chip.errsAt_of_noErr hgood]

/-- Code word by code word, every byte of the range is put. -/
theorem Chip.writeWords_of_noErr (part : List Nat) (a : Nat) {bs : List Byte} {fuel : Nat} (hfuel : bs.length ≤ fuel) :
    ch.writeWords part a bs fuel = { ch with hbm := putBytes ch.hbm a bs } := by
  induction fuel generalizing ch a bs with
  | zero => rw [List.eq_nil_of_length_eq_zero (Nat.le_zero.1 hfuel)]; rfl
  | succ fuel ih =>
    rw [Chip.writeWords]
    by_cases hbs : bs = []
    · rw [hbs]; rfl
    · have hpos : 0 < bs.length := List.length_pos_iff.2 hbs
      have hrest : (bs.drop (32 - a % 32)).length ≤ fuel := by rw [List.length_drop]; omega
      simp only [List.isEmpty_iff, hbs, Chip.lostAt_of_noErr hgood, Chip.errsAt_of_noErr hgood, hgood, put, Bool.and_false, if_false, if_true,
        Bool.false_eq_true, Nat.reduceLeDiff, decide_false]
      rw [ih rfl _ hrest, putBytes_take_drop]

/-- A write opens its rows and puts its bytes, and does no more. -/
theorem Chip.writePhys_of_noErr (k : Clock) (a : Nat) (bs : List Byte) :
    ch.writePhys k a bs = { ch.openRows a bs.length with hbm := putBytes ch.hbm a bs } := by
  have hone (l : List Nat) : (l.filter fun w => decide (ch.errsAt (w * 32) = 1)) = [] := by simp [Chip.errsAt_of_noErr hgood]
  have hlost (l : List Nat) : (l.filter fun w => ch.lostAt (w * 32)) = [] := by simp [Chip.lostAt_of_noErr hgood]
  have hopen : (ch.openRows a bs.length).hbmErr = [] := hgood
  simp only [Chip.writePhys, hone, hlost, List.foldl_nil]
  rw [Chip.writeWords_of_noErr hopen _ a (Nat.le_succ _), Chip.openRows_hbm]

theorem Chip.writePhys_hbm_of_noErr (k : Clock) (a : Nat) (bs : List Byte) : (ch.writePhys k a bs).hbm = putBytes ch.hbm a bs := by
  rw [Chip.writePhys_of_noErr hgood]

theorem Chip.writePhys_hbmErr_of_noErr (k : Clock) (a : Nat) (bs : List Byte) : (ch.writePhys k a bs).hbmErr = [] := by
  rw [Chip.writePhys_of_noErr hgood]
  exact hgood

theorem Chip.writePhys_parts_of_noErr (k : Clock) (a : Nat) (bs : List Byte) : (ch.writePhys k a bs).parts = ch.parts := by
  rw [Chip.writePhys_of_noErr hgood]
  rfl

theorem Chip.writePhys_ledger_of_noErr (k : Clock) (a : Nat) (bs : List Byte) : (ch.writePhys k a bs).ledger = ch.ledger := by
  rw [Chip.writePhys_of_noErr hgood]
  rfl

end

/-! ### The device region (spec/07_tiers_translation.md R216, R217, R226) -/

/-- What a byte of the device region reads as hangs on the tables, the ledger and the byte written there. -/
theorem Chip.devByte_congr {t ch : Chip} {a : Nat} (hparts : t.parts = ch.parts) (hledger : t.ledger = ch.ledger)
    (hbyte : look 0 t.hbm a = look 0 ch.hbm a) : t.devByte a = ch.devByte a := by
  unfold Chip.devByte Chip.pt Chip.led
  rw [hparts, hledger, hbyte]

/-- In HBM without errors a write leaves every byte outside its range. -/
theorem Chip.writePhys_hbmByte_outside {ch : Chip} (hgood : ch.hbmErr = []) (k : Clock) {a x : Nat} {bs : List Byte} (hx : x < a ∨ a + bs.length ≤ x) :
    (ch.writePhys k a bs).hbmByte x = ch.hbmByte x := by
  have hbyte : look 0 (ch.writePhys k a bs).hbm x = look 0 ch.hbm x := by
    rw [Chip.writePhys_hbm_of_noErr hgood, look_putBytes_outside _ hx]
  have hdevice := Chip.devByte_congr (Chip.writePhys_parts_of_noErr hgood k a bs) (Chip.writePhys_ledger_of_noErr hgood k a bs) hbyte
  rw [Chip.hbmByte_of_noErr (Chip.writePhys_hbmErr_of_noErr hgood k a bs), Chip.hbmByte_of_noErr hgood, hdevice, hbyte]

/-- In HBM without errors a range below the device region reads back as written. -/
theorem Chip.writePhys_readPhys {ch : Chip} (hwf : Memory.wf ch.hbm = true) (hgood : ch.hbmErr = []) (k : Clock) {a : Nat} {bs : List Byte}
    (hbelow : ∀ i < bs.length, (a + i) % 2 ^ 35 < devBase) : (ch.writePhys k a bs).readPhys a bs.length = bs := by
  refine List.ext_getElem (by simp [Chip.readPhys]) fun i _ hi => ?_
  simp only [Chip.readPhys, List.getElem_map, List.getElem_range]
  rw [Chip.hbmByte_of_noErr (Chip.writePhys_hbmErr_of_noErr hgood k a bs), if_neg (Nat.not_le.2 (hbelow i hi)), Chip.writePhys_hbm_of_noErr hgood]
  exact look_putBytes_inside hwf a hi

/-- The round trip of O19 with the condition it lacks: the range written lies below the device region of its stack. -/
theorem memoryRoundTrip_below_device {ch : Chip} (k : Clock) {a : Nat} {bs : List Byte} (hwf : Memory.wf ch.hbm = true) (hgood : ch.hbmErr = [])
    (hbelow : ∀ i < bs.length, (a + i) % 2 ^ 35 < devBase) : let t := ch.writePhys k a bs
    t.readPhys a bs.length = bs ∧ (∀ x, x < a ∨ a + bs.length ≤ x → t.hbmByte x = ch.hbmByte x) ∧ Memory.wf t.hbm = true ∧ t.hbmErr = [] :=
  ⟨Chip.writePhys_readPhys hwf hgood k hbelow, fun _ => Chip.writePhys_hbmByte_outside hgood k, Chip.writePhys_wf k a bs hwf,
    Chip.writePhys_hbmErr_of_noErr hgood k a bs⟩

/-- In a device without partitions, and so without page tables, a byte where the ledger lies is the ledger's, whatever was written there. -/
theorem Chip.devByte_of_ledger {ch : Chip} {a : Nat} (hparts : ch.parts = []) (hlow : ledgerBase ≤ a) (hhigh : (a - ledgerBase) / 16 < 8388607) :
    ch.devByte a = (ch.led ((a - ledgerBase) / 16)).bytes.getD ((a - ledgerBase) % 16) 0 := by
  have hroots : (List.range 8).find? (fun p => (ch.pt p).valid && decide (a / 2 ^ 21 = (ch.pt p).root)) = none := by
    simp [Chip.pt, hparts]
  simp only [Chip.devByte, hroots, hparts, List.findSome?_nil]
  simp [hlow, hhigh]

/-- After reset, what is written to the ledger's first byte is not read back: the byte is the ledger's, 0. -/
theorem reset_ledger_reads_zero (k : Clock) (b : Byte) : (State.reset.chip.writePhys k ledgerBase [b]).readPhys ledgerBase 1 = [0] := by
  have hgood : State.reset.chip.hbmErr = [] := rfl
  have hparts : (State.reset.chip.writePhys k ledgerBase [b]).parts = [] := Chip.writePhys_parts_of_noErr hgood k ledgerBase [b]
  have hdevice : devBase ≤ ledgerBase % 2 ^ 35 := by decide
  have hbyte : (State.reset.chip.writePhys k ledgerBase [b]).hbmByte ledgerBase = 0 := by
    rw [Chip.hbmByte_of_noErr (Chip.writePhys_hbmErr_of_noErr hgood k ledgerBase [b]), if_pos hdevice,
      Chip.devByte_of_ledger hparts le_rfl (by simp), Chip.led, Chip.writePhys_ledger_of_noErr hgood]
    rfl
  simp [Chip.readPhys, hbyte]

/-- Refutes O19: a byte of the device region that belongs to the ledger or to a page table reads as the entry held there, not as the byte
written. The range of the claim may lie in that region: after reset the ledger's first byte, written with 0xFF, still reads as 0. For a
range below the region the claim holds (`memoryRoundTrip_below_device`). -/
theorem not_memoryRoundTrip : ¬ Obligations.MemoryRoundTrip := by
  intro h
  obtain ⟨hread, -⟩ := h State.reset.chip State.reset.clk ledgerBase [0xFF#8] rfl rfl
  exact absurd ((reset_ledger_reads_zero State.reset.clk 0xFF#8).symm.trans hread) (by decide)

end Sys2Proof.Machine

/-! # Refresh, maintenance, calibration and data-rate points of the stacks (O48) -/

namespace Sys2Proof.Machine

/-! ### HBM_REFRESH_DUE (spec/08_dram_flash.md R250, R251; log entry 78) -/

/-- Before a group's first due time nothing is due. -/
theorem Chip.refreshDue_of_none {ch : Chip} {k : Clock} {st pch g : Nat} (h : lastDue (ch.refInterval st) g k.timebase = none) :
    ch.refreshDue k st pch g = ch := by
  simp only [Chip.refreshDue, h]

/-- A due time that was met, or a group that is not refreshed, has no refresh to make. -/
theorem Chip.refreshDue_of_met {ch : Chip} {k : Clock} {st pch g t : Nat} (hdue : lastDue (ch.refInterval st) g k.timebase = some t)
    (h : ch.refreshes st = false ∨ 32 ≤ pch ∨ 12 ≤ g ∨ t < look 0 (ch.sk st).refAt (groupKey pch g)) : ch.refreshDue k st pch g = ch := by
  simp only [Chip.refreshDue, hdue]
  exact if_pos (by simpa [or_assoc] using h)

/-- A due time not met yet is noted, and its refresh is owed or closes the group's rows. -/
theorem Chip.refreshDue_of_unmet {ch : Chip} {k : Clock} {st pch g t : Nat} (hdue : lastDue (ch.refInterval st) g k.timebase = some t)
    (hon : ch.refreshes st = true) (hpch : pch < 32) (hg : g < 12) (hunmet : look 0 (ch.sk st).refAt (groupKey pch g) ≤ t) :
    let n := look 0 (ch.sk st).owed (groupKey pch g)
    let u := ch.modSk st fun y => { y with refAt := put 0 y.refAt (groupKey pch g) (t + 1) }
    ch.refreshDue k st pch g = if u.postpones k st pch g
      then u.modSk st fun y => { y with owed := put 0 y.owed (groupKey pch g) (n + 1), owedPeak := max y.owedPeak (n + 1) }
      else u.modSk st fun y => y.closeGroup pch g := by
  simp only [Chip.refreshDue, hdue]
  exact if_neg (by simp [hon, hpch, hg, hunmet])

theorem refreshDue_makes_or_owes : Claims.refreshRow := by
  intro s st pch g x key
  have hexec : exec (.hbmRefreshDue st pch g) s = .next (Claims.after s (s.chip.refreshDue s.clk st pch g)) := rfl
  refine ⟨fun hnone => exec_of_effect (t := s.chip) hexec (Chip.refreshDue_of_none hnone), fun t hdue =>
    ⟨fun hmet => exec_of_effect (t := s.chip) hexec (Chip.refreshDue_of_met hdue hmet), fun hon hpch hg hunmet => ?_⟩⟩
  intro ch may
  have heffect := Chip.refreshDue_of_unmet hdue hon hpch hg hunmet
  exact ⟨fun hmay => exec_of_effect hexec (heffect.trans (if_pos hmay)),
    fun hmust => exec_of_effect hexec (heffect.trans (if_neg (Bool.eq_false_iff.1 hmust)))⟩

/-! ### REFRESH_MAKEUP_BURST (R252) -/

theorem makeupBurst_pays : Claims.makeupRow := by
  intro s st pch g n left_
  have hexec : exec (.refreshMakeupBurst st pch g) s = .next (Claims.after s (s.chip.makeupBurst s.clk st pch g)) := rfl
  have heffect : s.chip.makeupBurst s.clk st pch g =
      if n = 0 || !s.chip.refreshes st then s.chip
      else if !s.chip.atRisk s.clk st pch g then left_ 0
      else if s.chip.stackHot st && decide (4 < n) then left_ 4
      else s.chip := rfl
  refine ⟨fun hnone => ?none, fun howed hon hfree => ?all, fun howed hon hrisk hhot hn => ?down, fun _ hrisk hmay => ?waits⟩
  case none =>
    refine exec_of_effect (t := s.chip) hexec (heffect.trans (if_pos ?_))
    simpa using hnone
  case all => exact exec_of_effect hexec (by simp [heffect, howed, hon, hfree])
  case down => exact exec_of_effect hexec (by simp [heffect, howed, hon, hrisk, hhot, hn])
  case waits =>
    have hcool : (s.chip.stackHot st && decide (4 < n)) = false := by simpa [imp_iff_not_or, or_comm] using hmay.symm
    exact exec_of_effect (t := s.chip) hexec (by simp [heffect, hrisk, hcool])

/-! ### MAINTENANCE_WINDOW and DRIVE_STRENGTH_CALIBRATION (R249, R254, R258; log entries 39, 79) -/

theorem Chip.maintenance_of_none {ch : Chip} {k : Clock} {st pch : Nat} (h : (ch.sk st).newWindow k pch = none ∨ ch.refreshes st = false ∨ 32 ≤ pch) :
    ch.maintenance k st pch = ch := by
  unfold Chip.maintenance
  split
  next => rfl
  next t hwindow => exact if_pos (by simpa [hwindow] using h)

/-- The pass goes on to its next chunk; past the last one the next pass begins. -/
def Stack.nextChunk (y : Stack) : Stack :=
  if y.patrol + 1 < stackChunks then { y with patrol := y.patrol + 1 }
  else { y with patrol := 0, patrolFrom := y.patrolFrom + patrolDay, passes := satTo 0xFFFF (y.passes + 1) }

/-- A window that begins is noted, and the patrol reads its chunk there when that is the next and due. -/
theorem Chip.maintenance_of_window {ch : Chip} {k : Clock} {st pch t : Nat} (hwindow : (ch.sk st).newWindow k pch = some t)
    (hon : ch.refreshes st = true) (hpch : pch < 32) : let u := ch.modSk st fun y => { y with windows := put 0 y.windows pch (t + 1) }
    ch.maintenance k st pch = if (u.sk st).patrol % 32 ≠ pch || k.localNs < (u.sk st).patrolDue then u
      else (u.patrolChunk k (st * 2 ^ 35 + (u.sk st).patrol * 512)).modSk st Stack.nextChunk := by
  simp only [Chip.maintenance, hwindow]
  exact if_neg (by simp [hon, hpch])

theorem maintenance_patrols : Claims.maintenanceRow := by
  intro s st pch
  have hexec : exec (.maintenanceWindow st pch) s = .next (Claims.after s (s.chip.maintenance s.clk st pch)) := rfl
  refine ⟨fun hnone => exec_of_effect (t := s.chip) hexec (Chip.maintenance_of_none hnone), fun t hwindow hon hpch => ?_⟩
  intro ch x
  have heffect := Chip.maintenance_of_window hwindow hon hpch
  refine ⟨fun hwaits => exec_of_effect hexec (heffect.trans (if_pos ?waits)), fun hturn hdue => exec_of_effect hexec (heffect.trans (if_neg ?reads))⟩
  case waits => simpa using hwaits
  case reads => simpa using And.intro hturn hdue

theorem calibration_keeps_its_instant : Claims.calibrationRow := by
  intro s st inside
  refine ⟨fun hon hinside hdue => exec_of_effect rfl (if_pos ?due), fun hnot => exec_of_effect (t := s.chip) rfl (if_neg ?not)⟩
  case due => simpa [inside, hon, hdue] using hinside
  case not => simpa [inside, imp_iff_not_or, or_assoc] using hnot

/-! ### HBM_POINT and HBM_POINT_CHANGE_COMPLETE (R253, R256, R257) -/

theorem hbmPoint_begins_change : Claims.hbmPointRow := by
  intro s q htaken st point x hst hpoint hzero hshadow hgood hawake hsteady hworks
  refine exec_of_taken htaken rfl (checked_ok _ ?_)
  simp only [List.forall_mem_cons]
  refine ⟨?stack, ?point, ?zero, ?ready, Chip.worksFull_false hworks, nofun⟩
  case stack => exact decide_eq_false (by omega)
  case point => exact decide_eq_false (by omega)
  case zero => simpa [reserved] using hzero
  case ready =>
    change (decide (x.shadow ≠ some point) || x.failed || x.selfRefresh || x.changing.isSome) = false
    simp [hshadow, hgood, hawake, hsteady]

/-- A change waits for the requests in flight, then leaves the stack at its new point. -/
theorem Chip.pointChanged_of_changing {ch : Chip} {st p : Nat} (k : Clock) (h : (ch.sk st).changing = some p) :
    let u := (ch.reloadDelays st).modSk st fun x => { x with point := p, setPoint := p, changing := none, shadow := none, owed := [], rows := [] }
    ch.pointChanged k st = if ch.inFlightOn st then ch
      else match ch.works.find? fun w => decide (w.kind = .hbmPoint st p) with | some w => u.complete k w 0xE001 .ok [] | none => u := by
  simp only [Chip.pointChanged, h]
  rfl

theorem pointChanged_completes : Claims.pointDoneRow := by
  intro s st
  have hexec : exec (.hbmPointChangeComplete st) s = .next (Claims.after s (s.chip.pointChanged s.clk st)) := rfl
  refine ⟨fun hnone => exec_of_effect (t := s.chip) hexec (by simp only [Chip.pointChanged, hnone]), fun p hchanging => ?_⟩
  have heffect := Chip.pointChanged_of_changing s.clk hchanging
  refine ⟨fun hbusy => exec_of_effect (t := s.chip) hexec (heffect.trans (if_pos hbusy)), fun hidle => ?_⟩
  intro ch
  exact exec_of_effect hexec (heffect.trans (if_neg (Bool.eq_false_iff.1 hidle)))

/-- Settles O48: each event by the branch its effect takes, the command by its checks, all refuted. -/
theorem stackRows : Obligations.StackRows :=
  ⟨refreshDue_makes_or_owes, makeupBurst_pays, maintenance_patrols, calibration_keeps_its_instant, hbmPoint_begins_change, pointChanged_completes⟩

end Sys2Proof.Machine

/-! # Codec tables (O40) -/

namespace Sys2Proof.Machine

/-! ### TABLE_LOAD, TABLE_CLEAR and TABLE_BUILD (spec/09_block_codec.md R287, R290) -/

/-- Each check of TABLE_LOAD and TABLE_CLEAR is refuted by the condition that asks for its contrary. -/
theorem tableChecks_clear {s : State} {q : Req} {image : Option (List Byte)} (h : Claims.TableOk s q) (himage : image.all imgValid = true) :
    Claims.Clear (tableChecks q s.chip image) := by
  obtain ⟨howns, hslot, hzero, hserves, hclusters, hworks⟩ := h
  simp only [Claims.Clear, tableChecks, List.forall_mem_cons]
  refine ⟨?owns, ?slot, ?zero, ?image, ?owned, ?unused, ?serves, Chip.worksFull_false hworks, nofun⟩
  case owns => exact decide_eq_false (not_not.2 howns)
  case slot => exact decide_eq_false (by omega)
  case zero => simpa [reserved] using hzero
  case image =>
    cases image with
    | none => rfl
    | some img => exact congrArg not himage
  case owned => exact any_eq_false fun c hc => decide_eq_false (not_not.2 (hclusters c hc).left)
  case unused => exact any_eq_false fun c hc => decide_eq_false (Nat.not_lt.2 (hclusters c hc).right.le)
  case serves => exact any_eq_false fun l hl => Option.isNone_eq_false_iff.2 (hserves l hl)

@[simp] theorem Chip.emptySlots_nextWork (ch : Chip) (cs : List Nat) (slot : Nat) : (ch.emptySlots cs slot).nextWork = ch.nextWork := by
  unfold Chip.emptySlots
  induction cs generalizing ch with
  | nil => rfl
  | cons c cs ih => rw [List.foldl_cons, ih, Chip.modCl_nextWork]

/-- A command whose effect accepts no other command is noted under the state's next number. -/
theorem Chip.acceptReply_eq_taken {s : State} {ch : Chip} (q : Req) (op : Nat) (kind : WorkKind) (payload : List Byte)
    (h : ch.nextWork = s.chip.nextWork) : ch.acceptReply s.clk q op kind payload = Claims.taken s ch q op kind payload := by
  simp only [Chip.acceptReply, Chip.accept, Claims.taken, Claims.work, h]

/-- A table command whose checks find nothing empties its slots and is accepted. -/
theorem checked_emptySlots {s : State} {q : Req} {image : Option (List Byte)} (cs : List Nat) (slot op : Nat) (kind : WorkKind)
    (hclear : Claims.Clear (tableChecks q s.chip image)) :
    checked (tableChecks q s.chip image) ((s.chip.emptySlots cs slot).acceptReply s.clk q op kind []) =
      .ok (Claims.taken s (s.chip.emptySlots cs slot) q op kind []) := by
  rw [checked_ok _ hclear, Chip.acceptReply_eq_taken q op kind [] (Chip.emptySlots_nextWork ..)]

theorem tableCommands_empty_slots : Claims.tableRows := by
  intro s q hok slot cs
  exact ⟨fun htaken hvalid => exec_of_taken htaken rfl (checked_emptySlots cs slot _ _ (tableChecks_clear hok hvalid)),
    fun htaken => exec_of_taken htaken rfl (checked_emptySlots cs slot _ _ (tableChecks_clear hok rfl))⟩

theorem tableBuild_accepted : Claims.tableBuildRow := by
  intro s q htaken b hwidth hall hzero hworks
  refine exec_of_taken htaken rfl (checked_ok _ ?_)
  simp only [List.forall_mem_cons]
  refine ⟨?width, ?all, ?zero, Chip.worksFull_false hworks, nofun⟩
  case width => exact decide_eq_false (Nat.not_lt.2 (Nat.le_of_lt_succ hwidth))
  case all => exact decide_eq_false (Nat.not_lt.2 (Nat.le_of_lt_succ hall))
  case zero => simpa [reserved] using hzero

/-! ### TABLE_LOAD_COMPLETE (R287; log entry 75) -/

/-- A table load still open completes by what its clusters allow. -/
theorem tableLoadComplete_of_work {s : State} {id slot : Nat} {w : Work} {ls : List Nat} {img : List Byte} (hwork : s.chip.work? id = some w)
    (hkind : w.kind = .tableLoad ls slot img) :
    exec (.tableLoadComplete id) s = .next (Claims.after s (s.chip.tablesDone s.clk w ls slot img)) := by
  simp only [exec, execTableLoadComplete, onChip_eq, hwork, hkind]
  rfl

theorem tableLoadComplete_fills : Claims.tableLoadDoneRow := by
  intro s id w ls slot img hwork hkind cs
  have hexec := tableLoadComplete_of_work hwork hkind
  refine ⟨fun hserves howned => exec_of_effect hexec (if_neg ?all), fun hgone => exec_of_effect hexec (if_pos ?none)⟩
  case all =>
    have hserved : (ls.any fun l => (s.chip.pcid l).isNone) = false := any_eq_false fun l hl => Option.isNone_eq_false_iff.2 (hserves l hl)
    have hready : (cs.any fun c => decide ((s.chip.cl c).svc ≠ .owned)) = false := any_eq_false fun c hc => decide_eq_false (not_not.2 (howned c hc))
    exact Bool.eq_false_iff.1 (Bool.or_eq_false_iff.2 ⟨hserved, hready⟩)
  case none =>
    obtain ⟨l, hl, hnone⟩ := hgone
    exact Bool.or_eq_true_iff.2 (.inl (List.any_eq_true.2 ⟨l, hl, Option.isNone_iff_eq_none.2 hnone⟩))

/-! ### TABLE_BUILD_COMPLETE (R290, R291; log entries 73, 76) -/

/-- A table build still open completes by what its ranges allow. -/
theorem tableBuildComplete_of_work {s : State} {id width n src dst : Nat} {w : Work} {all : Bool} (hwork : s.chip.work? id = some w)
    (hkind : w.kind = .tableBuild width all n src dst) :
    exec (.tableBuildComplete id) s = .next (Claims.after s (s.chip.buildDone s.clk w width all n src dst)) := by
  simp only [exec, execTableBuildComplete, onChip_eq, hwork, hkind]
  rfl

/-- The completion of a build that wrote its image: the symbols present and the bits of the symbols counted. -/
def Chip.buildReply (ch : Chip) (k : Clock) (w : Work) (width : Nat) (all : Bool) (bytes : List Byte) (dst : Nat) : Chip :=
  let counts := symCounts width all bytes
  let lens := buildLens width counts
  (ch.writeDva k w.part dst (buildImage width lens)).complete k w 0xE001 .ok
    (toBe (lens.filter (· ≠ 0)).length 2 ++ zeros 2 ++ toBe (codeCost counts lens) 8)

/-- Where the memory is served, the commands before it have acted and no word is lost, a build of some bytes ends by whether its source reads. -/
theorem Chip.buildDone_of_served {ch : Chip} {k : Clock} {w : Work} {n src dst : Nat} (width : Nat) (all : Bool) (hn : n ≠ 0)
    (hsrc : ch.rangeShut k w.part src n = false) (hdst : ch.rangeShut k w.part dst 144 = false) (hfirst : ch.workEarlier w = false)
    (hkept : (ch.touchDva k w.part src n).firstLost w.part src n false = none) : let t := ch.touchDva k w.part src n
    (∀ bytes, t.readServed w.part src n = .ok bytes → (t.pt w.part).rangeBad dst 144 true = false → t.firstLost w.part dst 144 true = none →
      ch.buildDone k w width all n src dst = t.buildReply k w width all bytes dst) ∧
    (∀ a, t.readServed w.part src n = .error a → ch.buildDone k w width all n src dst = t.complete k w 0xE001 .notPermitted (toBe a 8)) := by
  have hserved : (ch.rangeShut k w.part src n || ch.rangeShut k w.part dst 144 || ch.workEarlier w) = false := by rw [hsrc, hdst, hfirst]; rfl
  refine ⟨fun bytes hread hrights hwhole => ?read, fun a hread => ?unread⟩
  case read =>
    simp only [Chip.buildDone, hn, hserved, hkept, hread, hrights, hwhole, Chip.buildReply]
    rfl
  case unread =>
    simp only [Chip.buildDone, hn, hserved, hkept, hread]
    rfl

theorem tableBuildComplete_builds : Claims.tableBuildDoneRow := by
  intro s id w width all n src dst hwork hkind ch
  have hexec := tableBuildComplete_of_work hwork hkind
  refine ⟨fun hzero => exec_of_effect hexec (if_pos hzero), fun hn hsrc hdst hfirst hkept => ?_⟩
  obtain ⟨hread, hunread⟩ := Chip.buildDone_of_served width all hn hsrc hdst hfirst hkept
  exact ⟨fun bytes hbytes hrights hwhole => exec_of_effect hexec (hread bytes hbytes hrights hwhole), fun a ha => exec_of_effect hexec (hunread a ha)⟩

/-- Settles O40: a table command by its checks, all refuted, and its completion by what its clusters or its ranges allow. -/
theorem tableRows : Obligations.TableRows :=
  ⟨tableCommands_empty_slots, tableLoadComplete_fills, tableBuild_accepted, tableBuildComplete_builds⟩

end Sys2Proof.Machine

/-! # Block emission and outbound coding (O44) -/

namespace Sys2Proof.Machine

/-! ### BLOCK_EMISSION (spec/09_block_codec.md R277, R279, R282, R283) -/

/-- A lane without a block emits nothing. -/
theorem Chip.blockEmission_of_nil {ch : Chip} {c l : Nat} (k : Clock) (h : ((ch.cl c).lane l).bufs = []) : ch.blockEmission k c l = ch := by
  simp only [Chip.blockEmission, h]

/-- A complete block waits for the end of its slots and for room, and is then emitted and checked. -/
theorem Chip.blockEmission_of_complete {ch : Chip} {c l t : Nat} {b : LaneBuf} {bs : List LaneBuf} {d : Desc} (k : Clock)
    (hbufs : ((ch.cl c).lane l).bufs = b :: bs) (hcomplete : b.complete = some t) (hdesc : ((ch.str b.region b.stream).half b.half).desc = some d) :
    let e0 := max (t + 2) (((ch.cl c).lane l).lastEmit + 1)
    let n := if hdrWidth b.bytes = 0 then 128 else 64
    ch.blockEmission k c l = if (ch.cl c).aclk ≤ e0 + n ∨ (ch.cl c).stageRoom 4096 = false then ch
      else (ch.modCl c fun y => { y with lanes := upd {} y.lanes l fun z => { z with lastEmit := e0 + n - 1 } }).laneCheck k c b d := by
  simp only [Chip.blockEmission, hbufs, hcomplete, hdesc, Bool.or_eq_true, decide_eq_true_eq, Nat.lt_succ_iff, Bool.not_eq_true']

theorem blockEmission_emits : Claims.blockEmissionRow := by
  intro s c l
  have hexec : exec (.blockEmission c l) s = .next (Claims.after s (s.chip.blockEmission s.clk c l)) := rfl
  refine ⟨fun hnone => exec_of_effect (t := s.chip) hexec (Chip.blockEmission_of_nil s.clk hnone), fun b bs t d hbufs hcomplete hdesc => ?_⟩
  intro e0 n
  have heffect := Chip.blockEmission_of_complete s.clk hbufs hcomplete hdesc
  refine ⟨fun hwaits => exec_of_effect (t := s.chip) hexec (heffect.trans (if_pos hwaits)),
    fun hpast hroom => exec_of_effect hexec (heffect.trans (if_neg ?emits))⟩
  case emits =>
    rintro (hearly | hfull)
    · exact Nat.not_le.2 hpast hearly
    · exact Bool.eq_false_iff.1 hfull hroom

/-! ### OUTBOUND_BLOCK_CODING (R285) -/

/-- With no block queued, or one not read whole, the encoder does nothing. -/
theorem Chip.outboundBlockCoding_of_waiting {ch : Chip} {r : Nat} (k : Clock) (h : (ch.rg r).encQueue = [] ∨ (ch.rg r).encData.length < 4096) :
    ch.outboundBlockCoding k r = ch := by
  unfold Chip.outboundBlockCoding
  split
  next => rfl
  next hqueue => exact if_pos (h.resolve_left (hqueue ▸ List.cons_ne_nil _ _))

/-- A block read whole is coded with the table its stream names on the cluster that serves it. -/
theorem Chip.outboundBlockCoding_of_whole {ch : Chip} {r st i c : Nat} {h : Bool} {rest : List (Nat × Bool × Nat)} {d : Desc} (k : Clock)
    (hqueue : (ch.rg r).encQueue = (st, h, i) :: rest) (hwhole : 4096 ≤ (ch.rg r).encData.length) :
    let u := ch.modRg r fun g => { g with encQueue := rest, encData := [] }
    ((u.str r st).half h).desc = some d → d.pcid u = some c → let table := look {} (u.cl c).codec d.tslot
    let stored := storeBlock table.image d.tslot (ch.rg r).encData
    ch.outboundBlockCoding k r = if table.valid = false ∨ d.run < stored.length then u.stopStream k r st 4
      else u.modStr r st fun x => { x with pieces := x.pieces ++ [{ half := h, dva := d.addr (i / 4096 * d.run), bytes := stored, credit := 4096 }] } := by
  intro u hdesc hserves
  simp only [Chip.outboundBlockCoding, hqueue, Nat.not_lt.2 hwhole, if_false, u, hdesc, hserves, Bool.or_eq_true, Bool.not_eq_true', decide_eq_true_eq]

theorem outboundBlockCoding_codes : Claims.outboundRow := by
  intro s r g
  have hexec : exec (.outboundBlockCoding r) s = .next (Claims.after s (s.chip.outboundBlockCoding s.clk r)) := rfl
  refine ⟨fun hwaits => exec_of_effect (t := s.chip) hexec (Chip.outboundBlockCoding_of_waiting s.clk hwaits), fun st h i rest d c hqueue hwhole => ?_⟩
  intro ch hdesc hserves table stored
  have heffect := Chip.outboundBlockCoding_of_whole s.clk hqueue hwhole hdesc hserves
  refine ⟨fun hstops => exec_of_effect hexec (heffect.trans (if_pos hstops)), fun hvalid hfits => exec_of_effect hexec (heffect.trans (if_neg ?coded))⟩
  case coded =>
    rintro (hempty | hlong)
    · exact Bool.eq_false_iff.1 hempty hvalid
    · exact Nat.not_lt.2 hfits hlong

/-- Settles O44: a lane's block by its slots and the room for it, an outbound block by its table and its run. -/
theorem codecRows : Obligations.CodecRows := ⟨blockEmission_emits, outboundBlockCoding_codes⟩

end Sys2Proof.Machine

/-! # Models, loads and weight epochs (O38) -/

namespace Sys2Proof.Machine

/-! ### MODEL_STAGE and MODEL_LOAD (spec/10_weights.md R296, R297; spec/13_host_protocol.md R392) -/

theorem modelStage_fills_staging : Claims.modelStageRow := by
  intro s q htaken off data horder hzero hfits
  refine exec_of_taken htaken rfl (checked_ok _ ?_)
  simp only [List.forall_mem_cons]
  refine ⟨?order, decide_eq_false (not_not.2 hzero), decide_eq_false (Nat.not_lt.2 hfits), nofun⟩
  case order => exact Bool.and_eq_false_imp.2 fun hlater => decide_eq_false (not_not.2 (horder.resolve_left (of_decide_eq_true hlater)))

theorem modelLoad_runs : Claims.modelLoadRow := by
  intro s q htaken hclear
  refine exec_of_taken htaken rfl ?_
  dsimp only
  rw [firstFail_eq_none.2 hclear]
  rfl

/-! ### MODEL_UNLOAD and EPOCH_RELEASE (spec/10_weights.md R313) -/

theorem modelUnload_releases : Claims.modelUnloadRow := by
  intro s q htaken h m rev e hrange howns hzero hvalid hloaded hrev hfree hunbound hworks
  have hslot : (if m.ep0.st ≠ .empty && m.ep0.revision = rev then 0 else 1) = e := by simp only [Bool.and_eq_true, decide_eq_true_eq, e]
  refine exec_of_taken htaken rfl ?_
  dsimp only
  rw [hslot]
  refine checked_ok _ ?_
  simp only [List.forall_mem_cons]
  refine ⟨?handle, decide_eq_false (not_not.2 hzero), ?valid, ?epoch, ?bound, Chip.worksFull_false hworks, nofun⟩
  case handle => exact Bool.or_eq_false_iff.2 ⟨decide_eq_false (Nat.not_le.2 hrange), congrArg not howns⟩
  case valid => exact congrArg not hvalid
  case epoch => exact Bool.or_eq_false_iff.2 ⟨Bool.or_eq_false_iff.2 ⟨decide_eq_false hloaded, decide_eq_false (not_not.2 hrev)⟩, hfree⟩
  case bound => exact decide_eq_false (Nat.not_lt.2 hunbound.le)

theorem epochRelease_goes_on : Claims.epochReleaseRow := by
  intro s h e ep
  have hdue : (ep.releasing || (decide (ep.st = .draining) && decide (s.chip.bound h e = 0))) = true ↔
      ep.releasing = true ∨ ep.st = .draining ∧ s.chip.bound h e = 0 := by
    simp only [Bool.or_eq_true, Bool.and_eq_true, decide_eq_true_eq]
  refine ⟨fun hgoes => exec_of_effect rfl (if_pos (hdue.2 hgoes)), fun hkept hwaits => exec_of_effect (t := s.chip) rfl (if_neg ?waits)⟩
  case waits =>
    intro hgoes
    obtain hreleasing | ⟨hdraining, hunbound⟩ := hdue.1 hgoes
    · exact Bool.eq_false_iff.1 hkept hreleasing
    · exact hwaits.elim (· hdraining) (· hunbound)

/-! ### SWITCH_WEIGHTS (R311) -/

/-- A model whose epoch e becomes current: the one that was current drains. -/
def Chip.switchTo (ch : Chip) (h e : Nat) : Chip :=
  (ch.modMdl h fun m => { (m.modEp (1 - e) fun x => if x.st = .current then { x with st := .draining } else x) with cur := e }).modEp h e
    fun x => { x with st := .current }

section
variable {s : State} {q : Req} {h e : Nat} (htaken : Claims.Taken s 0x0404 q)
  (hfound : s.chip.findEpoch q.part (beAt q.payload 0 8) (beAt q.payload 8 4) = some (h, e)) (hkept : ((s.chip.mdl h).ep e).releasing = false)
include htaken hfound hkept

theorem switchWeights_of_loaded (hloaded : ((s.chip.mdl h).ep e).st ≠ .loading) : exec (.switchWeights q) s =
    .next (Claims.after s (Claims.ok (if ((s.chip.mdl h).ep e).st = .current then s.chip else s.chip.switchTo h e) q [])) := by
  refine exec_of_taken htaken rfl ?_
  dsimp only
  rw [hfound]
  refine checked_ok _ ?_
  simp only [List.forall_mem_cons]
  exact ⟨hkept, decide_eq_false hloaded, nofun⟩

theorem switchWeights_of_loading (hloading : ((s.chip.mdl h).ep e).st = .loading) :
    exec (.switchWeights q) s = .next (Claims.after s (s.chip.refuse q (.notReady, some 8))) := by
  refine exec_of_taken_refused htaken rfl ?_
  dsimp only
  rw [hfound]
  refine checked_error _ ?_
  rw [firstFail_cons, hkept, firstFail_cons, decide_eq_true hloading]
  rfl

end

theorem switchWeights_switches : Claims.switchWeightsRow := by
  intro s q h e htaken hfound ep hkept
  have hswitch := switchWeights_of_loaded htaken hfound hkept
  refine ⟨fun hcurrent => ?current, fun hready => ?ready, switchWeights_of_loading htaken hfound hkept⟩
  case current => exact exec_of_effect (hswitch (ne_of_eq_of_ne hcurrent nofun)) (congrArg (Claims.ok · q []) (if_pos hcurrent))
  case ready =>
    have hne : ep.st ≠ .loading ∧ ep.st ≠ .current := by
      obtain hstandby | hdraining := hready
      · exact ⟨ne_of_eq_of_ne hstandby nofun, ne_of_eq_of_ne hstandby nofun⟩
      · exact ⟨ne_of_eq_of_ne hdraining nofun, ne_of_eq_of_ne hdraining nofun⟩
    exact exec_of_effect (hswitch hne.left) (congrArg (Claims.ok · q []) (if_neg hne.right))

/-- Settles O38: each command by its checks, all refuted, and a release by whether the epoch drains with nothing bound to it. -/
theorem modelRows : Obligations.ModelRows :=
  ⟨modelStage_fills_staging, modelLoad_runs, modelUnload_releases, switchWeights_switches, epochRelease_goes_on⟩

end Sys2Proof.Machine

/-! # The shards of an epoch (O39) -/

namespace Sys2Proof.Machine

/-! ### An epoch and a shard, written and read back -/

/-- What a change makes of an epoch is all that it does to the model. -/
theorem Model.modEp_eq_const (m : Model) (e : Nat) (f : Epoch → Epoch) : m.modEp e f = m.modEp e fun _ => f (m.ep e) := by
  unfold Model.modEp Model.ep
  split <;> rfl

/-- A model other than the default reads back as it was written, in canonical form or not. -/
theorem Chip.modMdl_mdl_of_ne_default (ch : Chip) (h : Nat) {f : Model → Model} (hne : f (ch.mdl h) ≠ {}) : (ch.modMdl h f).mdl h = f (ch.mdl h) :=
  look_put_of_ne ({} : Model) ch.models h hne

/-- A model that holds an epoch is not the default one. -/
theorem Model.ne_default_of_ep {m : Model} {e : Nat} (h : (m.ep e).st ≠ .empty) : m ≠ {} := by
  rintro rfl
  exact h (by unfold Model.ep; split <;> rfl)

@[simp] theorem Model.modEp_ep (m : Model) (e : Nat) (f : Epoch → Epoch) : (m.modEp e f).ep e = f (m.ep e) := by
  unfold Model.modEp Model.ep
  split <;> rfl

/-- An epoch that a change does not leave empty reads back as the change makes it. -/
theorem Chip.modEp_ep_of_ne_empty (ch : Chip) (h e : Nat) {f : Epoch → Epoch} (hne : (f ((ch.mdl h).ep e)).st ≠ .empty) :
    ((ch.modEp h e f).mdl h).ep e = f ((ch.mdl h).ep e) := by
  rw [Chip.modEp, Chip.modMdl_mdl_of_ne_default ch h (Model.ne_default_of_ep (e := e) (by rwa [Model.modEp_ep])), Model.modEp_ep]

/-- Two changes that do the same to an epoch do the same to its model. -/
theorem Model.modEp_congr {m : Model} {e : Nat} {f g : Epoch → Epoch} (h : f (m.ep e) = g (m.ep e)) : m.modEp e f = m.modEp e g := by
  rw [Model.modEp_eq_const, h, ← Model.modEp_eq_const]

/-- Two changes that do the same to a shard do the same to the block. -/
theorem Chip.modShard_congr {ch : Chip} {h e sh : Nat} {f g : Shard → Shard} (hfg : f (((ch.mdl h).ep e).shard sh) = g (((ch.mdl h).ep e).shard sh)) :
    ch.modShard h e sh f = ch.modShard h e sh g := by
  have hep := congrArg (fun y => { (ch.mdl h).ep e with shards := put {} ((ch.mdl h).ep e).shards sh y }) hfg
  refine congrArg (fun m => { ch with models := put {} ch.models h m }) (Model.modEp_congr (m := ch.mdl h) ?_)
  exact hep

/-! ### SHARD_PUT (spec/10_weights.md R300; spec/13_host_protocol.md R392) -/

/-- What SHARD_PUT does to its shard: the bytes go on the try that is open, or on the extra host try it opens. -/
def Shard.putBytes (k : Clock) (data : List Byte) (x : Shard) : Shard :=
  let x := if x.trying then x else { x with st := .fetching, source := 3, tries := 4, trying := true, received := [], restoring := true }
  { x with received := x.received ++ data, lastByte := k.localNs }

theorem Shard.putBytes_of_trying (k : Clock) (data : List Byte) {x : Shard} (h : x.trying = true) :
    x.putBytes k data = { x with received := x.received ++ data, lastByte := k.localNs } := by
  rw [Shard.putBytes, if_pos h]

theorem Shard.putBytes_of_idle (k : Clock) (data : List Byte) {x : Shard} (h : x.trying = false) : x.putBytes k data =
    { x with st := .fetching, source := 3, tries := 4, trying := true, received := data, restoring := true, lastByte := k.localNs } := by
  rw [Shard.putBytes, if_neg (Bool.eq_false_iff.1 h)]
  rfl

/-- Bytes that follow those of the open host try, or the first ones of a MISSING shard without one, are taken. -/
theorem shardPut_takes {s : State} {q : Req} {h e : Nat} (htaken : Claims.Taken s 0x0405 q)
    (hfound : s.chip.findEpoch q.part (beAt q.payload 0 8) (beAt q.payload 8 4) = some (h, e)) : let b := q.payload; let sh := beAt b 12 2
    let x := ((s.chip.mdl h).ep e).shard sh; let host := x.trying && decide (x.source = 3)
    s.chip.liveShard h e sh = true → Claims.Zero q 14 2 → Claims.Zero q 20 4 → beAt b 16 4 + (b.length - 24) ≤ x.length + 16 →
    beAt b 16 4 = (if host then x.received.length else 0) → host = true ∨ x.st = .missing →
    exec (.shardPut q) s = .next (Claims.after s (Claims.ok (s.chip.modShard h e sh (Shard.putBytes s.clk (b.drop 24))) q [])) := by
  intro b sh x host hlive hzero hzero' hfits hnext hopen
  refine exec_of_taken htaken rfl ?_
  dsimp only
  rw [hfound]
  refine checked_ok _ ?_
  simp only [shardPutChecks, hfound, List.forall_mem_cons]
  refine ⟨congrArg not hlive, decide_eq_false (not_not.2 hzero), decide_eq_false (not_not.2 hzero'), decide_eq_false (not_not.2 hnext),
    decide_eq_false (Nat.not_lt.2 hfits), ?opens, nofun⟩
  case opens =>
    exact Bool.and_eq_false_imp.2 fun hnone =>
      decide_eq_false (not_not.2 (hopen.resolve_left (Bool.eq_false_iff.1 (Bool.eq_false_of_not_eq_true' hnone))))

theorem shardPut_continues_or_opens : Claims.shardPutRow := by
  intro s q h e htaken b sh hfound hlive hzero hzero' x hfits
  have htakes := shardPut_takes htaken hfound hlive hzero hzero' hfits
  refine ⟨fun htrying hsource hnext => ?continues, fun hidle hmissing hfirst => ?opens⟩
  case continues =>
    have hhost : (x.trying && decide (x.source = 3)) = true := by rw [htrying, hsource]; rfl
    exact exec_of_effect (htakes (hnext.trans (if_pos hhost).symm) (.inl hhost))
      (congrArg (Claims.ok · q []) (Chip.modShard_congr (Shard.putBytes_of_trying s.clk (b.drop 24) htrying)))
  case opens =>
    have hhost : ¬ (x.trying && decide (x.source = 3)) = true := by rw [hidle]; exact Bool.false_ne_true
    exact exec_of_effect (htakes (hfirst.trans (if_neg hhost).symm) (.inr hmissing))
      (congrArg (Claims.ok · q []) (Chip.modShard_congr (Shard.putBytes_of_idle s.clk (b.drop 24) hidle)))

/-! ### Tries (R298, R299) -/

theorem shardTryTimeout_fails : Claims.shardTimeoutRow := by
  intro s h e sh hlive x htrying hopen
  have hdue : (s.chip.liveShard h e sh && x.trying && decide (x.received.length < x.length + 16) && decide (x.lastByte + 200000000 ≤ s.clk.localNs)) =
      decide (x.lastByte + 200000000 ≤ s.clk.localNs) := by
    simp only [hlive, htrying, decide_eq_true hopen, Bool.true_and]
  refine ⟨fun hpast => exec_of_effect rfl (if_pos ?past), fun hearly => exec_of_effect (t := s.chip) rfl (if_neg ?early)⟩
  case past => exact hdue.trans (decide_eq_true hpast)
  case early => exact Bool.eq_false_iff.1 (hdue.trans (decide_eq_false (Nat.not_le.2 hearly)))

theorem shardTryComplete_verifies : Claims.shardCompleteRow := by
  intro s h e sh data hlive ep x bytes htrying hwhole
  have hgiven : ¬ ((false && decide (x.source ≠ 3)) || decide (x.source = 2 ∧ bytes = [])) = true := by
    rw [Bool.false_and, Bool.false_or, decide_eq_true_eq]
    rintro ⟨-, hnone⟩
    exact nomatch (congrArg List.length hnone).symm.trans hwhole
  have hbegun : ¬ (!s.chip.liveShard h e sh || !x.trying) = true := by
    rw [hlive, htrying]
    exact Bool.false_ne_true
  exact exec_of_effect rfl ((if_neg hbegun).trans ((if_neg hgiven).trans (if_neg (not_not.2 hwhole))))

/-! ### Placing (R301, R303, R304, R307) -/

theorem shardPlaced_places : Claims.shardPlacedRow := by
  intro s h e sh hlive m ep x hplacing hpages hroom
  have hquiet : ¬ (!s.chip.liveShard h e sh || x.st ≠ .placing || (!x.kind && (x.lidxs ep).any fun i => (s.chip.led i).inflight ≠ 0)) = true := by
    have hidle : (!x.kind && (x.lidxs ep).any fun i => (s.chip.led i).inflight ≠ 0) = false :=
      Bool.and_eq_false_imp.2 fun hweight => any_eq_false fun i hi => decide_eq_false (not_not.2 ((hpages (Bool.eq_false_of_not_eq_true' hweight)).left i hi))
    rw [hlive, hplacing, hidle]
    exact Bool.false_ne_true
  have hsound : ¬ (!x.kind && ep.stream && decide (100 ≤ s.chip.flash.wear)) = true := by
    simp only [Bool.and_eq_true, Bool.not_eq_true', decide_eq_true_eq]
    rintro ⟨⟨hweight, hstream⟩, hworn⟩
    exact Nat.not_lt.2 hworn ((hpages hweight).right hstream)
  exact exec_of_effect rfl ((if_neg hquiet).trans ((if_neg hsound).trans (if_neg (not_not.2 hroom))))

/-! ### LOAD_COMPLETE (R302, R310) -/

theorem Chip.liftsAt_of_no_sched {ch : Chip} {h e : Nat} (c : Nat) (hnone : ((ch.mdl h).ep e).sched = none) : ch.liftsAt h e c = ch := by
  simp only [Chip.liftsAt, hnone]

/-- An epoch whose shards are all resident lists none as missing. -/
theorem Epoch.missingList_of_resident {ep : Epoch} (h : ∀ i, i < ep.nshards → (ep.shard i).st = .resident) : ep.missingList = [] := by
  have hnone : ((List.range ep.nshards).filter fun i => (ep.shard i).st = .missing) = [] :=
    List.filter_eq_nil_iff.2 fun i hi => by simp [h i (List.mem_range.1 hi)]
  rw [Epoch.missingList, hnone]
  rfl

/-- A shard that is resident is not on its way. -/
theorem Epoch.none_busy_of_resident {ep : Epoch} (h : ∀ i, i < ep.nshards → (ep.shard i).st = .resident) :
    ((List.range ep.nshards).any fun i => let s := (ep.shard i).st; decide (s = .waiting) || decide (s = .fetching) || decide (s = .placing)) = false :=
  any_eq_false fun i hi => by rw [h i (List.mem_range.1 hi)]; rfl

/-- An epoch whose load is over: it stands as st, and is current in its model when that is what it stands as. -/
def Chip.loadedAs (ch : Chip) (h e : Nat) (st : EpochState) : Chip :=
  (ch.modMdl h fun x => { x with cur := if st = .current then e else x.cur }).modEp h e fun x => ({ x with st := st, work := none } : Epoch).redegrade

/-- The end of a load leaves its epoch's schedule. -/
theorem Chip.loadedAs_sched {ch : Chip} {h e : Nat} {st : EpochState} (hst : st ≠ .empty) (hfull : ((ch.mdl h).ep e).st ≠ .empty) :
    (((ch.loadedAs h e st).mdl h).ep e).sched = ((ch.mdl h).ep e).sched := by
  have hcur : ({ ch.mdl h with cur := if st = .current then e else (ch.mdl h).cur } : Model).ep e = (ch.mdl h).ep e := rfl
  rw [Chip.loadedAs, Chip.modEp_ep_of_ne_empty _ h e hst, Chip.modMdl_mdl_of_ne_default ch h (Model.ne_default_of_ep (e := e) (hcur ▸ hfull)), hcur]
  rfl

theorem loadComplete_ends_load : Claims.loadCompleteRow := by
  intro s h e w m ep hloading hkept hresident hnokeep hwork hsched st
  have hmissing : ep.missingList = [] := Epoch.missingList_of_resident hresident
  have hst : st ≠ .empty := by
    unfold st
    split <;> nofun
  have hlifts : (s.chip.loadedAs h e st).liftsAt h e 0 = s.chip.loadedAs h e st :=
    Chip.liftsAt_of_no_sched 0 ((Chip.loadedAs_sched hst (ne_of_eq_of_ne hloading nofun)).trans hsched)
  have hopen : ¬ (decide (ep.st ≠ .loading) || ep.releasing || (List.range ep.nshards).any fun i =>
      let s := (ep.shard i).st; decide (s = .waiting) || decide (s = .fetching) || decide (s = .placing)) = true := by
    rw [Epoch.none_busy_of_resident hresident, hloading, hkept]
    exact Bool.false_ne_true
  have hruns : (ep.missingList.isEmpty || ep.runnable) = true := by rw [hmissing]; rfl
  have hdrop : ¬ (ep.keep && !ep.darino) = true := by rw [hnokeep]; exact Bool.false_ne_true
  refine exec_of_effect rfl ((if_neg hopen).trans ((if_pos hruns).trans ((if_neg hdrop).trans ?_)))
  change (match ep.work.bind ((s.chip.loadedAs h e st).liftsAt h e 0).work? with
    | some w => ((s.chip.loadedAs h e st).liftsAt h e 0).complete s.clk w 0xE001 (if ep.missingList.isEmpty then .ok else .degraded) ep.missingList
    | none => (s.chip.loadedAs h e st).liftsAt h e 0) = (s.chip.loadedAs h e st).complete s.clk w 0xE001 .ok []
  have hwork' : ep.work.bind (s.chip.loadedAs h e st).work? = some w := hwork
  rw [hlifts, hwork', hmissing]
  rfl

/-! ### SHARD_RETRY_DUE, REHASH_DUE and REHASH_COMPLETE (R303, R305, R306; log entry 56) -/

theorem shardRetry_fetches_missing : Claims.shardRetryRow := by
  intro s h e m ep hresident hkept
  have hwaits : (decide (ep.st = .empty) || decide (ep.st = .loading) || ep.releasing || decide (s.clk.localNs < ep.lastRetry + m.rehash * 1000000000)) =
      decide (s.clk.localNs < ep.lastRetry + m.rehash * 1000000000) := by
    obtain hstandby | hcurrent | hdraining := hresident
    · simp [hstandby, hkept]
    · simp [hcurrent, hkept]
    · simp [hdraining, hkept]
  refine ⟨fun hpast => exec_of_effect rfl (if_neg ?past), fun hearly => exec_of_effect (t := s.chip) rfl (if_pos ?early)⟩
  case past => exact Bool.eq_false_iff.1 (hwaits.trans (decide_eq_false (Nat.not_lt.2 hpast)))
  case early => exact hwaits.trans (decide_eq_true hearly)

theorem rehashDue_begins : Claims.rehashDueRow := by
  intro s h e sh hlive x hresident hweight hidle hpast
  refine exec_of_effect rfl (if_pos ?_)
  simp only [Bool.and_eq_true, Bool.not_eq_true', decide_eq_true_eq]
  exact ⟨⟨⟨⟨hlive, hresident⟩, hweight⟩, hidle⟩, hpast⟩

theorem rehashComplete_compares : Claims.rehashCompleteRow := by
  intro s h e sh hlive ep x hhashing r
  refine exec_of_effect rfl (if_neg ?_)
  rw [hlive, hhashing]
  exact Bool.false_ne_true

/-! ### PEER_SHARD_REQUEST and PEER_MISMATCH_REPORT (R299; log entry 25) -/

theorem peerRequest_serves_or_refuses : Claims.peerRequestRow := by
  intro s job src model rev sh j h e hpeer ep kept hsh hplain
  have hexec : exec (.peerShardRequest job src model rev sh) s = .next (Claims.after s (s.chip.servePeer s.clk job src model rev sh)) := rfl
  have hasked : ¬ (decide (sh ≥ ep.nshards) || (ep.darino && !s.chip.listedPeer ep src)) = true := by
    rw [hplain, decide_eq_false (Nat.not_le.2 hsh)]
    exact Bool.false_ne_true
  refine ⟨fun b hkept hb => exec_of_effect hexec ?serves, fun hnone hout y hsent => exec_of_effect hexec ?refuses⟩
  case serves =>
    replace hkept : ((s.chip.keptOf j.part model rev).bind fun kp => kp.shard sh) = some b := hkept
    simp only [Chip.servePeer, hpeer]
    rw [if_neg hasked, hkept]
    exact if_neg (Bool.eq_false_iff.1 (List.isEmpty_eq_false_iff.2 hb))
  case refuses =>
    replace hnone : ((s.chip.keptOf j.part model rev).bind fun kp => kp.shard sh) = none := hnone
    simp only [Chip.servePeer, hpeer]
    rw [if_neg hasked, hnone]
    dsimp only
    rw [if_pos hout]
    simp only [List.isEmpty_nil, if_true, hsent]

theorem peerMismatch_suspects : Claims.peerMismatchRow := by
  intro s job src model rev sh j h e hpeer hlive hloaded
  have hexec : exec (.peerMismatchReport job src model rev sh) s = .next (Claims.after s (s.chip.peerMismatch s.clk job src model rev sh)) := rfl
  refine exec_of_effect hexec ?_
  simp only [Chip.peerMismatch, hpeer]
  exact if_pos (Bool.and_eq_true_iff.2 ⟨hlive, decide_eq_true hloaded⟩)

/-- Settles O39: a try and a placing by the checks it passes, a load by its shards, a retry, a re-hash and a peer's message by their conditions. -/
theorem shardRows : Obligations.ShardRows :=
  ⟨shardPut_continues_or_opens, shardTryTimeout_fails, shardTryComplete_verifies, shardPlaced_places, loadComplete_ends_load, shardRetry_fetches_missing,
    rehashDue_begins, rehashComplete_compares, peerRequest_serves_or_refuses, peerMismatch_suspects⟩

end Sys2Proof.Machine

/-! # The step of a queue, and the clocks over a step (O1, O7) -/

namespace Sys2Proof.Machine

/-- Settles O1: the front of the queue is what `step` runs. -/
theorem stepRunsFront : Obligations.StepRunsFront := fun _ _ => step_front rfl

/-! ### The clocks (spec/13_host_protocol.md R377, R378) -/

/-- Synchronisation gained or lost moves no clock. -/
theorem syncTo_clock (on : Bool) (port : Nat) (k : Clock) (ch : Chip) :
    (syncTo on port k ch).1.localNs = k.localNs ∧ (syncTo on port k ch).1.timebase = k.timebase := by
  unfold syncTo
  split <;> exact ⟨rfl, rfl⟩

/-- A package reset moves no clock. -/
theorem packageReset_clock {s t : State} {cause : Nat} (h : exec (.packageReset cause) s = .next t) : t.clk = s.clk ∨ t.clk = s.clk.afterReset := by
  obtain rfl := Host.Outcome.next.inj h
  dsimp only
  split
  · exact .inl rfl
  · split
    · exact .inr rfl
    · split
      · exact .inr rfl
      · exact .inl rfl

theorem resetNAssert_clock {s t : State} {ns : Nat} (h : exec (.resetNAssert ns) s = .next t) : t.clk = s.clk ∨ t.clk = s.clk.afterReset := by
  obtain rfl := Host.Outcome.next.inj h
  dsimp only
  split
  · exact .inl rfl
  · split
    · exact .inr rfl
    · exact .inl rfl

/-- No command moves the local count, and none the timebase but a TIME_SYNC_MESSAGE whose time it is behind by more than 1 ms. -/
theorem exec_clock {i : Instr} {s t : State} (h : exec i s = .next t) : t.clk.localNs = s.clk.localNs ∧
    (t.clk.timebase = s.clk.timebase ∨
      ∃ port g, i = .timeSyncMessage port g ∧ s.clk.timebase + 1000000 < wrap64 g ∧ t.clk.timebase = wrap64 g) := by
  by_cases hset : maySetClocks i = false
  · obtain ⟨u, hnext, -, hclk, -⟩ := exec_next_frame i s
    obtain rfl := Host.Outcome.next.inj (hnext.symm.trans h)
    exact hclk hset ▸ ⟨rfl, .inl rfl⟩
  · cases i with
    | timeSyncMessage port g =>
      obtain rfl := Host.Outcome.next.inj h
      obtain ⟨hlocal, htime⟩ := syncTo_clock true port s.clk s.chip
      dsimp only
      split
      case isTrue hbehind => exact ⟨hlocal, .inr ⟨port, g, rfl, hbehind, rfl⟩⟩
      case isFalse => exact ⟨hlocal, .inl htime⟩
    | timeSyncLoss regained port =>
      obtain rfl := Host.Outcome.next.inj h
      obtain ⟨hlocal, htime⟩ := syncTo_clock regained port s.clk s.chip
      dsimp only
      split <;> exact ⟨hlocal, .inl htime⟩
    | packageReset cause => obtain hk | hk := packageReset_clock h <;> rw [hk] <;> exact ⟨rfl, .inl rfl⟩
    | resetNAssert ns => obtain hk | hk := resetNAssert_clock h <;> rw [hk] <;> exact ⟨rfl, .inl rfl⟩
    | _ => exact absurd rfl hset

/-- Settles O7: an idle step is a tick, every other one a command, and `exec_clock` says what a command may do to the clocks. -/
theorem clocksNeverRunBack : Obligations.ClocksNeverRunBack := by
  intro s t h
  match hqueue : s.pending with
  | [] =>
    obtain rfl := Host.Outcome.next.inj ((step_idle hqueue).symm.trans h)
    rw [tick_clk]
    have hcases := s.clk.tick_timebase_cases
    refine ⟨.inr s.clk.tick_localNs, fun hlow => ?_, hcases.imp_right (Or.imp_right .inl)⟩
    obtain hsame | hone | htwo := hcases <;> omega
  | i :: rest =>
    obtain ⟨hlocal, htime⟩ := exec_clock ((step_front hqueue).symm.trans h)
    refine ⟨.inl hlocal, ?_⟩
    obtain hsame | ⟨port, g, rfl, hbehind, hstep⟩ := htime
    · exact ⟨fun hlow => hsame ▸ hlow, .inl hsame⟩
    · exact ⟨fun _ => hstep ▸ Nat.mod_lt _ (by decide), .inr (.inr (.inr ⟨hstep ▸ hbehind, port, g, rest, rfl, hstep⟩))⟩

end Sys2Proof.Machine

/-! # The pins, the power states and the sideband (O8, O9, O11, O13, O14) -/

namespace Sys2Proof.Machine

/-! ### What moves the power states -/

/-- The part of the pins that the power states are made of (spec/18_module.md R503 to R508). -/
def ModulePins.power (m : ModulePins) : PowerState × Bool × Bool × Bool × Bool × Bool × Option Nat :=
  (m.st, m.rails, m.pwrEn, m.vaux, m.armed, m.thermtripN, m.tripHoldEnd)

/-- The commands that may move a power state: PWR_EN and its hold, the supplies, boot, a trip and its hold. -/
def maySetPower : Instr → Bool
  | .pwrEnRise | .pwrEnFall | .powerOffHoldEnd | .vinEntersRange .. | .vinLockout .. | .vauxChange .. => true
  | .bootSequence .. | .thermalTrip .. | .tripHoldEnd => true
  | _ => false

@[simp] theorem ModulePins.sample_power (m : ModulePins) (rails : List RailReading) : (m.sample rails).power = m.power := by
  unfold ModulePins.sample
  split <;> rfl

/-- A package reset leaves the pins. -/
theorem packageReset_mod {s t : State} {cause : Nat} (h : exec (.packageReset cause) s = .next t) : t.mod = s.mod := by
  obtain rfl := Host.Outcome.next.inj h
  dsimp only
  split
  · rfl
  · split
    · rfl
    · split <;> rfl

/-- The two watches over a package reset change nothing of the pins but pc_req (R454). -/
theorem stepWatchdogExpiry_mod {s t : State} {id : Nat} (h : exec (.stepWatchdogExpiry id) s = .next t) :
    t.mod = s.mod ∨ t.mod = { s.mod with pcReq := true } := by
  obtain rfl := Host.Outcome.next.inj h
  dsimp only
  split
  · exact .inl rfl
  · split
    · exact .inl rfl
    · split
      · exact .inr rfl
      · exact .inl rfl

theorem mgmtStartTimeout_mod {s t : State} (h : exec .mgmtStartTimeout s = .next t) : t.mod = s.mod ∨ t.mod = { s.mod with pcReq := true } := by
  obtain rfl := Host.Outcome.next.inj h
  dsimp only
  split
  · split
    · exact .inr rfl
    · exact .inl rfl
  · exact .inl rfl

/-- Every command moves the power states only if it may. -/
theorem exec_power {i : Instr} {s t : State} (h : exec i s = .next t) (hi : maySetPower i = false) : t.mod.power = s.mod.power := by
  by_cases hset : maySetPins i = false
  · obtain ⟨u, hnext, -, -, hmod⟩ := exec_next_frame i s
    obtain rfl := Host.Outcome.next.inj (hnext.symm.trans h)
    rw [hmod hset]
  · cases i with
    | pwrEnRise | pwrEnFall | powerOffHoldEnd | vinEntersRange | vinLockout | vauxChange | bootSequence | thermalTrip | tripHoldEnd =>
      exact absurd hi.symm Bool.false_ne_true
    | packageReset => rw [packageReset_mod h]
    | stepWatchdogExpiry =>
      obtain hm | hm := stepWatchdogExpiry_mod h
      · rw [hm]
      · rw [hm]; rfl
    | mgmtStartTimeout =>
      obtain hm | hm := mgmtStartTimeout_mod h
      · rw [hm]
      · rw [hm]; rfl
    | resetNRelease => obtain rfl := Host.Outcome.next.inj h; rfl
    | powerSample =>
      obtain rfl := Host.Outcome.next.inj h
      dsimp only
      split_ifs
      · exact ModulePins.sample_power _ _
      · rfl
    | resetNAssert | bootReady | smbusWrite | debugScanAccess | telemetryPeriod =>
      obtain rfl := Host.Outcome.next.inj h
      dsimp only
      split_ifs <;> rfl
    | _ => exact absurd rfl hset

/-! ### The invariant (spec/18_module.md R504 to R508) -/

theorem PinsInv_of_power_eq {m n : ModulePins} (h : n.power = m.power) (hm : Claims.PinsInv m) : Claims.PinsInv n := by
  simp only [ModulePins.power, Prod.mk.injEq] at h
  obtain ⟨hst, hrails, hpwr, hvaux, harmed, htrip, hhold⟩ := h
  simpa only [Claims.PinsInv, ModulePins.powered, hst, hrails, hpwr, hvaux, harmed, htrip, hhold] using hm

theorem tryStart_of_not_off (k : Clock) {m : ModulePins} (ch : Chip) (h : m.st ≠ .off) : tryStart k m ch = (m, ch) := by
  simp [tryStart, ModulePins.starts, h]

theorem tryStart_of_unarmed (k : Clock) {m : ModulePins} (ch : Chip) (h : m.armed = false) : tryStart k m ch = (m, ch) := by
  simp [tryStart, ModulePins.starts, h]

/-- A start that waits no longer goes to sequencing; else the pins stay. -/
theorem tryStart_inv (k : Clock) {m : ModulePins} (ch : Chip) (hm : Claims.PinsInv m) : Claims.PinsInv (tryStart k m ch).1 := by
  unfold tryStart
  split
  case isFalse => exact hm
  case isTrue hstarts =>
    simp only [ModulePins.starts, Bool.and_eq_true, decide_eq_true_eq] at hstarts
    obtain ⟨⟨⟨⟨⟨-, hpwr⟩, hwaits⟩, hoff⟩, -⟩, -⟩ := hstarts
    obtain ⟨hrails, -, harmed, htrip, -, -⟩ := hm
    simp_all [Claims.PinsInv, ModulePins.powered]

/-- Rails that go down keep the invariant where the state they go to has what it asks for. -/
theorem downTo_inv {m : ModulePins} {st : PowerState} (hm : Claims.PinsInv m) (hon : st ≠ .on) (hseq : st ≠ .sequencing)
    (hhold : st = .tripHold → m.tripHoldEnd ≠ none) (hfault : st = .faultOff → m.pwrEn = true) : Claims.PinsInv (m.downTo st) := by
  obtain ⟨-, -, -, htrip, -, -⟩ := hm
  simp_all [Claims.PinsInv, ModulePins.powered, ModulePins.downTo]

/-! Each command that may move a power state keeps the invariant. -/

section
variable {s t : State} (hinv : Claims.PinsInv s.mod)
include hinv

theorem pwrEnRise_inv (h : exec .pwrEnRise s = .next t) : Claims.PinsInv t.mod := by
  obtain rfl := Host.Outcome.next.inj h
  dsimp only
  split
  case isTrue => exact hinv
  case isFalse hlow =>
    refine tryStart_inv _ _ ?_
    obtain ⟨hrails, hpowered, -, htrip, hhold, hfault⟩ := hinv
    have hst : s.mod.st = .off ∨ s.mod.st = .tripHold := by cases hs : s.mod.st <;> simp_all [ModulePins.powered]
    obtain hst | hst := hst <;> simp_all [Claims.PinsInv, ModulePins.powered]

theorem pwrEnFall_inv (h : exec .pwrEnFall s = .next t) : Claims.PinsInv t.mod := by
  obtain rfl := Host.Outcome.next.inj h
  dsimp only
  split
  case isTrue => exact hinv
  case isFalse =>
    obtain ⟨-, -, -, -, hhold, -⟩ := hinv
    by_cases hst : s.mod.st = .tripHold <;> simp_all [Claims.PinsInv, ModulePins.powered, ModulePins.downTo]

theorem powerOffHoldEnd_inv (h : exec .powerOffHoldEnd s = .next t) : Claims.PinsInv t.mod := by
  obtain rfl := Host.Outcome.next.inj h
  dsimp only
  split
  · split
    · exact tryStart_inv _ _ (PinsInv_of_power_eq rfl hinv)
    · exact hinv
  · exact hinv

theorem vinEntersRange_inv {v : Nat} (h : exec (.vinEntersRange v) s = .next t) : Claims.PinsInv t.mod := by
  obtain rfl := Host.Outcome.next.inj h
  dsimp only
  split
  · exact tryStart_inv _ _ (PinsInv_of_power_eq rfl hinv)
  · exact hinv

theorem vinLockout_inv {v ns : Nat} (h : exec (.vinLockout v ns) s = .next t) : Claims.PinsInv t.mod := by
  obtain rfl := Host.Outcome.next.inj h
  dsimp only
  split
  case isTrue hlockout =>
    obtain ⟨hup, -⟩ := Bool.and_eq_true_iff.1 hlockout
    obtain ⟨-, hpowered, -⟩ := id hinv
    exact PinsInv_of_power_eq (m := s.mod.downTo .faultOff) rfl (downTo_inv hinv nofun nofun nofun fun _ => hpowered hup)
  case isFalse => exact PinsInv_of_power_eq rfl hinv

theorem vauxChange_inv {applied : Bool} (h : exec (.vauxChange applied) s = .next t) : Claims.PinsInv t.mod := by
  obtain rfl := Host.Outcome.next.inj h
  cases applied
  · cases hst : s.mod.st <;> simp_all [Claims.PinsInv, ModulePins.powered, ModulePins.noAux]
  · simp_all [Claims.PinsInv, ModulePins.powered]

theorem bootSequence_inv {r : BootResults} (h : exec (.bootSequence r) s = .next t) : Claims.PinsInv t.mod := by
  obtain rfl := Host.Outcome.next.inj h
  unfold bootSequence
  dsimp only
  split
  case isTrue hrails =>
    obtain ⟨hseq, -⟩ := Bool.and_eq_true_iff.1 hrails
    obtain ⟨-, hpowered, -⟩ := id hinv
    exact PinsInv_of_power_eq (m := s.mod.downTo .faultOff) rfl (downTo_inv hinv nofun nofun nofun fun _ => hpowered (by simp_all [ModulePins.powered]))
  case isFalse =>
    split
    case isTrue hruns =>
      have hup : s.mod.powered = true := by simp [ModulePins.powered]; simp at hruns; tauto
      have hon : Claims.PinsInv { s.mod with st := .on, rails := true } := by
        obtain ⟨-, hpowered, harmed, htrip, -, -⟩ := hinv
        have hoff : s.mod.st ≠ .off := by rintro hoff; simp [ModulePins.powered, hoff] at hup
        have hhigh : s.mod.thermtripN = true := by
          rw [← Bool.not_eq_false]
          exact fun hlow => Bool.false_ne_true ((htrip hlow).2.1.symm.trans hup)
        simp_all [Claims.PinsInv, ModulePins.powered]
      split
      · exact hon
      · exact PinsInv_of_power_eq rfl hon
    case isFalse => exact hinv

theorem thermalTrip_inv {n : Nat} {c : Int} (h : exec (.thermalTrip n c) s = .next t) : Claims.PinsInv t.mod := by
  obtain rfl := Host.Outcome.next.inj h
  dsimp only
  split
  case isTrue htrips =>
    simp only [Bool.and_eq_true] at htrips
    obtain ⟨⟨hup, -⟩, -⟩ := htrips
    obtain ⟨-, hpowered, -⟩ := hinv
    simp [Claims.PinsInv, ModulePins.powered, ModulePins.downTo, hpowered hup]
  case isFalse => exact hinv

theorem tripHoldEnd_inv (h : exec .tripHoldEnd s = .next t) : Claims.PinsInv t.mod := by
  obtain rfl := Host.Outcome.next.inj h
  dsimp only
  split
  · split
    · by_cases hst : s.mod.st = .tripHold <;> simp_all [Claims.PinsInv, ModulePins.powered]
    · exact hinv
  · exact hinv

end

/-- Every command keeps the invariant of the pins. -/
theorem exec_pinsInv {i : Instr} {s t : State} (hinv : Claims.PinsInv s.mod) (h : exec i s = .next t) : Claims.PinsInv t.mod := by
  by_cases hset : maySetPower i = false
  · exact PinsInv_of_power_eq (exec_power h hset) hinv
  · cases i with
    | pwrEnRise => exact pwrEnRise_inv hinv h
    | pwrEnFall => exact pwrEnFall_inv hinv h
    | powerOffHoldEnd => exact powerOffHoldEnd_inv hinv h
    | vinEntersRange v => exact vinEntersRange_inv hinv h
    | vinLockout v ns => exact vinLockout_inv hinv h
    | vauxChange applied => exact vauxChange_inv hinv h
    | bootSequence r => exact bootSequence_inv hinv h
    | thermalTrip n c => exact thermalTrip_inv hinv h
    | tripHoldEnd => exact tripHoldEnd_inv hinv h
    | _ => exact absurd rfl hset

/-- Settles O8: a tick leaves the pins, and every command keeps their invariant. -/
theorem pinsInvariantKept : Obligations.PinsInvariantKept := by
  intro s t hinv h
  match hqueue : s.pending with
  | [] =>
    obtain rfl := Host.Outcome.next.inj ((step_idle hqueue).symm.trans h)
    exact hinv
  | i :: rest => exact exec_pinsInv (s := { s with pending := rest }) hinv ((step_front hqueue).symm.trans h)

/-- Settles O9: at reset the module is off with its rails down, no start waiting and THERMTRIP_N high. -/
theorem resetLeavesPinsInvariant : Obligations.ResetLeavesPinsInvariant := by
  simp only [Obligations.ResetLeavesPinsInvariant]
  decide

/-! ### Lockout (spec/18_module.md R503, R504; the VAUX exception is log entry 42's) -/

/-- A start moves no module that is in fault-off. -/
theorem tryStart_st_of_faultOff (k : Clock) {m : ModulePins} (ch : Chip) (h : m.st = .faultOff) : (tryStart k m ch).1.st = .faultOff := by
  rw [tryStart_of_not_off k ch fun hoff => nomatch h.symm.trans hoff]
  exact h

/-- No command but a fall of PWR_EN or the loss of VAUX leads out of fault-off. -/
theorem faultOff_stays {i : Instr} {s t : State} (hfault : s.mod.st = .faultOff) (h : exec i s = .next t) :
    t.mod.st = .faultOff ∨ i = .pwrEnFall ∨ i = .vauxChange false := by
  have hdown : s.mod.powered = false := by simp [ModulePins.powered, hfault]
  by_cases hset : maySetPower i = false
  · have hst : t.mod.st = s.mod.st := congrArg Prod.fst (exec_power h hset)
    exact .inl (hst.trans hfault)
  · cases i with
    | pwrEnFall => exact .inr (.inl rfl)
    | vauxChange applied =>
      cases applied
      · exact .inr (.inr rfl)
      · obtain rfl := Host.Outcome.next.inj h
        exact .inl hfault
    | pwrEnRise | vinEntersRange =>
      obtain rfl := Host.Outcome.next.inj h
      dsimp only
      split
      · exact .inl (by simp [hfault, tryStart_st_of_faultOff])
      · exact .inl (by simp [hfault, tryStart_st_of_faultOff])
    | powerOffHoldEnd =>
      obtain rfl := Host.Outcome.next.inj h
      dsimp only
      split
      · split
        · exact .inl (tryStart_st_of_faultOff _ _ hfault)
        · exact .inl hfault
      · exact .inl hfault
    | tripHoldEnd =>
      obtain rfl := Host.Outcome.next.inj h
      dsimp only
      split
      · split
        · exact .inl (by simp [hfault])
        · exact .inl hfault
      · exact .inl hfault
    | vinLockout | thermalTrip | bootSequence =>
      obtain rfl := Host.Outcome.next.inj h
      exact .inl (by simp [hdown, hfault, bootSequence])
    | _ => exact absurd rfl hset

/-- Settles O11: the lockout's own effect, and that fault-off stays. -/
theorem lockoutFaultsOff : Obligations.LockoutFaultsOff := by
  refine ⟨fun s v ns hup hlock => ?_, fun i s t => faultOff_stays⟩
  have hfires : (s.mod.powered && (decide (v < 3300) && decide (100000 < ns) || decide (6200 < v) && decide (1000000 < ns))) = true := by
    simpa [hup] using hlock
  refine ⟨_, rfl, ?_⟩
  dsimp only
  rw [if_pos hfires]
  obtain ⟨hv, hns⟩ | ⟨hv, hns⟩ := hlock
  · exact ⟨rfl, rfl, by simp [ModulePins.alert, hv, hns], rfl, fun _ => by simp [hv, hns], fun habove => by omega⟩
  · exact ⟨rfl, rfl, by simp [ModulePins.alert, hv, hns], rfl, fun hbelow => by omega, fun _ => by simp [hv, hns]⟩

/-! ### The power-cycle request (spec/16_faults_recovery.md R454) -/

@[simp] theorem ModulePins.sample_pcReq (m : ModulePins) (rails : List RailReading) : (m.sample rails).pcReq = m.pcReq := by
  unfold ModulePins.sample
  split <;> rfl

@[simp] theorem tryStart_pcReq (k : Clock) (m : ModulePins) (ch : Chip) : (tryStart k m ch).1.pcReq = m.pcReq := by
  unfold tryStart
  split <;> rfl

@[simp] theorem bootSequence_pcReq (r : BootResults) (k : Clock) (m : ModulePins) (ch : Chip) : (bootSequence r k m ch).1.pcReq = m.pcReq := by
  unfold bootSequence
  dsimp only
  split_ifs <;> rfl

/-- No command but the two watches over a package reset sets pc_req. -/
theorem pcReq_of_exec {i : Instr} {s t : State} (h : exec i s = .next t) (hclear : s.mod.pcReq = false) (hset : t.mod.pcReq = true) :
    i = .mgmtStartTimeout ∨ ∃ id, i = .stepWatchdogExpiry id := by
  by_cases hpins : maySetPins i = false
  · obtain ⟨u, hnext, -, -, hmod⟩ := exec_next_frame i s
    obtain rfl := Host.Outcome.next.inj (hnext.symm.trans h)
    rw [hmod hpins, hclear] at hset
    exact absurd hset Bool.false_ne_true
  · suffices hkeeps : i ≠ .mgmtStartTimeout → (∀ id, i ≠ .stepWatchdogExpiry id) → t.mod.pcReq = false by
      by_contra hother
      rw [not_or, not_exists] at hother
      exact Bool.false_ne_true ((hkeeps hother.1 hother.2).symm.trans hset)
    intro hmgmt hwatch
    cases i with
    | mgmtStartTimeout => exact absurd rfl hmgmt
    | stepWatchdogExpiry id => exact absurd rfl (hwatch id)
    | packageReset => rwa [packageReset_mod h]
    | powerOffHoldEnd | tripHoldEnd =>
      obtain rfl := Host.Outcome.next.inj h
      dsimp only
      split
      · split <;> simp [hclear]
      · exact hclear
    | vauxChange applied =>
      obtain rfl := Host.Outcome.next.inj h
      cases applied
      · rfl
      · exact hclear
    | bootSequence r =>
      obtain rfl := Host.Outcome.next.inj h
      exact (bootSequence_pcReq r _ _ _).trans hclear
    | resetNRelease => obtain rfl := Host.Outcome.next.inj h; exact hclear
    | pwrEnRise | pwrEnFall | vinEntersRange | vinLockout | resetNAssert | bootReady | thermalTrip | powerSample | smbusWrite | debugScanAccess
    | telemetryPeriod =>
      obtain rfl := Host.Outcome.next.inj h
      dsimp only
      split_ifs <;> simp [hclear, ModulePins.downTo]
    | _ => exact absurd rfl hpins

/-- Bit 28 of the sideband status is pc_req, while no trip hold counts more than its 10 s (R511). -/
theorem sideband_status_pcReq {k : Clock} {m : ModulePins} (ch : Chip) (hhold : ∀ e, m.tripHoldEnd = some e → e ≤ k.localNs + 10000000000)
    (hreq : m.pcReq = true) : bitAt (sideband k m ch 0) 28 = true := by
  have hone (b : Bool) : optBool b ≤ 1 := by cases b <;> decide
  have htrip := hone m.trip
  have huvlo := hone m.uvlo
  have hovlo := hone m.ovlo
  have hrail := hone m.railFail
  simp only [bitAt, sideband, hreq, decide_eq_true_eq]
  have hset : optBool true = 1 := rfl
  cases hend : m.tripHoldEnd with
  | none => dsimp only; omega
  | some e =>
    have := hhold e hend
    simp only [ceilDiv]
    omega

/-- A package reset that overran its watchdog asks for a power cycle. -/
theorem stepWatchdogExpiry_of_package {s : State} {id : Nat} {x : RecStep} (hstep : (s.chip.rcv.steps.find? fun y => y.id = id) = some x)
    (hunit : x.unit = .package) (hlate : x.startNs + 8000000000 ≤ s.clk.localNs) : exec (.stepWatchdogExpiry id) s = .next (Claims.both s
      { s.mod with pcReq := true } { s.chip with rcv := { s.chip.rcv with steps := s.chip.rcv.steps.filter fun y => y.id ≠ id } }) := by
  have hdue : ¬ s.clk.localNs < x.startNs + stepWatchdog x.unit.code := by rw [hunit]; exact Nat.not_lt.2 hlate
  simp only [exec, execStepWatchdogExpiry, onModule, hstep, if_neg hdue, if_pos hunit]
  rfl

/-- A management controller that has not started 8 s after a package reset asks for a power cycle. -/
theorem mgmtStartTimeout_of_late {s : State} {r : Nat} (hreset : s.chip.rcv.resetAt = some r) (hlate : r + 8000000000 ≤ s.clk.localNs)
    (hmgmt : s.chip.boot.mgmtStarted = false) : exec .mgmtStartTimeout s = .next (Claims.both s
      { s.mod with pcReq := true } { s.chip with rcv := { s.chip.rcv with resetAt := none } }) := by
  have hdue : (decide (r + 8000000000 ≤ s.clk.localNs) && !s.chip.boot.mgmtStarted) = true := by simp [hlate, hmgmt]
  simp only [exec, execMgmtStartTimeout, onModule, hreset, if_pos hdue]
  rfl

/-- Settles O13: the two watches set pc_req in their cases, no other command does, and bit 28 of the sideband status (R511) shows it. -/
theorem powerCycleRequest : Obligations.PowerCycleRequest :=
  ⟨fun _ _ _ hstep hunit hlate => ⟨_, stepWatchdogExpiry_of_package hstep hunit hlate, rfl, rfl⟩,
    fun _ _ hreset hlate hmgmt => ⟨_, mgmtStartTimeout_of_late hreset hlate hmgmt, rfl, rfl⟩,
    fun _ _ _ h hclear hset => pcReq_of_exec h hclear hset, fun _ _ ch hhold hreq => sideband_status_pcReq ch hhold hreq⟩

/-! ### ALERT_N (spec/18_module.md R510) -/

theorem ModulePins.alert_iff (m : ModulePins) :
    m.alert = true ↔ m.pcReq = true ∨ m.trip = true ∨ m.uvlo = true ∨ m.ovlo = true ∨ m.railFail = true := by
  simp [ModulePins.alert, or_assoc]

theorem smbusAlertResponse_answers {s : State} (hvaux : s.mod.vaux = true) (hlow : s.mod.alert = true) :
    exec .smbusAlertResponse s = .next (Claims.after s (s.chip.send (.alertAddress (0x28 + s.mod.sbAddr.toNat)))) :=
  exec_of_effect rfl (if_pos (Bool.and_eq_true_iff.2 ⟨hvaux, hlow⟩))

theorem smbusAlertResponse_silent {s : State} (h : s.mod.vaux = false ∨ s.mod.alert = false) : exec .smbusAlertResponse s = .next s :=
  exec_of_effect (t := s.chip) rfl (if_neg (by obtain h | h := h <;> simp [h]))

/-- Settles O14: the five bits make the line, and the answer follows it. -/
theorem alertLine : Obligations.AlertLine :=
  ⟨ModulePins.alert_iff, fun _ => smbusAlertResponse_answers, fun _ hhigh => smbusAlertResponse_silent (.inr hhigh)⟩

end Sys2Proof.Machine

/-! # The module's pin events and RESET_N (O12, O52) -/

namespace Sys2Proof.Machine

/-- A command of the module whose effect r on pins and block is known. -/
theorem exec_of_module {s : State} {i : Instr} {r : ModulePins × Chip} {m : ModulePins} {ch : Chip}
    (hexec : exec i s = .next { s with mod := r.1, chip := r.2 }) (h : r = (m, ch)) : exec i s = .next (Claims.both s m ch) := by
  rw [hexec, h]
  rfl

/-- A command of the module that changes its pins alone. -/
theorem exec_of_pins {s : State} {i : Instr} {r : ModulePins × Chip} {m : ModulePins} (hexec : exec i s = .next { s with mod := r.1, chip := r.2 })
    (h : r = (m, s.chip)) : exec i s = .next (Claims.pins s m) := exec_of_module hexec h

/-- A command of the module that has nothing to do. -/
theorem exec_of_module_idle {s : State} {i : Instr} {r : ModulePins × Chip} (hexec : exec i s = .next { s with mod := r.1, chip := r.2 })
    (h : r = (s.mod, s.chip)) : exec i s = .next s := exec_of_module hexec h

/-- A start whose conditions hold begins boot at step 1 of a cold block (R505, R506). -/
theorem tryStart_starts (s : State) {m : ModulePins} (hvaux : m.vaux = true) (hpwr : m.pwrEn = true) (harmed : m.armed = true) (hoff : m.st = .off)
    (hhold : m.offHoldEnd = none) (hvin : vinInRange m.vinVolts = true) :
    tryStart s.clk m s.chip = ({ m with st := .sequencing, armed := false }, Claims.coldStart s) := by
  simp [tryStart, ModulePins.starts, hvaux, hpwr, harmed, hoff, hhold, hvin, Claims.coldStart]

theorem pwrEnRise_starts : Claims.pwrRiseRow := by
  intro s
  refine ⟨fun hlow hvaux hoff hhold hvin => ?starts, fun hlow hbars => ?barred, fun hhigh => ?high⟩
  case high => exact exec_of_module_idle rfl (if_pos hhigh)
  case starts =>
    refine exec_of_module rfl ?_
    refine (if_neg (Bool.eq_false_iff.1 hlow)).trans ?_
    exact tryStart_starts s (m := { s.mod with pwrEn := true, armed := s.mod.vaux && decide (s.mod.st ≠ .tripHold) && !s.mod.powered }) hvaux rfl
      (by simp [hvaux, hoff, ModulePins.powered]) hoff hhold hvin
  case barred =>
    refine exec_of_pins rfl ?_
    have harmed : (s.mod.vaux && decide (s.mod.st ≠ .tripHold) && !s.mod.powered) = false := by obtain h | h := hbars <;> simp [h]
    refine (if_neg (Bool.eq_false_iff.1 hlow)).trans ?_
    rw [harmed]
    exact tryStart_of_unarmed _ _ rfl

theorem pwrEnFall_drops : Claims.pwrFallRow := by
  intro s
  refine ⟨fun hhigh hup => exec_of_module rfl ?drops, fun hhigh hhold => exec_of_pins rfl ?held, fun hlow => ?low⟩
  case low => exact exec_of_module_idle rfl (by simp [hlow])
  case drops =>
    have hhold : s.mod.st ≠ .tripHold := fun h => by simp [ModulePins.powered, h] at hup
    simp [hhigh, hup, hhold]
  case held => simp [hhigh, hhold, ModulePins.powered]

theorem powerOffHoldEnd_frees : Claims.offHoldRow := by
  intro s
  refine ⟨fun hnone => ?_, fun t hhold => ⟨fun hearly => ?_, fun hover hunarmed => ?_,
    fun hover hvaux hpwr harmed hoff hvin => ?_⟩⟩
  · exact exec_of_module_idle rfl (by dsimp only; rw [hnone])
  · exact exec_of_module_idle rfl (by dsimp only; rw [hhold]; exact if_neg (Nat.not_le.2 hearly))
  · exact exec_of_pins rfl (by dsimp only; rw [hhold]; exact (if_pos hover).trans (tryStart_of_unarmed _ _ hunarmed))
  · refine exec_of_module rfl ?_
    dsimp only
    rw [hhold]
    exact (if_pos hover).trans (tryStart_starts s (m := { s.mod with offHoldEnd := none }) hvaux hpwr harmed hoff rfl hvin)

theorem vinEntersRange_kept : Claims.vinRangeRow := by
  intro s v
  refine ⟨fun hout => ?_, fun hin hunarmed => ?_, fun hin hvaux hpwr harmed hoff hhold => ?_⟩
  · exact exec_of_module_idle rfl (if_neg (Bool.eq_false_iff.1 hout))
  · exact exec_of_pins rfl ((if_pos hin).trans (tryStart_of_unarmed _ _ hunarmed))
  · refine exec_of_module rfl ((if_pos hin).trans ?_)
    exact tryStart_starts s (m := { s.mod with vinVolts := v }) hvaux hpwr harmed hoff hhold hin

theorem vinLockout_faults : Claims.lockoutRow := by
  intro s v t
  refine ⟨fun hup hv ht => exec_of_module rfl ?under, fun hup hv ht => exec_of_module rfl ?above, fun hlow hhigh => ?short⟩
  case under => simp [ModulePins.downTo, hup, hv, ht, Nat.not_lt.2 (show v ≤ 6200 by omega)]
  case above => simp [ModulePins.downTo, hup, hv, ht, Nat.not_lt.2 (show 3300 ≤ v by omega)]
  case short =>
    have hunder : (decide (v < 3300) && decide (100000 < t)) = false := by simp; omega
    have habove : (decide (6200 < v) && decide (1000000 < t)) = false := by simp; omega
    exact exec_of_pins rfl (by simp [hunder, habove])

theorem vauxChange_holds : Claims.vauxRow := fun _ => ⟨rfl, rfl⟩

theorem thermalTrip_trips : Claims.tripRow := by
  intro s n t
  refine ⟨fun hup hn ht => ?_, fun hnot => ?_⟩
  · exact exec_of_module rfl (if_pos (by simp [hup, hn, ht]))
  refine exec_of_module_idle rfl (if_neg ?_)
  simp only [Bool.and_eq_true, decide_eq_true_eq, not_and]
  intro hup ht
  obtain hdown | hn | hcool := hnot
  · exact absurd (hdown.symm.trans hup.1) Bool.false_ne_true
  · exact absurd hup.2 (Nat.not_lt.2 hn)
  · exact absurd ht (Int.not_le.2 hcool)

theorem tripHoldEnd_ends : Claims.tripEndRow := by
  intro s t hhold
  refine ⟨fun hearly => ?_, fun hover htrip => ?_⟩
  · refine exec_of_module_idle rfl ?_
    dsimp only
    rw [hhold]
    exact if_neg (Nat.not_le.2 hearly)
  · refine exec_of_pins rfl ?_
    dsimp only
    rw [hhold, htrip]
    exact if_pos hover

/-! ### RESET_N (spec/18_module.md R507) -/

theorem resetNAssert_short {s : State} {ns : Nat} (h : ns < 10000) : exec (.resetNAssert ns) s = .next s := by
  simp only [exec, execResetNAssert, onAll, if_pos h]

theorem resetNAssert_resets {s : State} {ns : Nat} (h : 10000 ≤ ns) (hpwr : s.mod.pwrEn = true) (hon : s.mod.st = .on) :
    exec (.resetNAssert ns) s = .next { s with clk := s.clk.afterReset, mod := { s.mod with resetN := false }, chip := s.chip.packageReset s.clk 0 0 } := by
  simp only [exec, execResetNAssert, onAll, if_neg (Nat.not_lt.2 h), hpwr, hon, decide_true, Bool.and_self, if_true]

theorem resetNAssert_level {s : State} {ns : Nat} (h : 10000 ≤ ns) (hdown : s.mod.pwrEn = false ∨ s.mod.st ≠ .on) :
    exec (.resetNAssert ns) s = .next (Claims.pins s { s.mod with resetN := false }) := by
  have hoff : ¬ (s.mod.pwrEn && decide (s.mod.st = .on)) = true := by obtain h | h := hdown <;> simp [h]
  simp only [exec, execResetNAssert, onAll, if_neg (Nat.not_lt.2 h), if_neg hoff]
  rfl

theorem resetN_moves : Claims.resetNRow := fun _ _ => ⟨resetNAssert_short, resetNAssert_resets, resetNAssert_level, rfl⟩

/-- Boot with RESET_N low comes to step 2 with the rails up and goes no further. -/
theorem bootSequence_held {s : State} {r : BootResults} (hlow : s.mod.resetN = false)
    (hruns : (s.mod.st = .sequencing ∧ r.railsOk = true) ∨ (s.mod.st = .on ∧ s.chip.boot.phase = 1)) :
    exec (.bootSequence r) s = .next (Claims.both s { s.mod with st := .on, rails := true } { s.chip with boot := { s.chip.boot with phase := 1 } }) := by
  refine exec_of_module rfl ?_
  obtain ⟨hst, hrails⟩ | ⟨hst, hphase⟩ := hruns
  · simp [bootSequence, hst, hrails, hlow]
  · simp [bootSequence, hst, hphase, hlow]

/-- Settles O12: the three cases of a low RESET_N, and the hold of boot at step 2. -/
theorem resetNHoldsBoot : Obligations.ResetNHoldsBoot := fun _ =>
  ⟨fun _ hlong hpwr hon => ⟨resetNAssert_resets hlong hpwr hon, rfl⟩, fun _ hlong hpwr => resetNAssert_level hlong (.inl hpwr),
    fun _ hshort => resetNAssert_short hshort, fun _ hlow hruns => ⟨_, bootSequence_held hlow hruns, rfl, rfl, rfl⟩⟩

/-! ### The sideband and the debug connector (spec/18_module.md R511; spec/12_partitions_security.md R368) -/

theorem smbusWrite_clears : Claims.smbusRow := by
  intro s v
  refine ⟨fun hvaux => ?_, fun c ok hnot => ?_⟩
  · exact exec_of_pins rfl (if_pos (by simp [hvaux]))
  refine exec_of_module_idle rfl (if_neg ?_)
  simp only [Bool.and_eq_true, decide_eq_true_eq, not_and]
  intro ⟨hvaux, hok⟩ hc
  obtain h | h | h := hnot
  · exact Bool.false_ne_true (h.symm.trans hvaux)
  · exact Bool.false_ne_true (h.symm.trans hok)
  · exact h hc

/-- The bits of a scan path: one for each bit shifted in, a free value each. -/
theorem Chip.scanBits_spec (n : Nat) (ch : Chip) : (ch.scanBits n).1.length = n ∧ (ch.scanBits n).2 = { ch with free := ch.free + n } := by
  induction n generalizing ch with
  | zero => exact ⟨rfl, rfl⟩
  | succ n ih =>
    obtain ⟨hlength, hchip⟩ := ih ch.fresh.2
    refine ⟨congrArg (· + 1) hlength, hchip.trans ?_⟩
    simp only [Chip.fresh, Nat.add_assoc, Nat.add_comm 1 n]

theorem debugScanAccess_serves : Claims.scanRow := by
  intro s boundary tdi
  refine ⟨fun hup hopen => ⟨(s.chip.scanBits tdi.length).1, (s.chip.scanBits_spec _).1, ?_⟩, fun hnot => ?_⟩
  · refine exec_of_module rfl ?_
    dsimp only
    rw [if_pos (by obtain h | h := hopen <;> simp [hup, h])]
    simp [(s.chip.scanBits_spec _).2, Chip.send]
  · refine exec_of_module_idle rfl (if_neg ?_)
    obtain h | ⟨h, h'⟩ := hnot
    · simp [h]
    · simp [h, h']

/-- Settles O52: each event of the pins, the supplies, the trip, the sideband and the scan path, by the branch its conditions choose. -/
theorem modulePinRows : Obligations.ModulePinRows :=
  ⟨pwrEnRise_starts, pwrEnFall_drops, powerOffHoldEnd_frees, vinEntersRange_kept, vinLockout_faults, vauxChange_holds, thermalTrip_trips,
    tripHoldEnd_ends, resetN_moves, smbusWrite_clears, fun _ => ⟨smbusAlertResponse_answers, smbusAlertResponse_silent⟩, debugScanAccess_serves⟩

end Sys2Proof.Machine

/-! # The gate of host commands, and a quarantined context (O4, O5, O6) -/

namespace Sys2Proof.Machine

/-! ### The gate (spec/13_host_protocol.md R381, R384, R389, R396) -/

/-- Every command of a host is a body behind silence and the gate, and changes the block alone. -/
theorem exec_of_hostOp {i : Instr} {op : Nat} {q : Req} (h : Claims.hostOp i = some (op, q)) (s : State) :
    ∃ body, exec i s = .next (Claims.after s (runCmd op q body s.clk s.chip)) := by
  cases i with
  | sessionOpen | sessionConfirm | sessionClose | attest | keyPut | keyDrop | parCreate | parSet | parDestroy | ctxCreate | ctxDestroy
  | regRead | regWrite | memMap | memUnmap | memProtect | memWrite | memRead | modelStage | modelLoad | modelUnload | switchWeights | shardPut
  | tableLoad | tableClear | tableBuild | slotLoad | runStart | runCancel | streamArm | streamWithdraw | reqAdmit | reqEnd | kvCreate | kvDestroy
  | kvTruncate | kvCopy | kvSet | kvQuery | pwrCap | pwrQuery | hbmPoint | telSet | evtAck | reset | ckptWrite | ckptRead | dumpRead
  | flashUpdate | jobSetup | jobEnd | fabStatus | dbgOpen | dbgClose | dbgRead | dbgWrite =>
    simp only [Claims.hostOp, Option.some.injEq, Prod.mk.injEq] at h
    obtain ⟨rfl, rfl⟩ := h
    exact ⟨_, rfl⟩
  | _ => exact nomatch h

theorem exec_hostOp_silent {i : Instr} {op : Nat} {q : Req} {s : State} (h : Claims.hostOp i = some (op, q)) (hsilent : s.chip.answers = false) :
    exec i s = .next s := by
  obtain ⟨body, hexec⟩ := exec_of_hostOp h s
  rw [hexec, runCmd_silent op q body s.clk hsilent]
  rfl

theorem exec_hostOp_refused {i : Instr} {op : Nat} {q : Req} {s : State} {r : Refuse} (h : Claims.hostOp i = some (op, q))
    (hanswers : s.chip.answers = true) (hgate : s.chip.gate op q = some r) : exec i s = .next (Claims.after s (s.chip.refuse q r)) := by
  obtain ⟨body, hexec⟩ := exec_of_hostOp h s
  rw [hexec, runCmd_refused body s.clk hanswers hgate]

/-- Settles O4: silence, then the gate, come before any command's body. -/
theorem hostGateComesFirst : Obligations.HostGateComesFirst := fun _ _ _ _ h =>
  ⟨exec_hostOp_silent h, fun _ => exec_hostOp_refused h⟩

/-- What the gate lets through in recovery mode is on R492's list, of partition 0. -/
theorem Chip.recoveryOp_of_gate {ch : Chip} {op : Nat} {q : Req} (hmode : ch.inRecoveryMode = true) (h : ch.gate op q = none) :
    (recoveryOp op && decide (q.part = 0)) = true := by
  unfold Chip.gate at h
  split at h
  case h_1 => exact nomatch h
  case h_2 =>
    have hlisted := firstFail_eq_none.1 h (ch.inRecoveryMode && !(recoveryOp op && decide (q.part = 0)), (.notReady, none)) (by simp)
    simpa only [hmode, Bool.true_and, Bool.not_eq_false'] using hlisted

/-- A command in order but for R492's list is refused with NOT_READY. -/
theorem Chip.gate_of_unlisted {ch : Chip} {op : Nat} {q : Req} {f : OpInfo} (hmode : ch.inRecoveryMode = true) (hop : opInfo op = some f)
    (hmgmt : f.mgmt = true → q.part = 0) (hvalid : (ch.pt q.part).valid = true) (htear : (ch.pt q.part).tearing = false)
    (hctx : if f.ctx then (ch.pt q.part).hasCtx q.ctx = true else q.ctx = 0) (hlo : f.lo ≤ q.payload.length) (hhi : q.payload.length ≤ f.hi)
    (hmax : q.payload.length ≤ ch.maxPayload q.port) (hlist : recoveryOp op = false) : ch.gate op q = some (.notReady, none) := by
  have hfirst : (f.mgmt && decide (q.part ≠ 0)) = false := by
    cases hm : f.mgmt
    · rfl
    · simp [hmgmt hm]
  have hthird : (if f.ctx then !(ch.pt q.part).hasCtx q.ctx else decide (q.ctx ≠ 0)) = false := by
    split at hctx <;> simp_all
  simp only [Chip.gate, hop, firstFail, hfirst, hvalid, htear, hthird, hmode, hlist, Nat.not_lt.2 hlo, Nat.not_lt.2 hhi, Nat.not_lt.2 hmax]
  rfl

/-- Settles O5: the gate's fifth check is R492's list. -/
theorem recoveryModeRefusesTheRest : Obligations.RecoveryModeRefusesTheRest := by
  intro s op q hmode
  refine ⟨fun hgate => ?_, fun i f hi hanswers hop hmgmt hvalid htear hctx hlo hhi hmax hlist => ?_⟩
  · have hlisted := Chip.recoveryOp_of_gate hmode hgate
    simpa only [recoveryOp, Bool.and_eq_true, decide_eq_true_eq] using hlisted
  · exact exec_hostOp_refused hi hanswers
      (Chip.gate_of_unlisted hmode hop hmgmt hvalid htear hctx hlo hhi hmax (decide_eq_false hlist))

/-! ### Quarantine (spec/16_faults_recovery.md R472) -/

theorem Partition.hasCtx_of_quarantine {p : Partition} {c : Nat} (h : p.quarantine c = true) : p.hasCtx c = true := by
  unfold Partition.quarantine at h
  split at h
  next hctx => simp [Partition.hasCtx, hctx]
  next => exact absurd h Bool.false_ne_true

/-- A free id is no context's. -/
theorem Partition.hasCtx_of_freeCtx {p : Partition} {c : Nat} (h : p.freeCtx = some c) : p.hasCtx c = false := by
  simpa using List.find?_some h

theorem slotLoad_of_quarantine {s : State} {q : Req} (hquar : (s.chip.pt q.part).quarantine q.ctx = true) (htaken : Claims.Taken s 0x0501 q) :
    ∃ off, exec (.slotLoad q) s = .next (Claims.after s (s.chip.refuse q (.notPermitted, off))) := by
  have hfail : ∃ off, firstFail (slotChecks q s.chip) = some (.notPermitted, off) := by
    simp only [slotChecks, firstFail, hquar, if_true]
    split
    · exact ⟨_, rfl⟩
    · exact ⟨_, rfl⟩
  obtain ⟨off, hfail⟩ := hfail
  refine ⟨off, exec_of_taken_refused htaken rfl ?_⟩
  simp only [slotLoadCmd, hfail]

theorem runStart_of_quarantine {s : State} {q : Req} (hquar : (s.chip.pt q.part).quarantine q.ctx = true) (htaken : Claims.Taken s 0x0502 q)
    (hlen : q.payload.length = runLen q.payload) : ∃ off, exec (.runStart q) s = .next (Claims.after s (s.chip.refuse q (.notPermitted, off))) := by
  refine ⟨none, exec_of_taken_refused htaken rfl (checked_error _ ?_)⟩
  simp only [runChecks, firstFail, hquar, hlen, ne_eq, not_true_eq_false, decide_false, Bool.false_eq_true, if_false, if_true]

theorem ctxDestroy_frees {s : State} {q : Req} (htaken : Claims.Taken s 0x0205 q) : exec (.ctxDestroy q) s = .next (Claims.after s
    (Claims.ok (s.chip.modPt q.part fun p => { p with contexts := put none p.contexts q.ctx none }) q [])) :=
  exec_of_taken htaken rfl rfl

/-- Settles O6: quarantine is among the first checks of both commands, a quarantined context is one that exists, and CTX_DESTROY drops it. -/
theorem quarantinedContextRefused : Obligations.QuarantinedContextRefused := by
  intro s q hquar
  refine ⟨slotLoad_of_quarantine hquar, runStart_of_quarantine hquar, fun hfree => ?_, fun htaken hparts hctxs => ?_⟩
  · exact Bool.false_ne_true ((Partition.hasCtx_of_freeCtx hfree).symm.trans (Partition.hasCtx_of_quarantine hquar))
  · refine ⟨_, ctxDestroy_frees htaken, ?_⟩
    have hgone : (s.chip.modPt q.part fun p => { p with contexts := put none p.contexts q.ctx none }).pt q.part =
        { s.chip.pt q.part with contexts := put none (s.chip.pt q.part).contexts q.ctx none } := by
      rw [Chip.modPt_pt _ _ _ hparts, if_pos rfl]
    refine (congrArg (Partition.quarantine · q.ctx) hgone).trans ?_
    simp only [Partition.quarantine, look_put_self q.ctx none hctxs]

end Sys2Proof.Machine

/-! # First-choice routes (O20) -/

namespace Sys2Proof.Machine

/-! ### One ring (spec/14_fabric.md R402, R409) -/

/-- The way ahead from a to b on a ring of size s, without the modulus. -/
theorem ring_ahead {s a b : Nat} (ha : a < s) (hb : b < s) : (b + s - a) % s = if a ≤ b then b - a else b + s - a := by
  split
  case isTrue hle => rw [show b + s - a = b - a + s by omega, Nat.add_mod_right, Nat.mod_eq_of_lt (by omega)]
  case isFalse hlt => exact Nat.mod_eq_of_lt (by omega)

theorem ringStep_plus {s a : Nat} (ha : a < s) : ringStep s a true = if a + 1 = s then 0 else a + 1 := by
  simp only [ringStep, if_true]
  split
  case isTrue hlast => rw [hlast, Nat.mod_self]
  case isFalse => exact Nat.mod_eq_of_lt (by omega)

theorem ringStep_minus {s a : Nat} (ha : a < s) : ringStep s a false = if a = 0 then s - 1 else a - 1 := by
  simp only [ringStep, Bool.false_eq_true, if_false]
  split
  case isTrue hzero => rw [hzero, Nat.zero_add, Nat.mod_eq_of_lt (by omega)]
  case isFalse => rw [show a + s - 1 = a - 1 + s by omega, Nat.add_mod_right, Nat.mod_eq_of_lt (by omega)]

theorem ringStep_lt {s a : Nat} (ha : a < s) (plus : Bool) : ringStep s a plus < s := by
  cases plus
  · rw [ringStep_minus ha]; split <;> omega
  · rw [ringStep_plus ha]; split <;> omega

/-- A hop by the shorter way takes one off the ring distance. -/
theorem ringDist_ringStep {s a b : Nat} (ha : a < s) (hb : b < s) (hne : a ≠ b) :
    Claims.ringDist s (ringStep s a (plusWay s a b)) b + 1 = Claims.ringDist s a b := by
  have hnext := ringStep_lt ha (plusWay s a b)
  cases hway : plusWay s a b with
  | true =>
    rw [hway] at hnext
    simp only [plusWay, ring_ahead ha hb, ring_ahead hb ha, decide_eq_true_eq] at hway
    simp only [Claims.ringDist]
    rw [ring_ahead hnext hb, ring_ahead hb hnext, ring_ahead ha hb, ring_ahead hb ha, ringStep_plus ha]
    split_ifs at hway ⊢ <;> omega
  | false =>
    rw [hway] at hnext
    simp only [plusWay, ring_ahead ha hb, ring_ahead hb ha, decide_eq_false_iff_not] at hway
    simp only [Claims.ringDist]
    rw [ring_ahead hnext hb, ring_ahead hb hnext, ring_ahead ha hb, ring_ahead hb ha, ringStep_minus ha]
    split_ifs at hway ⊢ <;> omega

theorem ringDist_self {s a : Nat} (ha : a < s) : Claims.ringDist s a a = 0 := by
  simp only [Claims.ringDist]
  rw [ring_ahead ha ha]
  simp

theorem ringDist_lt {s a b : Nat} (hb : b < s) : Claims.ringDist s a b < s := by
  simp only [Claims.ringDist]
  exact lt_of_le_of_lt (min_le_left _ _) (Nat.mod_lt _ (by omega))

/-! ### Coordinates -/

/-- Of three dimensions a change of one coordinate changes that one alone, within the ids of a system. -/
theorem coord_withCoord {a d v : Nat} (ha : a < 512) (hd : d < 3) (hv : v < 8) :
    withCoord a d v < 512 ∧ ∀ e < 3, coord (withCoord a d v) e = if e = d then v else coord a e := by
  have hcases : d = 0 ∨ d = 1 ∨ d = 2 := by omega
  obtain rfl | rfl | rfl := hcases
  all_goals
    simp only [withCoord, coord]
    refine ⟨by omega, fun e he => ?_⟩
    have hcases : e = 0 ∨ e = 1 ∨ e = 2 := by omega
    obtain rfl | rfl | rfl := hcases <;> simp <;> omega

/-- Devices that agree in their three coordinates are the same. -/
theorem eq_of_coords {a b : Nat} (ha : a < 512) (hb : b < 512) (h : ∀ d < 3, coord a d = coord b d) : a = b := by
  have h0 := h 0 (by decide)
  have h1 := h 1 (by decide)
  have h2 := h 2 (by decide)
  simp only [coord] at h0 h1 h2
  omega

theorem Fabric.inShape_iff {f : Fabric} {a : Nat} : f.inShape a = true ↔ (∀ d < 3, coord a d < f.size d) ∧ a < 512 := by
  have hall : (∀ d < 3, coord a d < f.size d) ↔ coord a 0 < f.xs ∧ coord a 1 < f.ys ∧ coord a 2 < f.zs :=
    ⟨fun h => ⟨h 0 (by decide), h 1 (by decide), h 2 (by decide)⟩, fun ⟨hx, hy, hz⟩ d hd => by
      have hcases : d = 0 ∨ d = 1 ∨ d = 2 := by omega
      obtain rfl | rfl | rfl := hcases
      · exact hx
      · exact hy
      · exact hz⟩
  rw [hall]
  simp only [Fabric.inShape, Bool.and_eq_true, decide_eq_true_eq, and_assoc]

/-! ### The route -/

/-- The sum of the ring distances of two devices. -/
def Fabric.dist (f : Fabric) (a b : Nat) : Nat := ((List.range 3).map fun d => Claims.ringDist (f.size d) (coord a d) (coord b d)).sum

theorem Fabric.dist_eq (f : Fabric) (a b : Nat) : f.dist a b =
    Claims.ringDist f.xs (coord a 0) (coord b 0) + Claims.ringDist f.ys (coord a 1) (coord b 1) + Claims.ringDist f.zs (coord a 2) (coord b 2) := by
  simp [Fabric.dist, List.range_succ, Fabric.size, Nat.add_assoc]

/-- Two devices that differ do so in a first dimension, in which the hop goes. -/
theorem firstDim_of_ne {a b : Nat} (ha : a < 512) (hb : b < 512) (hne : a ≠ b) : ∃ d < 3, firstDim a b = some d ∧ coord a d ≠ coord b d := by
  match hdim : firstDim a b with
  | none =>
    refine absurd (eq_of_coords ha hb fun d hd => ?_) hne
    simpa using List.find?_eq_none.1 hdim d (List.mem_range.2 hd)
  | some d => exact ⟨d, List.mem_range.1 (List.mem_of_find?_eq_some hdim), rfl, by simpa using List.find?_some hdim⟩

section
variable {f : Fabric} {a b : Nat} (hsize : ∀ d < 3, f.size d ≤ 8) (ha : f.inShape a = true) (hb : f.inShape b = true)
include hsize ha hb

/-- A hop stays in the shape and is one nearer. -/
theorem Fabric.hop_nearer (hne : a ≠ b) : f.inShape (f.hop a b) = true ∧ f.dist (f.hop a b) b + 1 = f.dist a b := by
  obtain ⟨hcoords, hlow⟩ := Fabric.inShape_iff.1 ha
  obtain ⟨hcoords', hlow'⟩ := Fabric.inShape_iff.1 hb
  obtain ⟨d, hd, hdim, hdiff⟩ := firstDim_of_ne hlow hlow' hne
  have hstep := ringStep_lt (hcoords d hd) (plusWay (f.size d) (coord a d) (coord b d))
  obtain ⟨hid, hcoord⟩ := coord_withCoord hlow hd (hstep.trans_le (hsize d hd))
  have hhop : f.hop a b = withCoord a d (ringStep (f.size d) (coord a d) (plusWay (f.size d) (coord a d) (coord b d))) := by
    rw [Fabric.hop, hdim]
    rfl
  rw [hhop]
  refine ⟨Fabric.inShape_iff.2 ⟨fun e he => ?_, hid⟩, ?_⟩
  · rw [hcoord e he]
    split
    · subst e; exact hstep
    · exact hcoords e he
  · have hnear := ringDist_ringStep (hcoords d hd) (hcoords' d hd) hdiff
    have hcases : d = 0 ∨ d = 1 ∨ d = 2 := by omega
    simp only [Fabric.dist, List.range_succ, List.range_zero, List.nil_append, List.cons_append, List.map_cons, List.map_nil, List.sum_cons, List.sum_nil]
    rw [hcoord 0 (by decide), hcoord 1 (by decide), hcoord 2 (by decide)]
    obtain rfl | rfl | rfl := hcases <;> simp <;> omega

/-- Only a device itself is at distance 0. -/
theorem Fabric.eq_of_dist_zero (h : f.dist a b = 0) : a = b := by
  by_contra hne
  obtain ⟨-, hnear⟩ := Fabric.hop_nearer hsize ha hb hne
  omega

end

theorem Fabric.dist_self {f : Fabric} {a : Nat} (ha : f.inShape a = true) : f.dist a a = 0 := by
  obtain ⟨hcoords, -⟩ := Fabric.inShape_iff.1 ha
  simp [Fabric.dist, List.range_succ, ringDist_self (hcoords 0 (by decide)), ringDist_self (hcoords 1 (by decide)), ringDist_self (hcoords 2 (by decide))]

/-- With as much fuel as its distance the route ends at the destination after exactly that many hops. -/
theorem Fabric.path_arrives {f : Fabric} {b : Nat} (hsize : ∀ d < 3, f.size d ≤ 8) (hb : f.inShape b = true) (n : Nat) :
    ∀ a, f.inShape a = true → f.dist a b ≤ n → (f.path a b n).getLastD a = b ∧ (f.path a b n).length = f.dist a b := by
  induction n with
  | zero =>
    intro a ha hfuel
    have hzero : f.dist a b = 0 := Nat.le_zero.1 hfuel
    exact ⟨Fabric.eq_of_dist_zero hsize ha hb hzero, hzero.symm⟩
  | succ n ih =>
    intro a ha hfuel
    by_cases hne : a = b
    · subst hne
      simp [Fabric.path, Fabric.dist_self ha]
    · obtain ⟨hshape, hnear⟩ := Fabric.hop_nearer hsize ha hb hne
      obtain ⟨hend, hlength⟩ := ih _ hshape (by omega)
      simp only [Fabric.path, if_neg hne, List.length_cons, hlength]
      exact ⟨(List.getLastD_cons ..).trans hend, hnear⟩

/-- Settles O20: every hop of the first-choice route is one nearer, and 24 hops are more than any distance in a shape of 8 by 8 by 8. -/
theorem routeArrivesByShortestRings : Obligations.RouteArrivesByShortestRings := by
  intro f a b _ hxs _ hys _ hzs ha hb
  have hsize : ∀ d < 3, f.size d ≤ 8 := by
    intro d hd
    simp only [Fabric.size]
    split_ifs <;> assumption
  obtain ⟨hcoords, -⟩ := Fabric.inShape_iff.1 hb
  have hx : Claims.ringDist f.xs (coord a 0) (coord b 0) < f.xs := ringDist_lt (hcoords 0 (by decide))
  have hy : Claims.ringDist f.ys (coord a 1) (coord b 1) < f.ys := ringDist_lt (hcoords 1 (by decide))
  have hz : Claims.ringDist f.zs (coord a 2) (coord b 2) < f.zs := ringDist_lt (hcoords 2 (by decide))
  rw [← Fabric.dist_eq]
  exact Fabric.path_arrives hsize hb 24 a ha (by rw [Fabric.dist_eq]; omega)

end Sys2Proof.Machine

/-! # The power ladder, duty, and the semaphore log (O15, O16, O17, O18) -/

namespace Sys2Proof.Machine

/-! ### Duty (spec/15_power_clocks_thermal.md R429) -/

/-- Of the first n edges of a group a duty of at most 16 delivers the whole part of n sixteenths of it. -/
theorem length_dutyEdges {d : Nat} (hd : d ≤ 16) (n : Nat) :
    ((List.range n).filter fun k => decide (k * d / 16 < (k + 1) * d / 16)).length = n * d / 16 := by
  induction n with
  | zero => simp
  | succ n ih =>
    rw [List.range_succ, List.filter_append, List.length_append, ih, List.filter_singleton]
    have hstep : (n + 1) * d = n * d + d := Nat.succ_mul n d
    rw [hstep]
    cases hedge : decide (n * d / 16 < (n * d + d) / 16)
    · simp at hedge ⊢; omega
    · simp at hedge ⊢; omega

/-- Settles O17: the edges of a group count up to a sixteenth of 16 duties. -/
theorem dutyDeliversItsCount : Obligations.DutyDeliversItsCount := by
  intro g d _ hhigh
  have hgroup : ((List.range 16).filter fun k => dutyEdge (16 * g + k) d) = (List.range 16).filter fun k => decide (k * d / 16 < (k + 1) * d / 16) := by
    refine List.filter_congr fun k hk => ?_
    have hmod : (16 * g + k) % 16 = k := by rw [Nat.mul_add_mod, Nat.mod_eq_of_lt (List.mem_range.1 hk)]
    rw [dutyEdge, hmod]
  rw [hgroup, length_dutyEdges hhigh, Nat.mul_div_cancel_left d (by decide)]

/-! ### The step that a loop boundary chooses (R438) -/

/-- The last number below n that satisfies p has none after it that does. -/
theorem getLast?_filter_range {p : Nat → Bool} {n k : Nat} (h : ((List.range n).filter p).getLast? = some k) :
    k < n ∧ p k = true ∧ ∀ j, k < j → j < n → p j = false := by
  induction n with
  | zero => simp at h
  | succ n ih =>
    rw [List.range_succ, List.filter_append, List.filter_singleton] at h
    cases hp : p n with
    | true =>
      rw [hp, cond_true, List.getLast?_concat, Option.some.injEq] at h
      subst h
      exact ⟨Nat.lt_succ_self n, hp, fun j hlow hhigh => by omega⟩
    | false =>
      rw [hp, cond_false, List.append_nil] at h
      obtain ⟨hk, hpk, hlast⟩ := ih h
      refine ⟨Nat.lt_succ_of_lt hk, hpk, fun j hlow hhigh => ?_⟩
      obtain rfl | hj := Nat.eq_or_lt_of_le (Nat.le_of_lt_succ hhigh)
      · exact hp
      · exact hlast j hlow hj

/-- The climb from step s by at most n: every step climbed is predicted at most 0.9 of the allowance, and where it stops short the next is above. -/
theorem nextStep_raise (e a s0 n : Nat) : ∀ s, s ≤ nextStep.raise e a s0 s n ∧ nextStep.raise e a s0 s n ≤ s + n ∧
    (∀ j, s < j → j ≤ nextStep.raise e a s0 s n → 10 * (e * stepPower j) ≤ 9 * (a * stepPower s0)) ∧
    (nextStep.raise e a s0 s n < s + n → 9 * (a * stepPower s0) < 10 * (e * stepPower (nextStep.raise e a s0 s n + 1))) := by
  induction n with
  | zero => exact fun s => ⟨le_rfl, le_rfl, fun j hlow hhigh => absurd hlow (Nat.not_lt.2 hhigh), fun h => absurd h (lt_irrefl _)⟩
  | succ n ih =>
    intro s
    rw [nextStep.raise]
    split
    case isTrue hclimb =>
      obtain ⟨hlow, hhigh, hsteps, hstop⟩ := ih (s + 1)
      refine ⟨by omega, by omega, fun j hj hjk => ?_, fun h => hstop (by omega)⟩
      obtain rfl | hj := Nat.eq_or_lt_of_le (Nat.succ_le_of_lt hj)
      · exact hclimb
      · exact hsteps j hj hjk
    case isFalse hstop => exact ⟨le_rfl, by omega, fun j hlow hhigh => absurd hlow (Nat.not_lt.2 hhigh), fun _ => Nat.not_le.1 hstop⟩

/-- Settles O18: above its allowance the highest step that fits, within it the climb. -/
theorem ladderStepRule : Obligations.LadderStepRule := by
  intro e a s0 hs0
  refine ⟨fun habove k hk => ?_, fun habove hnone j hj => ?_, fun hwithin => ?_⟩
  · rw [nextStep, if_pos habove] at hk
    obtain ⟨hlow, hfits, hlast⟩ := getLast?_filter_range hk
    exact ⟨by omega, of_decide_eq_true hfits, fun j hkj hj => by simpa using hlast j hkj (by omega)⟩
  · rw [nextStep, if_pos habove, List.getLast?_eq_none_iff, List.filter_eq_nil_iff] at hnone
    simpa using hnone j (List.mem_range.2 (by omega))
  · obtain ⟨hlow, hhigh, hsteps, hstop⟩ := nextStep_raise e a s0 (22 - s0) s0
    rw [Nat.add_sub_cancel' hs0] at hhigh hstop
    exact ⟨_, if_neg (Nat.not_lt.2 hwithin), hlow, hhigh, hsteps, hstop⟩

/-! ### The ladder and a single-owner die (R430, R432; no energy hold of R439) -/

theorem stepDuty_of_low {n : Nat} (h : n < 16) : stepDuty n = n + 1 := if_neg (Nat.not_le.2 h)

theorem stepDuty_of_high {n : Nat} (h : 16 ≤ n) : stepDuty n = 16 := if_pos h

/-- A die of one owner runs by the lesser of its owner's step and its limit. -/
theorem Chip.dieOpp_of_owner {ch : Chip} {d p : Nat} (hshared : ch.dieShared d = false) (howner : (ch.dieOwners d).head? = some p) :
    ch.dieOpp d = if 16 ≤ min (ch.pt p).step (ch.die d).limit then min (ch.die d).request (min (ch.pt p).step (ch.die d).limit - 15) else 0 := by
  obtain ⟨ps, hps⟩ := List.head?_eq_some_iff.1 howner
  simp [Chip.dieOpp, hshared, hps]

theorem Chip.dutyOf_of_owner {ch : Chip} {c p : Nat} (howner : ch.ownerOfCl c = some p) (hhold : (ch.pt p).hold = false) :
    ch.dutyOf c = stepDuty (min (ch.pt p).step (ch.die (dieOf c)).limit) := by
  simp [Chip.dutyOf, howner, hhold]

/-- Settles O15: the two halves of the ladder, and the die at the lesser of step and limit. -/
theorem ladderAndSingleOwnerDie : Obligations.LadderAndSingleOwnerDie := by
  refine ⟨fun n hn => ⟨stepDuty_of_low (Nat.lt_succ_of_le hn), if_pos hn⟩, fun n hlow _ => ⟨stepDuty_of_high hlow, if_neg (by omega)⟩, ?_⟩
  intro ch d p hshared howner e
  refine ⟨fun hhigh => (Chip.dieOpp_of_owner hshared howner).trans (if_pos hhigh),
    fun hlow => (Chip.dieOpp_of_owner hshared howner).trans (if_neg (Nat.not_le.2 hlow)), ?_⟩
  rintro c rfl hcl hhold
  rw [Chip.dutyOf_of_owner hcl hhold]
  exact ⟨stepDuty_of_high, stepDuty_of_low⟩

/-! ### The semaphore log (spec/16_faults_recovery.md R460) -/

/-- A mirror written in a canonical region reads back. -/
theorem Chip.modMir_mir (ch : Chip) (r l : Nat) (f : Mirror → Mirror) (hregions : Store.wf {} ch.regions = true)
    (hmirrors : Store.wf {} (ch.rg r).mirror = true) : ((ch.modMir r l f).rg r).mir l = f ((ch.rg r).mir l) := by
  have hregion : (ch.modMir r l f).rg r = { ch.rg r with mirror := upd {} (ch.rg r).mirror l f } := by
    rw [Chip.modMir, Chip.modRg_rg _ _ _ hregions, if_pos rfl]
  rw [hregion]
  exact (look_upd l f hmirrors l).trans (if_pos rfl)

/-- Settles O16: a log with room takes the operation, a full one is marked, and a capture empties it. -/
theorem semaphoreLog : Obligations.SemaphoreLog := by
  refine ⟨?_, capture_completes⟩
  intro ch c l op hlcid hregions hmirrors m t
  have ht : t = if m.log.length < 64 then { m with log := m.log ++ [op] } else { m with overflow := true } := by
    simp only [t, Chip.logSem, hlcid]
    exact Chip.modMir_mir ch (regionOf c) l _ hregions hmirrors
  by_cases hroom : m.log.length < 64
  · rw [if_pos hroom] at ht
    rw [ht]
    exact ⟨fun _ => ⟨rfl, rfl⟩, fun hfull => absurd hroom (Nat.not_lt.2 hfull), rfl⟩
  · rw [if_neg hroom] at ht
    rw [ht]
    exact ⟨fun h => absurd h hroom, fun _ => ⟨rfl, rfl⟩, rfl⟩

end Sys2Proof.Machine

/-! # KV sequences (O45; the id is taken at acceptance, log entry 30, and memory not served is waited for, log entry 73) -/

namespace Sys2Proof.Machine

/-- The checks of a new sequence leave a free id. -/
theorem kvCreate_takes {s : State} {q : Req} {i : Nat} (htaken : Claims.Taken s 0x0601 q)
    (hclear : Claims.Clear (newSeqChecks q s.chip (kvDescriptor q.payload)
      (decide (leAt q.payload 6 2 ≠ 0) || decide (slice q.payload 54 10 ≠ zeros 10)) 0))
    (hfree : s.chip.freeSeq q.part = some i) :
    exec (.kvCreate q) s = .next (Claims.after s (Claims.taken s (s.chip.newSeq q i (kvDescriptor q.payload)) q 0x0601 (.kvCreate i) [])) := by
  refine exec_of_taken htaken rfl ?_
  dsimp only
  rw [firstFail_eq_none.2 hclear, hfree]
  rfl

/-- KV_COPY asks in addition for a source that its partition holds. -/
theorem kvCopy_takes {s : State} {q : Req} {i : Nat} (htaken : Claims.Taken s 0x0604 q) (hvalid : (s.chip.sq (beAt q.payload 0 2)).valid = true)
    (hpart : (s.chip.sq (beAt q.payload 0 2)).part = q.part)
    (hclear : Claims.Clear (newSeqChecks q s.chip { s.chip.sq (beAt q.payload 0 2) with kvBase := beAt q.payload 8 8, kvLen := beAt q.payload 16 8 }
      (decide (slice q.payload 2 6 ≠ zeros 6)) 8)) (hfree : s.chip.freeSeq q.part = some i) :
    exec (.kvCopy q) s = .next (Claims.after s (Claims.taken s
      (s.chip.newSeq q i { s.chip.sq (beAt q.payload 0 2) with kvBase := beAt q.payload 8 8, kvLen := beAt q.payload 16 8 }) q 0x0604
      (.kvCopy (beAt q.payload 0 2) i) [])) := by
  have hown : Claims.Clear (seqOf q s.chip (beAt q.payload 0 2) :: newSeqChecks q s.chip
      { s.chip.sq (beAt q.payload 0 2) with kvBase := beAt q.payload 8 8, kvLen := beAt q.payload 16 8 } (decide (slice q.payload 2 6 ≠ zeros 6)) 8) :=
    List.forall_mem_cons.2 ⟨by simp [seqOf, hvalid, hpart], hclear⟩
  refine exec_of_taken htaken rfl ?_
  dsimp only
  rw [firstFail_eq_none.2 hown, hfree]
  rfl

theorem kvNew_takes : Claims.kvNewRow := fun _ _ _ => ⟨kvCreate_takes, kvCopy_takes⟩

theorem kvChange_accepted : Claims.kvChangeRow := by
  intro s q howned hworks b i x
  obtain ⟨hvalid, hpart⟩ := howned
  have hown : (seqOf q s.chip i).1 = false := by simp [seqOf, i, b, hvalid, hpart]
  have hfit := Chip.worksFull_false hworks
  refine ⟨fun htaken hzero => exec_of_taken htaken rfl (checked_ok _ ?_), fun htaken hzero => exec_of_taken htaken rfl (checked_ok _ ?_), ?_⟩
  · simp only [List.forall_mem_cons]
    exact ⟨hown, by simpa [reserved] using hzero, hfit, nofun⟩
  · simp only [List.forall_mem_cons]
    exact ⟨hown, by simpa [reserved] using hzero, hfit, nofun⟩
  · intro htaken n w budget decay hwhole hlow hhigh hslots hrecent hkeep hdecay hwindow
    refine exec_of_taken htaken rfl (checked_ok _ ?_)
    simp only [List.forall_mem_cons]
    refine ⟨hown, ?budget, ?recent, hdecay, decide_eq_false (Nat.not_lt.2 hwindow), hfit, nofun⟩
    case budget =>
      simp only [Bool.or_eq_false_iff, decide_eq_false_iff_not, not_not, Nat.not_lt]
      exact ⟨⟨⟨hwhole, hlow⟩, hhigh⟩, hslots⟩
    case recent =>
      simp only [Bool.or_eq_false_iff, decide_eq_false_iff_not, Nat.not_le]
      exact ⟨hrecent.ne', hkeep⟩

theorem kvQuery_replies : Claims.kvQueryRow := by
  intro s q htaken howned b x hlayer hhead l
  obtain ⟨hvalid, hpart⟩ := howned
  refine exec_of_taken htaken rfl (checked_ok _ ?_)
  simp only [List.forall_mem_cons]
  exact ⟨by simp [seqOf, hvalid, hpart], decide_eq_false (Nat.not_le.2 hlayer), decide_eq_false (Nat.not_le.2 hhead), nofun⟩

theorem kvCarryOut_carries : Claims.kvCarryRow := by
  intro s id w hwork hseqs
  refine ⟨fun hheld => exec_of_effect (t := s.chip) rfl ?held, fun hfirst hserves hidle hlive => exec_of_effect rfl ?carried⟩
  case held =>
    simp only [Chip.kvCarry, hwork]
    refine if_pos ?_
    obtain h | h | h := hheld <;> simp only [h, Bool.or_true, Bool.true_or, Bool.not_false]
  case carried =>
    have hgo : (w.kind.kvSeqs.isEmpty || s.chip.kvEarlier w || !s.chip.kvServes w || w.kind.kvSeqs.any s.chip.taskInFlight) = false := by
      rw [hfirst, hserves, hidle, List.isEmpty_eq_false_iff.2 hseqs]
      rfl
    simp only [Chip.kvCarry, hwork, hgo, hlive]
    rfl

/-- Settles O45: a new sequence, a change, a query and a command carried out, each with its checks refuted. -/
theorem kvRows : Obligations.KvRows := ⟨kvNew_takes, kvChange_accepted, kvQuery_replies, kvCarryOut_carries⟩

end Sys2Proof.Machine

/-! # Attention tasks (O46; the checks come before the semaphore's wait, log entry 29, and memory not served is waited for, log entry 73) -/

namespace Sys2Proof.Machine

/-- An engine that has no task to begin. -/
theorem Chip.taskReady_of_none {ch : Chip} (k : Clock) {e : Nat} (h : (ch.rg e).eng.part = none ∨ (ch.rg e).eng.parked = true ∨ (ch.rg e).eng.work ≠ none ∨
    (ch.rg e).eng.count ≤ (ch.rg e).eng.index ∨ ((ch.rg e).eng.st ≠ .running ∧ (ch.rg e).eng.st ≠ .holding)) : ch.taskReady k e = ch := by
  unfold Chip.taskReady
  dsimp only
  split
  case h_1 => rfl
  case h_2 p hpart =>
    refine if_pos ?_
    obtain h | h | h | h | ⟨h, h'⟩ := h
    · exact nomatch hpart.symm.trans h
    · simp [h]
    · simp [Option.isSome_iff_ne_none.2 h]
    · simp [h]
    · simp [h, h']

/-- A task that lists, races and semaphores have not been asked about yet (R326, R341). -/
def Chip.taskHeads (ch : Chip) (k : Clock) (e p : Nat) (t : AttnTask) : Chip :=
  if ch.kvPending t.seq then ch.modEng e fun y => { y with st := .holding }
  else match ch.taskCheck e p t with
    | some c => ch.attnFault k e c t.seq
    | none =>
      let h := ch.modEng e fun y => { y with st := .running }
      if (ch.rg e).eng.waitDone || t.wn = 0 then (h.modEng e fun y => { y with waitDone := true }).taskBegin k e p t
      else if t.wn ≤ look 0 (h.rg e).sems t.wsem then
        ((h.modRg e fun r => { r with sems := upd 0 r.sems t.wsem (· - t.wn) }).modEng e fun y => { y with waitDone := true }).taskBegin k e p t
      else h

/-- A task read from memory that serves, at the head of an engine that is free for it. -/
theorem Chip.taskReady_of_read {ch : Chip} (k : Clock) {e p : Nat} {b : List Byte} (hpart : (ch.rg e).eng.part = some p)
    (hst : (ch.rg e).eng.st = .running ∨ (ch.rg e).eng.st = .holding) (hparked : (ch.rg e).eng.parked = false) (hwork : (ch.rg e).eng.work = none)
    (hindex : (ch.rg e).eng.index < (ch.rg e).eng.count) (hserves : ch.rangeServes p ((ch.rg e).eng.dva + 64 * (ch.rg e).eng.index) 64 = true)
    (hread : ch.attnDva p ((ch.rg e).eng.dva + 64 * (ch.rg e).eng.index) 64 = .ok b)
    (hkv : ch.rangeServes p (ch.sq (attnTask b).seq).kvBase (ch.sq (attnTask b).seq).size = true) :
    ch.taskReady k e = ch.taskHeads k e p (attnTask b) := by
  have hgo : ¬ ((ch.rg e).eng.st ≠ .running && (ch.rg e).eng.st ≠ .holding || (ch.rg e).eng.parked || (ch.rg e).eng.work.isSome ||
      (ch.rg e).eng.count ≤ (ch.rg e).eng.index || !ch.rangeServes p ((ch.rg e).eng.dva + 64 * (ch.rg e).eng.index) 64) = true := by
    obtain h | h := hst <;> simp [h, hparked, hwork, hindex, hserves]
  unfold Chip.taskReady
  simp only [hpart]
  rw [if_neg hgo, hread]
  dsimp only
  rw [if_neg (by simp [hkv])]
  rfl

theorem taskReady_begins : Claims.taskReadyRow := by
  intro s e g
  refine ⟨fun hnone => exec_of_effect (t := s.chip) rfl (Chip.taskReady_of_none s.clk hnone), ?_⟩
  intro p b hpart hst hparked hwork hindex hserves hread t ch hkv
  have hheads : exec (.attentionTaskReady e) s = .next (Claims.after s (s.chip.taskHeads s.clk e p t)) :=
    exec_of_effect rfl (Chip.taskReady_of_read s.clk hpart hst hparked hwork hindex hserves hread hkv)
  refine ⟨fun hpending => exec_of_effect hheads (if_pos hpending), fun c hfree hcheck => exec_of_effect hheads ?faults, fun hfree hcheck => ?checked⟩
  case faults =>
    replace hcheck : s.chip.taskCheck e p t = some c := hcheck
    refine (if_neg (Bool.eq_false_iff.1 hfree)).trans ?_
    rw [hcheck]
  case checked =>
    intro h
    have hwaits : s.chip.taskHeads s.clk e p t =
        if (g.waitDone || t.wn = 0) = true then (h.modEng e fun y => { y with waitDone := true }).taskBegin s.clk e p t
        else if t.wn ≤ look 0 (h.rg e).sems t.wsem then
          ((h.modRg e fun r => { r with sems := upd 0 r.sems t.wsem (· - t.wn) }).modEng e fun y => { y with waitDone := true }).taskBegin s.clk e p t
        else h := by
      replace hcheck : s.chip.taskCheck e p t = none := hcheck
      refine (if_neg (Bool.eq_false_iff.1 hfree)).trans ?_
      rw [hcheck]
    replace hheads := exec_of_effect hheads hwaits
    refine ⟨fun hdone => exec_of_effect hheads (if_pos (by simpa using hdone)), fun hwait hn hsem => exec_of_effect hheads ?_,
      fun hwait hn hsem => exec_of_effect hheads ?_⟩
    · exact (if_neg (by simp [hwait, hn])).trans (if_pos hsem)
    · exact (if_neg (by simp [hwait, hn])).trans (if_neg (Nat.not_le.2 hsem))

/-! ### ATTENTION_TASK_COMPLETE (spec/11_attention_kv.md R326, R329) -/

theorem taskComplete_commits : Claims.taskCompleteRow := by
  intro s e g
  refine ⟨fun hidle => exec_of_effect (t := s.chip) rfl ?idle, fun w p hwork hpart hreqs => exec_of_effect (t := s.chip) rfl ?reading,
    fun w p hwork hpart hst hparked hreqs => ?commits⟩
  case idle =>
    replace hidle : (s.chip.rg e).eng.work = none := hidle
    simp only [Chip.taskComplete, hidle]
  case reading =>
    replace hwork : (s.chip.rg e).eng.work = some w := hwork
    replace hpart : (s.chip.rg e).eng.part = some p := hpart
    simp only [Chip.taskComplete, hwork, hpart]
    exact if_pos (by simp [hreqs])
  case commits =>
    intro t hdest hwrites hwords done
    replace hwork : (s.chip.rg e).eng.work = some w := hwork
    replace hpart : (s.chip.rg e).eng.part = some p := hpart
    replace hst : (s.chip.rg e).eng.st = .running := hst
    replace hparked : (s.chip.rg e).eng.parked = false := hparked
    refine exec_of_effect rfl ?_
    simp only [Chip.taskComplete, hwork, hpart]
    rw [if_neg (by simp [hst, hparked, hreqs]), hdest]
    dsimp only
    rw [if_neg (Bool.eq_false_iff.1 hwrites), if_neg (Bool.eq_false_iff.1 hwords)]

/-- Settles O46: a task that may not begin leaves its engine, one that may takes its branch, and one that completes commits. -/
theorem attentionRows : Obligations.AttentionRows := ⟨taskReady_begins, taskComplete_commits⟩

end Sys2Proof.Machine

/-! # Keys and the debug port (O33; keys are R366's, and the payloads of the Debug commands are log entry 23's) -/

namespace Sys2Proof.Machine

/-! ### KEY_PUT and KEY_DROP (spec/12_partitions_security.md R366) -/

/-- A key of a kind, put where none of the command's checks holds, is the partition's. -/
theorem keyPut_puts {s : State} {q : Req} (htaken : Claims.Taken s 0x0105 q) (hclear : Claims.Clear (keyPutChecks q s.chip)) :
    exec (.keyPut q) s = .next (Claims.after s (Claims.ok (s.chip.modPt q.part fun p => p.putKey q.payload) q [])) :=
  exec_of_taken htaken rfl (checked_ok _ hclear)

theorem keyPut_holds : Claims.keyPutRow := by
  intro s q htaken kind id p hzero
  have hreserved : (reserved q 1 3).1 = false := by simpa [reserved] using hzero
  refine ⟨fun hkind hlen hid hfree hroom => ?model, fun hkind hlen hid hroom => ?job, fun hkind hlen hid => ?checkpoint⟩
  case model =>
    replace hkind : leAt q.payload 0 1 = 1 := hkind
    have hfits : ¬ 64 ≤ (s.chip.pt q.part).modelKeys.length := Nat.not_le.2 hroom
    refine (keyPut_puts htaken ?_).trans ?_
    · simp only [Claims.Clear, keyPutChecks, List.forall_mem_cons, hkind]
      exact ⟨rfl, hreserved, by simp [hlen], by simpa using hid, rfl, rfl, hfree, by simp only [decide_eq_false hfits, Bool.and_false, Bool.false_and], rfl, nofun⟩
    · simp only [Partition.putKey, hkind]
      rfl
  case job =>
    replace hkind : leAt q.payload 0 1 = 2 := hkind
    have hfits : ¬ 64 ≤ (s.chip.pt q.part).jobKeys.length := Nat.not_le.2 hroom
    refine (keyPut_puts htaken ?_).trans ?_
    · simp only [Claims.Clear, keyPutChecks, List.forall_mem_cons, hkind]
      exact ⟨rfl, hreserved, by simp [hlen], rfl, by simpa using hid, rfl, rfl, rfl, by simp only [decide_eq_false hfits, Bool.and_false, Bool.false_and], nofun⟩
    · simp only [Partition.putKey, hkind]
      rfl
  case checkpoint =>
    replace hkind : leAt q.payload 0 1 = 3 := hkind
    refine (keyPut_puts htaken ?_).trans ?_
    · simp only [Claims.Clear, keyPutChecks, List.forall_mem_cons, hkind]
      exact ⟨rfl, hreserved, by simp [hlen], rfl, rfl, by simpa using hid, rfl, rfl, rfl, nofun⟩
    · simp only [Partition.putKey, hkind]
      rfl

/-- A key that no resident epoch uses, of a kind from 1 to 3, is dropped. -/
theorem keyDrop_of_unused {s : State} {q : Req} (htaken : Claims.Taken s 0x0106 q) (hzero : Claims.Zero q 1 3) (hlow : 0 < leAt q.payload 0 1)
    (hhigh : leAt q.payload 0 1 ≤ 3) (hfree : (decide (leAt q.payload 0 1 = 1) && s.chip.keyInUse q.part (beAt q.payload 4 4)) = false) :
    exec (.keyDrop q) s = .next (Claims.after s
      (Claims.ok (s.chip.modPt q.part fun p => p.dropKey (leAt q.payload 0 1) (beAt q.payload 4 4)) q [])) := by
  refine exec_of_taken htaken rfl (checked_ok _ ?_)
  simp only [List.forall_mem_cons]
  refine ⟨?_, by simpa [reserved] using hzero, hfree, nofun⟩
  rw [decide_eq_false hlow.ne', decide_eq_false (Nat.not_lt.2 hhigh)]
  rfl

theorem keyDrop_drops : Claims.keyDropRow := by
  intro s q htaken kind id hzero
  refine ⟨fun hkind hfree => ?model, fun hkind hused => ?used, fun hkind => ?job, fun hkind => ?checkpoint⟩
  case model =>
    replace hkind : leAt q.payload 0 1 = 1 := hkind
    refine (keyDrop_of_unused htaken hzero (by omega) (by omega) (by rw [show s.chip.keyInUse q.part (beAt q.payload 4 4) = false from hfree, Bool.and_false])).trans ?_
    simp only [Partition.dropKey, hkind]
    rfl
  case used =>
    replace hkind : leAt q.payload 0 1 = 1 := hkind
    refine exec_of_taken_refused htaken rfl (checked_error _ ?_)
    have hused' : s.chip.keyInUse q.part (beAt q.payload 4 4) = true := hused
    have hreserved : (reserved q 1 3).1 = false := by simpa [reserved] using hzero
    simp [firstFail, hkind, hused', hzero, reserved]
  case job =>
    replace hkind : leAt q.payload 0 1 = 2 := hkind
    refine (keyDrop_of_unused htaken hzero (by omega) (by omega) (by rw [hkind]; rfl)).trans ?_
    simp only [Partition.dropKey, hkind]
    rfl
  case checkpoint =>
    replace hkind : leAt q.payload 0 1 = 3 := hkind
    refine (keyDrop_of_unused htaken hzero (by omega) (by omega) (by rw [hkind]; rfl)).trans ?_
    simp only [Partition.dropKey, hkind]
    rfl

/-! ### The debug port (spec/12_partitions_security.md R368) -/

theorem dbgPort_opens_and_closes : Claims.dbgPortRows := by
  intro s q
  refine ⟨fun htaken hopen => exec_of_taken htaken rfl (checked_ok _ ?_), fun htaken hconf => exec_of_taken_refused htaken rfl (checked_error _ ?_),
    fun htaken => exec_of_taken htaken rfl rfl⟩
  · simp only [List.forall_mem_cons]
    exact ⟨hopen, nofun⟩
  · exact if_pos hconf

/-- The checks of a Debug command on HBM that is in range. -/
theorem dbgChecks_clear_hbm {s : State} {q : Req} {write : Bool} (hopen : s.chip.sec.dbgOpen = true) (hzero : Claims.Zero q 2 2) (hspace : beAt q.payload 0 1 = 1)
    (hl : beAt q.payload 1 1 = 0) (hrange : beAt q.payload 4 8 + beAt q.payload 12 4 ≤ 2 ^ 37)
    (hlen : (if write then decide (q.payload.length ≠ 16 + beAt q.payload 12 4) else decide (s.chip.maxPayload q.port < beAt q.payload 12 4)) = false) :
    Claims.Clear (dbgChecks q s.chip write) := by
  simp only [Claims.Clear, dbgChecks, List.forall_mem_cons, hspace, hopen]
  exact ⟨rfl, rfl, by simp [hl], by simpa [reserved] using hzero, decide_eq_false (Nat.not_lt.2 hrange), hlen, rfl, rfl, nofun⟩

/-- The checks of a Debug command on the scratchpad of an lcid's cluster whose banks are on. -/
theorem dbgChecks_clear_spd {s : State} {q : Req} {write : Bool} {c : Nat} (hopen : s.chip.sec.dbgOpen = true) (hzero : Claims.Zero q 2 2)
    (hspace : beAt q.payload 0 1 = 0) (hl : beAt q.payload 1 1 < 64) (hserves : s.chip.pcid (beAt q.payload 1 1) = some c)
    (hrange : beAt q.payload 4 8 + beAt q.payload 12 4 ≤ spdSize)
    (hlen : (if write then decide (q.payload.length ≠ 16 + beAt q.payload 12 4) else decide (s.chip.maxPayload q.port < beAt q.payload 12 4)) = false)
    (hon : (s.chip.cl c).rangeOn (beAt q.payload 4 8) (beAt q.payload 12 4) = true) : Claims.Clear (dbgChecks q s.chip write) := by
  simp only [Claims.Clear, dbgChecks, List.forall_mem_cons, hspace, hopen]
  exact ⟨rfl, rfl, by simpa using hl, by simpa [reserved] using hzero, decide_eq_false (Nat.not_lt.2 hrange), hlen,
    by simp [Chip.dbgCl, hserves, hon], by simp [hserves], nofun⟩

theorem dbgMem_reads_and_writes : Claims.dbgMemRows := by
  intro s q hopen hzero l a n
  refine ⟨fun htaken hspace hl hrange hmax hserved => ?readHbm, fun c htaken hspace hl hserves hrange hmax hon => ?readSpd,
    fun htaken hspace hl hrange hlen hserved => ?writeHbm, fun c htaken hspace hl hserves hrange hlen hon => ?writeSpd⟩
  case readHbm =>
    refine exec_of_taken htaken rfl ?_
    dsimp only
    rw [checked_ok _ (dbgChecks_clear_hbm (write := false) hopen hzero hspace hl hrange (decide_eq_false (Nat.not_lt.2 hmax))), hspace]
    exact congrArg Except.ok (if_neg (Bool.eq_false_iff.1 hserved))
  case readSpd =>
    replace hserves : s.chip.pcid (beAt q.payload 1 1) = some c := hserves
    refine exec_of_taken htaken rfl ?_
    dsimp only
    rw [checked_ok _ (dbgChecks_clear_spd (write := false) hopen hzero hspace hl hserves hrange (decide_eq_false (Nat.not_lt.2 hmax)) hon), hspace, hserves]
    rfl
  case writeHbm =>
    have hdata : (q.payload.drop 16).length = beAt q.payload 12 4 := by
      rw [List.length_drop, hlen, Nat.add_sub_cancel_left]
    refine exec_of_taken htaken rfl ?_
    dsimp only
    rw [checked_ok _ (dbgChecks_clear_hbm (write := true) hopen hzero hspace hl hrange (decide_eq_false (not_not.2 hlen))), hspace, hdata]
    exact congrArg Except.ok (if_neg (Bool.eq_false_iff.1 hserved))
  case writeSpd =>
    replace hserves : s.chip.pcid (beAt q.payload 1 1) = some c := hserves
    refine exec_of_taken htaken rfl ?_
    dsimp only
    rw [checked_ok _ (dbgChecks_clear_spd (write := true) hopen hzero hspace hl hserves hrange (decide_eq_false (not_not.2 hlen)) hon), hspace, hserves]
    rfl

/-- Settles O33: each command of the keys and of the debug port, with its checks refuted or the one that holds named. -/
theorem keyAndDebugRows : Obligations.KeyAndDebugRows := ⟨keyPut_holds, keyDrop_drops, dbgPort_opens_and_closes, dbgMem_reads_and_writes⟩

end Sys2Proof.Machine

/-! # Partitions and contexts (O34; the lowest ranges are log entry 49's) -/

namespace Sys2Proof.Machine

theorem parCreate_creates : Claims.parCreateRow := by
  intro s q htaken c rs hclear hport
  refine exec_of_taken htaken rfl ?_
  have hclear' : Claims.Clear (c.above ++ c.bad s.chip q.payload rs ++ [(c.conf && s.chip.sec.dbgOpen, (Status.notReady, some 1))] ++ c.taken s.chip rs ++
      c.waits s.chip) := by
    have hconf : (c.conf && s.chip.sec.dbgOpen) = false := by
      cases hc : c.conf
      · rfl
      · exact hport hc
    simp only [Claims.Clear, List.forall_mem_append, List.forall_mem_singleton] at hclear ⊢
    obtain ⟨⟨hform, htakes⟩, hwaits⟩ := hclear
    exact ⟨⟨⟨hform, hconf⟩, htakes⟩, hwaits⟩
  simp only [parCreateCmd]
  rw [checked_ok _ hclear']
  rfl

theorem firstFail_append {l m : List (Bool × Refuse)} (h : Claims.Clear l) : firstFail (l ++ m) = firstFail m := by
  induction l with
  | nil => rfl
  | cons a t ih =>
    obtain ⟨hhead, htail⟩ := List.forall_mem_cons.1 h
    rw [List.cons_append, firstFail_cons, hhead]
    exact ih htail

theorem parCreate_waits_for_debug : Claims.parCreateDebug := by
  intro s q htaken c rs hclear hconf hopen
  refine exec_of_taken_refused htaken rfl ?_
  simp only [parCreateCmd]
  rw [checked_error _ ?_]
  · rfl
  · rw [List.append_assoc, List.append_assoc, firstFail_append hclear]
    exact if_pos (Bool.and_eq_true_iff.2 ⟨hconf, hopen⟩)

theorem parSet_sets : Claims.parSetRow := by
  intro s q htaken b p rd wr rm hp hvalid htear hprio hborrow hawn hzero hpower hover hheld harmed
  refine exec_of_taken htaken rfl (checked_ok _ ?_)
  simp only [List.forall_mem_append, List.forall_mem_cons]
  refine ⟨⟨⟨?part, decide_eq_false (Nat.not_lt.2 (Nat.le_of_lt_succ hprio)), decide_eq_false (Nat.not_lt.2 (Nat.le_of_lt_succ hborrow)), nofun⟩, hawn⟩,
    by simpa [reserved] using hzero, decide_eq_false (Nat.not_lt.2 ((Nat.le_add_right _ _).trans hpower)), ?total, hover, Bool.and_eq_false_iff.2 (.inr hheld), Bool.and_eq_false_iff.2 (.inr harmed), nofun⟩
  case part =>
    simp only [Bool.or_eq_false_iff, decide_eq_false_iff_not, Bool.not_eq_false']
    exact ⟨⟨Nat.not_lt.2 (Nat.le_of_lt_succ hp), hvalid⟩, htear⟩
  case total =>
    refine decide_eq_false (Nat.not_lt.2 ?_)
    simpa only [Bool.and_eq_true, decide_eq_true_eq] using hpower

theorem parDestroy_tears : Claims.parDestroyRow := by
  intro s q htaken p hp hlow hvalid htear hzero hworks
  have hclear : Claims.Clear [(decide (p = 0) || decide (7 < p) || !(s.chip.pt p).valid || (s.chip.pt p).tearing, (Status.badField, some 0)),
      reserved q 1 3, s.chip.worksFull q] := by
    simp only [Claims.Clear, List.forall_mem_cons, Bool.or_eq_false_iff, decide_eq_false_iff_not, Bool.not_eq_false']
    exact ⟨⟨⟨⟨hp, by omega⟩, hvalid⟩, htear⟩, by simpa [reserved] using hzero, Chip.worksFull_false hworks, nofun⟩
  refine exec_of_taken htaken rfl ?_
  simp only [parDestroyCmd]
  rw [firstFail_eq_none.2 hclear]
  rfl

@[simp] theorem Chip.clearRanges_works (ch : Chip) (p : Nat) : (ch.clearRanges p).works = ch.works := by
  unfold Chip.clearRanges
  generalize List.range 16 = rs
  generalize ch.pt p = x
  induction rs generalizing ch with
  | nil => rfl
  | cons r rs ih => exact (ih _).trans (Chip.modRg_works ..)

theorem teardownComplete_frees : Claims.teardownRow := by
  intro s p done
  refine ⟨fun w hdone hwork => exec_of_effect rfl ((if_pos hdone).trans ?_), fun hopen => exec_of_effect (t := s.chip) rfl (if_neg (Bool.eq_false_iff.1 hopen))⟩
  have hfound : ((s.chip.clearRanges p).modPt p fun _ => {}).works.find? (fun w => decide (w.kind = .teardown p)) = some w := by
    rw [Chip.modPt_works, Chip.clearRanges_works]
    exact hwork
  dsimp only
  rw [hfound]

theorem ctxCreate_creates : Claims.ctxCreateRow := by
  intro s q htaken
  refine ⟨fun c hfree => exec_of_taken htaken rfl ?_, fun hnone => exec_of_taken_refused htaken rfl ?_⟩
  · rw [hfree]
  · rw [hnone]

/-- Settles O34: each command of partitions and contexts, with its checks refuted or the one that holds named. -/
theorem partitionRows : Obligations.PartitionRows :=
  ⟨parCreate_creates, parCreate_waits_for_debug, parSet_sets, parDestroy_tears, teardownComplete_frees, ctxCreate_creates, fun _ _ => ctxDestroy_frees⟩

end Sys2Proof.Machine

/-! # Datagrams, sessions and attestation (O32; a pending session lapses on the local count by log entry 56, and a session's id is the
counter's next, the model's own choice) -/

namespace Sys2Proof.Machine

/-! ### A datagram's checks in their order (spec/13_host_protocol.md R376, R381) -/

namespace Chip

theorem datagram_of_silent {ch : Chip} {port src : Nat} {bs : List Byte} (h : ch.answers = false) : ch.datagram port src bs = ch := by
  simp [datagram, h]

theorem datagram_of_full {ch : Chip} {port src : Nat} {bs : List Byte} (hanswers : ch.answers = true) (hfull : 512 ≤ ch.host.rx.length) :
    ch.datagram port src bs = { ch with host := countPort port ch.host false } := by
  simp [datagram, hanswers, hfull]

theorem datagram_of_formless {ch : Chip} {port src : Nat} {bs : List Byte} (hanswers : ch.answers = true) (hroom : ch.host.rx.length < 512)
    (hform : bs.length < 32 ∨ beAt bs 0 2 ≠ 0xA5C1 ∨ beAt bs 2 1 ≠ 1) : ch.datagram port src bs = ch.dropMalformed port := by
  have hfixed : bs.length < 32 → bs.length < if beAt bs 4 2 = 0x0101 then 32 else 48 := by split <;> omega
  simp only [datagram, hanswers, Bool.not_true, Bool.false_eq_true, if_false, if_neg (Nat.not_le.2 hroom), decide_eq_true_eq]
  rcases hform with hshort | hproto
  · simp [hfixed hshort]
  · rcases hproto with hmagic | hversion
    · simp [hmagic]
    · simp [hversion]

/-- A datagram in form that opens a session goes to the checks of its command. -/
theorem datagram_of_opening {ch : Chip} {port src : Nat} {bs : List Byte} (hanswers : ch.answers = true) (hroom : ch.host.rx.length < 512)
    (hlen : bs.length = 32 + beAt bs 10 2) (hmax : beAt bs 10 2 ≤ ch.maxPayload port) (hmagic : beAt bs 0 2 = 0xA5C1) (hversion : beAt bs 2 1 = 1)
    (hop : beAt bs 4 2 = 0x0101) (hsid : beAt bs 16 8 = 0) :
    ch.datagram port src bs = ch.letIn bs (reqOf port src bs (bs.drop 32)) (reqOf port src bs (bs.drop 32)).part := by
  simp [datagram, hanswers, Nat.not_le.2 hroom, hlen, hmax, hmagic, hversion, hop, hsid]

/-- An opening command that nothing of the last checks refuses joins the receive queue. -/
theorem letIn_of_opening {ch : Chip} {bs : List Byte} {q : Req} (hop : beAt bs 4 2 = 0x0101) (hflags : beAt bs 3 1 = 0) (hstatus : beAt bs 6 2 = 0)
    (hbit : bitAt (beAt bs 8 2) 0 = false) (hgate : ch.gate 0x0101 q = none) :
    ch.letIn bs q q.part = { ch with host := { ch.host with rx := ch.host.rx ++ [(0x0101, q)] } } := by
  have hknown : (opInfo 0x0101).isNone = false := by decide
  simp [letIn, hop, hflags, hstatus, hbit, hgate, hknown]

end Chip

theorem datagram_waits : Claims.datagramRow := by
  intro s port src bytes hanswers hroom hlen hmax hmagic hversion hop hsid hflags hstatus hbit hgate
  exact exec_of_effect rfl ((Chip.datagram_of_opening hanswers hroom hlen hmax hmagic hversion hop hsid).trans
    (Chip.letIn_of_opening hop hflags hstatus hbit hgate))

theorem datagram_dropped : Claims.datagramDrops := by
  intro s port src bytes
  refine ⟨fun hsilent => exec_of_effect (t := s.chip) rfl (Chip.datagram_of_silent hsilent),
    fun hanswers hfull => exec_of_effect rfl (Chip.datagram_of_full hanswers hfull),
    fun hanswers hroom hform => exec_of_effect rfl (Chip.datagram_of_formless hanswers hroom hform)⟩

theorem datagram_opened_or_counted : Claims.datagramSealed := by
  intro s port src bytes x hanswers hroom hlen hmax hmagic hversion hop hsession hlive hconfirmed
  refine exec_of_effect rfl ?_
  cases hopened : Config.gcmOpen x.h2d (x.ivH ++ zeros 4 ++ slice bytes 12 4) (bytes.take 32) (bytes.drop 32) <;>
    simp [-List.append_assoc, Chip.datagram, hanswers, Nat.not_le.2 hroom, hlen, Nat.not_lt.2 hmax, hmagic, hversion, hop, hsession, hlive, hconfirmed,
      hopened]

/-! ### The session commands and ATTEST (spec/12_partitions_security.md R361 to R365) -/

theorem sessionOpen_opens : Claims.sessionOpenRow := by
  intro s q htaken hroom x pub ch
  have hfits : decide (4 ≤ s.chip.sessionCount q.part) = false := decide_eq_false (Nat.not_le.2 hroom)
  split
  case isTrue hkey =>
    refine exec_of_taken htaken rfl ?_
    rw [sessionOpenCmd, firstFail_eq_none.2 ?clear]
    case clear =>
      simp only [List.forall_mem_cons]
      exact ⟨decide_eq_false (not_not.2 hkey), hfits, nofun⟩
    rfl
  case isFalse hkey =>
    refine exec_of_taken_refused htaken rfl ?_
    simp [sessionOpenCmd, firstFail_cons, hkey]

theorem sessionConfirm_confirms : Claims.sessionConfirmRow := by
  intro s q x htaken hsession hpending
  refine exec_of_taken htaken rfl ?_
  simp only [sessionConfirmCmd, hsession, hpending, Bool.false_eq_true, if_false]
  exact (apply_ite Except.ok _ _ _).symm

theorem sessionClose_closes : Claims.sessionCloseRow := fun _ _ htaken => exec_of_taken htaken rfl rfl

theorem sessionLapse_drops : Claims.sessionLapseRow := fun _ _ => rfl

theorem attest_reports : Claims.attestRow := by
  intro s q htaken p hsender hzero hp hvalid
  have hmay : (decide (leAt q.payload 32 1 ≠ q.part) && decide (q.part ≠ 0)) = false := by
    replace hsender : leAt q.payload 32 1 = q.part ∨ q.part = 0 := hsender
    rcases hsender with hown | hmgmt
    · simp [hown]
    · simp [hmgmt]
  have hreserved : (reserved q 33 3).1 = false := by simpa [reserved] using hzero
  have hknown : (decide (8 ≤ leAt q.payload 32 1) || !(s.chip.pt (leAt q.payload 32 1)).valid) = false := by
    rw [decide_eq_false (Nat.not_le.2 hp), show (s.chip.pt (leAt q.payload 32 1)).valid = true from hvalid]
    rfl
  refine exec_of_taken htaken rfl ?_
  dsimp only
  rw [firstFail_eq_none.2 ?clear]
  case clear =>
    simp only [List.forall_mem_cons]
    exact ⟨hmay, hreserved, hknown, nofun⟩

/-- Settles O32: datagrams by their checks in order, the session commands by theirs. -/
theorem sessionRows : Obligations.SessionRows :=
  ⟨datagram_waits, datagram_dropped, datagram_opened_or_counted, sessionOpen_opens, sessionConfirm_confirms, sessionClose_closes, sessionLapse_drops,
   attest_reports⟩

end Sys2Proof.Machine

/-! # Power (O49; the energy's coefficients and units are log entry 14's, the ties and instants of the loop log entry 31's) -/

namespace Sys2Proof.Machine

/-! ### The commands (spec/15_power_clocks_thermal.md R442, R446) -/

theorem pwrCap_caps : Claims.pwrCapRow := by
  intro s q htaken w
  refine ⟨fun hlow hhigh hzero => ?inRange, fun hlow hzero => ?clamped, fun hhigh => ?refused⟩
  case inRange =>
    have hreserved : (reserved q 2 2).1 = false := by simpa [reserved] using hzero
    refine exec_of_taken htaken rfl ((checked_ok _ ?clear).trans ?_)
    case clear =>
      simp only [List.forall_mem_cons]
      exact ⟨decide_eq_false (Nat.not_lt.2 hhigh), hreserved, nofun⟩
    rw [if_neg (Nat.not_lt.2 hlow), Nat.max_eq_right hlow]
  case clamped =>
    have hreserved : (reserved q 2 2).1 = false := by simpa [reserved] using hzero
    have hhigh : w ≤ 480 := (Nat.le_of_lt hlow).trans (by decide)
    refine exec_of_taken htaken rfl ((checked_ok _ ?clear).trans ?_)
    case clear =>
      simp only [List.forall_mem_cons]
      exact ⟨decide_eq_false (Nat.not_lt.2 hhigh), hreserved, nofun⟩
    rw [if_pos hlow, Nat.max_eq_left (Nat.le_of_lt hlow)]
  case refused => exact exec_of_taken_refused htaken rfl (checked_error _ (if_pos (decide_eq_true hhigh)))

theorem pwrQuery_reports : Claims.pwrQueryRow := fun _ _ htaken => exec_of_taken htaken rfl rfl

/-! ### Samples and boundaries (spec/15_power_clocks_thermal.md R426, R434, R438, R444) -/

theorem powerSample_counts : Claims.powerSampleRow := by
  intro s rails temps
  refine ⟨fun hon => ?_, fun hoff => ?_⟩
  · exact exec_of_module rfl (if_pos hon)
  · exact exec_of_module_idle rfl (if_neg hoff)

/-- Where no partition is to be parked or unparked, parking changes nothing. -/
theorem Chip.parking_of_none {ch : Chip} (k : Clock) (hpark : ch.parkChoice = none) (hunpark : ch.unparkChoice = none) : ch.parking k = ch := by
  rw [Chip.parking, hpark]
  dsimp only
  rw [hunpark]

/-- LOOP_BOUNDARY of a device that is READY is its boundary. -/
theorem loopBoundary_of_ready {s : State} (m : Nat) (hready : s.chip.ready = true) :
    exec (.loopBoundary m) s = .next (Claims.after s (s.chip.loopBoundary s.clk m)) :=
  exec_of_effect rfl (if_pos hready)

theorem loopBoundary_applies : Claims.loopBoundaryRow := by
  intro s m hready
  refine ⟨fun hold => exec_of_effect (t := s.chip) (loopBoundary_of_ready m hready) (if_pos hold), ?_⟩
  intro hnew len ch preg passed ch' ch'' ch''' hpark hunpark
  refine exec_of_effect (loopBoundary_of_ready m hready) ((if_neg (Nat.not_le.2 hnew)).trans ?_)
  exact congrArg (fun c => (List.range 4).foldl (fun c d => c.aimDie s.clk d) c) (Chip.parking_of_none s.clk hpark hunpark)

/-! ### Operating points (spec/15_power_clocks_thermal.md R428) -/

theorem oppSwitch_switches : Claims.oppSwitchRow := by
  intro s d x
  refine ⟨fun hwaits => exec_of_effect (t := s.chip) rfl ?_, fun o htarget hdone hat => exec_of_effect rfl ?_⟩
  · replace hwaits : (s.chip.die d).target = none ∨ (s.chip.die d).switchDone = true ∨ s.clk.localNs < (s.chip.die d).switchAt := hwaits
    dsimp only [Chip.oppSwitch]
    cases htarget : (s.chip.die d).target with
    | none => rfl
    | some o =>
      have hwaits : (s.chip.die d).switchDone = true ∨ s.clk.localNs < (s.chip.die d).switchAt := by simpa [htarget] using hwaits
      exact if_pos (by simpa using hwaits)
  · replace htarget : (s.chip.die d).target = some o := htarget
    have hgo : ¬ ((s.chip.die d).switchDone || decide (s.clk.localNs < (s.chip.die d).switchAt)) = true := by
      rw [show (s.chip.die d).switchDone = false from hdone, decide_eq_false (Nat.not_lt.2 hat)]
      exact Bool.false_ne_true
    dsimp only [Chip.oppSwitch]
    rw [htarget]
    exact if_neg hgo

theorem oppEnd_ends : Claims.oppEndRow := by
  intro s d x
  refine ⟨fun htarget hdone hat => exec_of_effect rfl (if_pos ?_), fun hnot => exec_of_effect (t := s.chip) rfl (if_neg ?_)⟩
  · rw [Option.isSome_iff_ne_none.2 htarget, show (s.chip.die d).switchDone = true from hdone, decide_eq_true hat]
    rfl
  · replace hnot : (s.chip.die d).target = none ∨ (s.chip.die d).switchDone = false ∨ s.clk.localNs < (s.chip.die d).endAt := hnot
    rcases hnot with htarget | hdone | hearly
    · simp [htarget]
    · simp [hdone]
    · simp [hearly]

/-- Settles O49: the commands by their checks, samples and boundaries by what lets them run, a switch and its end by the die's transition. -/
theorem powerRows : Obligations.PowerRows :=
  ⟨pwrCap_caps, pwrQuery_reports, powerSample_counts, loopBoundary_applies, oppSwitch_switches, oppEnd_ends⟩

end Sys2Proof.Machine

/-! # Telemetry, events, time and the host ports (O50; a period on the local count is log entry 56's, the event's layout of mask and groups log
entry 22's) -/

namespace Sys2Proof.Machine

/-! ### Telemetry (spec/15_power_clocks_thermal.md R447) -/

theorem telSet_sets : Claims.telSetRow := by
  intro s q htaken n m hn hm hmay
  have hpermitted : (decide (q.part ≠ 0) && (bitAt (beAt q.payload 4 4) 2 || bitAt (beAt q.payload 4 4) 5)) = false := by
    rcases hmay with hmgmt | ⟨htwo, hfive⟩
    · simp [hmgmt]
    · rw [show bitAt (beAt q.payload 4 4) 2 = false from htwo, show bitAt (beAt q.payload 4 4) 5 = false from hfive]
      exact Bool.and_false _
  refine exec_of_taken htaken rfl (checked_ok _ ?_)
  simp only [List.forall_mem_cons]
  exact ⟨hpermitted, decide_eq_false (Nat.not_lt.2 hn), decide_eq_false (Nat.not_le.2 hm), nofun⟩

theorem telemetry_reports : Claims.telemetryRow := by
  intro s p x
  refine ⟨?_, fun hnot => exec_of_module_idle rfl (if_neg ?_)⟩
  · intro hvalid hperiod hdue ch
    refine exec_of_module rfl (if_pos ?_)
    rw [show (s.chip.pt p).valid = true from hvalid, decide_eq_true (show (s.chip.pt p).telPeriod ≠ 0 from hperiod), decide_eq_true hdue]
    rfl
  · replace hnot : (s.chip.pt p).valid = false ∨ (s.chip.pt p).telPeriod = 0 ∨
      s.clk.localNs < (s.chip.pt p).telLast + (s.chip.pt p).telPeriod * 1000000 := hnot
    rcases hnot with hinvalid | hperiod | hearly
    · simp [hinvalid]
    · simp [hperiod]
    · simp [hearly]

/-! ### The ring (spec/13_host_protocol.md R399) -/

theorem evtAck_acknowledges : Claims.evtAckRow := by
  intro s q htaken n ids hzero hn hlen
  have hreserved : (reserved q 2 2).1 = false := by simpa [reserved] using hzero
  refine exec_of_taken htaken rfl (checked_ok _ ?_)
  simp only [List.forall_mem_cons]
  refine ⟨hreserved, ?_, nofun⟩
  rw [decide_eq_false (Nat.not_lt.2 hn), decide_eq_false (not_not.2 hlen)]
  rfl

theorem eventResend_resends : Claims.resendRow := by
  intro s p n
  refine ⟨fun hgone => exec_of_effect (t := s.chip) rfl ?_, fun e hfind => ⟨fun hnot => exec_of_effect (t := s.chip) rfl ?_, ?_⟩⟩
  · dsimp only
    rw [hgone]
  · dsimp only
    rw [hfind]
    refine if_pos ?_
    rcases hnot with hdue | hsends | hsends | hearly
    · simp [hdue]
    · simp [hsends]
    · simp [hsends]
    · simp [hearly]
  · intro hdue hsends hsent hat
    refine exec_of_effect rfl ?_
    dsimp only
    rw [hfind]
    refine if_neg ?_
    simp [hdue, Nat.not_le.2 hsends, hsent, hat]

/-! ### Time and the host ports (spec/13_host_protocol.md R374, R377) -/

theorem timeSync_steps_or_slews : Claims.timeSyncRow := by
  intro s port g r t
  refine ⟨fun hbehind => ?_, fun hnear => ?_⟩
  · exact congrArg (fun c => Host.Outcome.next { s with clk := c, chip := r.2 }) (if_pos hbehind)
  · exact congrArg (fun c => Host.Outcome.next { s with clk := c, chip := r.2 }) (if_neg (Nat.not_lt.2 hnear))

theorem timeSyncLoss_holds_over : Claims.timeLossRow := fun _ _ => ⟨rfl, rfl⟩

theorem hostPortLink_follows : Claims.linkChangeRow := fun _ _ => ⟨rfl, rfl⟩

/-- Settles O50: the commands by their checks, the periods and resends by their conditions, time and links by their cases. -/
theorem telemetryAndTimeRows : Obligations.TelemetryAndTimeRows :=
  ⟨telSet_sets, telemetry_reports, evtAck_acknowledges, eventResend_resends, timeSync_steps_or_slews, timeSyncLoss_holds_over, hostPortLink_follows⟩

end Sys2Proof.Machine

/-! # Jobs and the fabric's status (O56; the payload of JOB_END and its refusal are log entry 23's) -/

namespace Sys2Proof.Machine

theorem jobSetup_takes_slot : Claims.jobSetupRow := fun _ _ _ htaken hclear hfree => jobSetup_sets_up htaken hclear hfree

theorem jobEnd_ends : Claims.jobEndRow := by
  intro s q htaken job
  refine ⟨fun n j hslot hpart hzero hworks => jobEnd_of_own htaken hslot hpart hzero hworks, fun hnone => exec_of_taken_refused htaken rfl ?_⟩
  replace hnone : s.chip.jobSlot (beAt q.payload 0 2) = none := hnone
  dsimp only
  rw [hnone]

theorem fabStatus_reports : Claims.fabStatusRow := fun _ _ htaken => exec_of_taken htaken rfl rfl

/-- Settles O56: each command with its checks refuted, and JOB_END of no job with the check that holds. -/
theorem jobRows : Obligations.JobRows := ⟨jobSetup_takes_slot, jobEnd_ends, fabStatus_reports⟩

end Sys2Proof.Machine

/-! # Boot (O53; the order of the recovery causes is log entry 41's) -/

namespace Sys2Proof.Machine

/-- Boot whose rails came up runs steps 2 to 9 while RESET_N is high. -/
theorem bootSequence_runs {s : State} {r : BootResults} (hhigh : s.mod.resetN = true)
    (hruns : (s.mod.st = .sequencing ∧ r.railsOk = true) ∨ (s.mod.st = .on ∧ s.chip.boot.phase = 1)) :
    let c := s.chip.bootRest s.clk { s.mod with st := .on, rails := true } r
    exec (.bootSequence r) s = .next { s with mod := { s.mod with st := .on, rails := true, tripReported := s.mod.tripReported || c.sec.idOk }, chip := c } := by
  intro c
  refine exec_of_module rfl ?_
  obtain ⟨hst, hrails⟩ | ⟨hst, hphase⟩ := hruns
  · simp [bootSequence, hst, hrails, hhigh, c]
  · simp [bootSequence, hst, hphase, hhigh, c]

theorem bootSequence_boots : Claims.bootRow := by
  intro s r
  refine ⟨fun hst hrails => exec_of_module rfl (if_pos ?_), fun hruns hlow => bootSequence_held hlow hruns, fun hruns hhigh => bootSequence_runs hhigh hruns,
    fun hnot hpast => exec_of_module_idle rfl ?_⟩
  · simp [hst, hrails]
  · rcases hpast with hoff | hphase
    · simp [bootSequence, hnot, hoff]
    · simp [bootSequence, hnot, hphase]

theorem recoveryCause_by_finding : Claims.recoveryCause := by
  intro b
  refine ⟨fun hid => ?_, fun hid hpick => ?_, fun hid hpick hany => ?_, fun hid hpick hall => ?_⟩
  · simp [BootFind.cause, hid]
  · simp [BootFind.cause, hid, hpick]
  · simp only [BootFind.cause, hid, hany, Option.isNone_eq_false_iff.2 (Option.isSome_iff_ne_none.2 hpick)]
    rfl
  · simp only [BootFind.cause, hid, hall, Option.isNone_eq_false_iff.2 (Option.isSome_iff_ne_none.2 hpick)]
    rfl

theorem bootReady_readies : Claims.bootReadyRow := by
  intro s may
  exact ⟨fun hmay => exec_of_module rfl (if_pos hmay), fun hnot => exec_of_module_idle rfl (if_neg (Bool.eq_false_iff.1 hnot))⟩

/-- Settles O53: boot by the module's state and RESET_N, the cause by what boot found, READY by its condition. -/
theorem bootRows : Obligations.BootRows := ⟨bootSequence_boots, recoveryCause_by_finding, bootReady_readies⟩

end Sys2Proof.Machine

/-! # Checkpoints, dumps and flash images (O51; nonce and additional data are log entry 45's, free bytes entry 28's, the waits entry 73's, the
management area entry 36's, the order of an update's checks entry 44's) -/

namespace Sys2Proof.Machine

/-! ### CKPT_WRITE and CKPT_READ (spec/16_faults_recovery.md R480) -/

/-- The checks of a checkpoint's fields find nothing in whole pages of at most 1 TiB. -/
theorem ckptForm_clear {q : Req} (hzero : Claims.Zero q 4 4) (hdva : (ckptReq q.payload).dva % 65536 = 0) (hlen : (ckptReq q.payload).len % 65536 = 0)
    (hmax : (ckptReq q.payload).len ≤ 2 ^ 40) : Claims.Clear ((ckptReq q.payload).form q) := by
  simp only [Claims.Clear, CkptReq.form, List.forall_mem_cons]
  exact ⟨by simpa [reserved] using hzero, decide_eq_false (not_not.2 hdva), decide_eq_false (not_not.2 hlen), decide_eq_false (Nat.not_lt.2 hmax), nofun⟩

/-- Two lists of checks that find nothing find nothing together. -/
theorem clear_append {l m : List (Bool × Refuse)} (hl : Claims.Clear l) (hm : Claims.Clear m) : Claims.Clear (l ++ m) := fun x hx =>
  (List.mem_append.1 hx).elim (hl x) (hm x)

theorem ckpt_accepted : Claims.ckptRows := by
  intro s q hworks c hzero hdva hlen hmax hkey
  have hkeyed : (s.chip.pt q.part).ckptKey.isNone = false := Option.isNone_eq_false_iff.2 (Option.isSome_iff_ne_none.2 hkey)
  have hfull := Chip.worksFull_false hworks
  refine ⟨fun htaken hmay hhold hwear => exec_of_taken htaken rfl (checked_ok _ (clear_append ?_ ?_)),
    fun htaken hmay hstored => exec_of_taken htaken rfl (checked_ok _ (clear_append ?_ ?_))⟩
  · exact List.forall_mem_cons.2 ⟨hmay, ckptForm_clear hzero hdva hlen hmax⟩
  · simp only [Claims.Clear, List.forall_mem_cons]
    exact ⟨by rw [hkeyed, hhold]; rfl, decide_eq_false (Nat.not_le.2 hwear), hfull, nofun⟩
  · exact List.forall_mem_cons.2 ⟨hmay, List.forall_mem_cons.2
      ⟨Option.isNone_eq_false_iff.2 (Option.isSome_iff_ne_none.2 hstored), ckptForm_clear hzero hdva hlen hmax⟩⟩
  · simp only [Claims.Clear, List.forall_mem_cons]
    exact ⟨hkeyed, hfull, nofun⟩

/-! ### CKPT_TRANSFER_COMPLETE -/

/-- A checkpoint's transfer that an earlier command or its range's stack holds back waits. -/
theorem ckptTransfer_waits {s : State} {id i dva len : Nat} {w : Work} (hwork : s.chip.work? id = some w)
    (hkind : w.kind = .ckptWrite i dva len ∨ w.kind = .ckptRead i dva len) (hheld : s.chip.workEarlier w = true ∨ s.chip.rangeServes w.part dva len = false) :
    exec (.ckptTransferComplete id) s = .next s := by
  refine exec_of_effect (t := s.chip) rfl ?_
  dsimp only
  rw [hwork]
  refine if_pos ?_
  rcases hkind with hkind | hkind
  · rcases hheld with hearly | hshut
    · rw [hearly, Bool.true_or]
    · simp [hkind, WorkKind.readRanges, WorkKind.writeRanges, hshut]
  · rcases hheld with hearly | hshut
    · rw [hearly, Bool.true_or]
    · simp [hkind, WorkKind.readRanges, WorkKind.writeRanges, hshut]

/-- A checkpoint's write whose turn has come is written. -/
theorem ckptTransfer_writes {s : State} {id i dva len : Nat} {w : Work} (hwork : s.chip.work? id = some w) (hkind : w.kind = .ckptWrite i dva len)
    (hturn : s.chip.workEarlier w = false) (hserves : s.chip.rangeServes w.part dva len = true) :
    exec (.ckptTransferComplete id) s = .next (Claims.after s (s.chip.ckptWritten s.clk w i dva len)) := by
  refine exec_of_effect rfl ?_
  simp [hwork, hkind, WorkKind.readRanges, WorkKind.writeRanges, hturn, hserves]

/-- A checkpoint's read whose turn has come is read back. -/
theorem ckptTransfer_reads {s : State} {id i dva len : Nat} {w : Work} (hwork : s.chip.work? id = some w) (hkind : w.kind = .ckptRead i dva len)
    (hturn : s.chip.workEarlier w = false) (hserves : s.chip.rangeServes w.part dva len = true) :
    exec (.ckptTransferComplete id) s = .next (Claims.after s (s.chip.ckptReadBack s.clk w i dva len)) := by
  refine exec_of_effect rfl ?_
  simp [hwork, hkind, WorkKind.readRanges, WorkKind.writeRanges, hturn, hserves]

theorem ckptTransfer_completes : Claims.ckptDoneRow := by
  intro s id w hwork
  refine ⟨fun i dva len hkind hheld => ckptTransfer_waits hwork hkind hheld, fun hturn => ⟨?_, ?_⟩⟩
  · intro i dva len key plain hkind hserves hkey
    refine ⟨fun hworn => exec_of_effect (ckptTransfer_writes hwork hkind hturn hserves) ?_, ?_⟩
    · rw [Chip.ckptWritten, hkey]
      exact if_pos hworn
    · intro hwear hread hlost nonce x ch
      refine exec_of_effect (ckptTransfer_writes hwork hkind hturn hserves) ?_
      have hfound : (s.chip.firstLost w.part dva len false).isSome = false := by rw [hlost]; rfl
      rw [Chip.ckptWritten, hkey]
      dsimp only
      rw [if_neg (Nat.not_le.2 hwear), hread, hfound]
  · intro i dva len key x hkind hserves hstored hkey hgood hlen
    refine exec_of_effect (ckptTransfer_reads hwork hkind hturn hserves) ?_
    have hwhole : (x.good && decide (x.len = len)) = true := by rw [hgood, decide_eq_true hlen]; rfl
    rw [Chip.ckptReadBack, hstored, hkey]
    cases hopened : Config.gcmOpen key (x.sealed.take 12) (ckptAad w.part i) (x.sealed.drop 12) <;> simp only [if_pos hwhole, hopened]

/-! ### DUMP_READ (spec/16_faults_recovery.md R480) -/

theorem dumpRead_reads : Claims.dumpReadRow := by
  intro s q htaken b off n x hzero hmax
  have hreserved : (reserved q 1 3).1 = false := by simpa [reserved] using hzero
  refine ⟨fun harea hpart hend => ?device, fun harea hend hmay hwhole => ?partition⟩
  case device =>
    replace harea : beAt q.payload 0 1 = 1 := harea
    refine exec_of_taken htaken rfl ?_
    dsimp only
    rw [checked_ok]
    case h =>
      simp only [List.forall_mem_cons, harea, if_true]
      exact ⟨by simp [hpart], rfl, rfl, hreserved, decide_eq_false (Nat.not_lt.2 hend), decide_eq_false (Nat.not_lt.2 hmax), rfl, nofun⟩
    rw [harea, if_pos rfl]
  case partition =>
    replace harea : beAt q.payload 0 1 = 0 := harea
    have hwithin : min (beAt q.payload 8 4) ((s.chip.pt q.part).dumpLen * 65536) = beAt q.payload 8 4 :=
      Nat.min_eq_left ((Nat.le_add_left _ _).trans hend)
    refine exec_of_taken htaken rfl ?_
    dsimp only
    rw [checked_ok]
    case h =>
      simp only [List.forall_mem_cons, harea, zero_ne_one, if_false]
      refine ⟨rfl, ?_, rfl, hreserved, decide_eq_false (Nat.not_lt.2 hend), decide_eq_false (Nat.not_lt.2 hmax), ?_, nofun⟩
      · exact (congrArg (fun m => (s.chip.pt q.part).rangeBad ((s.chip.pt q.part).dumpDva + beAt q.payload 4 4) m false) hwithin).trans hmay
      · exact (congrArg Option.isSome hwhole)
    rw [harea, if_neg zero_ne_one]

/-! ### FLASH_UPDATE and the writes that end (spec/17_boot_configuration.md R490, R491) -/

/-- The checks of a chunk, with the one for room that only the image's last chunk takes. -/
theorem updateChecks_staged {ch : Chip} {q : Req} {last : Bool} (hclear : Claims.Clear (updateChecks q ch)) (hroom : (last && (ch.worksFull q).1) = false) :
    Claims.Clear (updateChecks q ch ++ [(last && (ch.worksFull q).1, (ch.worksFull q).2)]) :=
  clear_append hclear (List.forall_mem_singleton.2 hroom)

theorem flashUpdate_stages : Claims.flashUpdateRow := by
  intro s q htaken hclear b buf total
  refine ⟨fun hmore => exec_of_taken htaken rfl ?_, fun hlast hworks => exec_of_taken htaken rfl ?_⟩
  · replace hmore : decide (((if beAt q.payload 4 4 = 0 then [] else s.chip.flash.updBuf) ++ q.payload.drop 16).length = beAt q.payload 8 4) = false :=
      decide_eq_false hmore
    dsimp only
    rw [hmore, checked_ok _ (updateChecks_staged hclear (Bool.false_and _))]
    rfl
  · replace hlast : decide (((if beAt q.payload 4 4 = 0 then [] else s.chip.flash.updBuf) ++ q.payload.drop 16).length = beAt q.payload 8 4) = true :=
      decide_eq_true hlast
    dsimp only
    rw [hlast, checked_ok _ (updateChecks_staged hclear ((Bool.true_and _).trans (Chip.worksFull_false hworks)))]
    exact congrArg Except.ok (Chip.acceptReply_eq_taken q 0x0905 _ [] rfl)

theorem flashWrite_completes : Claims.flashDoneRow := by
  intro s id w type hwork hkind
  refine exec_of_effect rfl ?_
  dsimp only
  rw [hwork]
  dsimp only
  rw [hkind]
  dsimp only [Chip.imageDone]
  cases hkey : recKey type s.chip.boot.owner (if s.chip.sec.idOk then some s.chip.sec.idPub else none) with
  | none => rfl
  | some key =>
    cases hsigned : recSigned key s.chip.flash.updBuf with
    | false => simp only [hsigned, Bool.not_false, if_true]
    | true =>
      cases recGood type s.chip.boot.owner (if s.chip.sec.idOk then some s.chip.sec.idPub else none) s.chip.flash.updBuf <;>
        simp only [hsigned, Bool.not_true, Bool.not_false, Bool.true_eq_false, Bool.false_eq_true, if_true, if_false]

theorem repairRecord_written : Claims.repairWriteRow := by
  intro s
  refine ⟨fun hnot => exec_of_effect (t := s.chip) rfl (if_neg (Bool.eq_false_iff.1 hnot)), fun hready hrepair hretire => exec_of_effect rfl ((if_pos hready).trans ?_)⟩
  simp only [Chip.writeOwnRecords, hrepair, hretire, Chip.writeOwn]
  rfl

/-- Settles O51: each command with its checks refuted, each completion by what it finds. -/
theorem checkpointAndFlashUpdateRows : Obligations.CheckpointAndFlashUpdateRows :=
  ⟨ckpt_accepted, ckptTransfer_completes, dumpRead_reads, flashUpdate_stages, flashWrite_completes, repairRecord_written⟩

end Sys2Proof.Machine

/-! # The steps of the ladder, substitution, reintegration and RESET (O57; what a reserve starts with is log entries 11 and 35's, the lost word that
escalates entry 77's) -/

namespace Sys2Proof.Machine

/-! ### The rows of the steps (spec/16_faults_recovery.md R451, R452, R461) -/

/-- With none to start, or the device not ready, and nothing to detect nothing happens. -/
theorem stepRow_idle {u : RecUnit} {cause : Nat} {d : Bool} {act : Clock → Chip → FaultRec → Chip} {k : Clock} {ch : Chip}
    (hnot : ch.ready = false ∨ ch.takeFault u cause = none) (hdetects : d = false) : stepRow u cause d act k ch = ch := by
  rcases hnot with hready | hnone
  · exact stepRow_unready u cause d act k hready
  · rw [hdetects]
    exact stepRow_none act k hnone

theorem resets_start_or_idle : Claims.resetRows := by
  intro s f pkg c
  refine ⟨fun p ctx cause ⟨hready, htake⟩ => ?_, fun p ctx cause hnot => ?_, fun e cause ⟨hready, htake⟩ => ?_, fun e cause hnot hcause => ?_,
    fun p cause ⟨hready, htake⟩ => ?_, fun p cause hnot => ?_⟩
  · exact exec_of_effect rfl (stepRow_starts _ s.clk hready htake)
  · exact exec_of_effect (t := s.chip) rfl (stepRow_idle hnot rfl)
  · exact exec_of_effect rfl (stepRow_starts _ s.clk hready htake)
  · refine exec_of_effect (t := s.chip) rfl (stepRow_idle hnot ?_)
    rcases hcause with hcause | hhigh
    · simp [hcause]
    · simp [Nat.not_lt.2 hhigh]
  · exact exec_of_effect rfl (stepRow_starts _ s.clk hready htake)
  · exact exec_of_effect (t := s.chip) rfl (stepRow_idle hnot rfl)

theorem steps_start_or_idle : Claims.stepRows := by
  intro s f pkg c
  refine ⟨fun n cause ⟨hready, htake⟩ => ?_, fun n cause hnot hcause => ?_, fun r cause ⟨hready, htake⟩ => ?_, fun r cause hnot hcause => ?_,
    fun d cause sr pats bad ⟨hready, htake⟩ => ?_, fun d cause sr pats bad hnot hcause => ?_⟩
  · exact exec_of_effect rfl (stepRow_starts _ s.clk hready htake)
  · refine exec_of_effect (t := s.chip) rfl (stepRow_idle hnot ?_)
    rcases hcause with hcause | hhigh | hbeats
    · simp [hcause]
    · simp [Nat.not_lt.2 hhigh]
    · simp [hbeats]
  · exact exec_of_effect rfl (stepRow_starts _ s.clk hready htake)
  · refine exec_of_effect (t := s.chip) rfl (stepRow_idle hnot ?_)
    rcases hcause with hcause | hhigh
    · simp [hcause]
    · simp [Nat.not_lt.2 hhigh]
  · exact exec_of_effect rfl (stepRow_starts _ s.clk hready htake)
  · refine exec_of_effect (t := s.chip) rfl (stepRow_idle hnot ?_)
    rcases hcause with hcause | hhigh
    · simp [hcause]
    · simp [Nat.not_lt.2 hhigh]

/-- A row that may detect its cause does, and its step begins. -/
theorem stepRow_of_detecting {u : RecUnit} {cause : Nat} {d : Bool} {act : Clock → Chip → FaultRec → Chip} {k : Clock} {ch c : Chip} {f : FaultRec} {pkg : Bool}
    (hdetects : d = true) (hready : ch.ready = true) (hnone : ch.takeFault u cause = none) (hfault : (ch.fault k cause u 0).takeFault u cause = some (f, pkg, c)) :
    stepRow u cause d act k ch = act k (c.beginStep k f pkg) f := by
  rw [hdetects]
  exact stepRow_detects k hready hnone hfault

theorem rows_detect : Claims.detections := by
  intro s hready
  refine ⟨fun e f pkg c he hnone hfault => ?_, fun n f pkg c hn hbeats hnone hfault => ?_, fun r f pkg c hr hnone hfault => ?_,
    fun d f pkg c sr pats bad hd hnone hfault => ?_⟩
  · exact exec_of_effect rfl (stepRow_of_detecting (by simp [he]) hready hnone hfault)
  · exact exec_of_effect rfl (stepRow_of_detecting (by simp [hn, hbeats]) hready hnone hfault)
  · exact exec_of_effect rfl (stepRow_of_detecting (by simp [hr]) hready hnone hfault)
  · exact exec_of_effect rfl (stepRow_of_detecting (by simp [hd]) hready hnone hfault)

/-! ### Substitution (R462, R464; spec/01_architecture.md R24 to R26) -/

theorem replaceCluster_substitutes : Claims.substitution := by
  intro ch k c f l hlcid h r mir lost
  refine ⟨fun hnone => ?_, fun n hfree hreserve => ⟨fun hbad => ?_, fun hwhole hkept => ?_⟩⟩
  · have hsearch : (if (h.rg r).inUse then none else h.reserveOf r) = none := by
      rcases hnone with huse | hreserve
      · rw [if_pos huse]
      · rw [hreserve, ite_self]
    dsimp only [Chip.replaceCluster]
    rw [hlcid]
    dsimp only
    rw [hsearch]
  · have hsearch : (if (h.rg r).inUse then none else h.reserveOf r) = some n := by rw [hfree, hreserve]; rfl
    dsimp only [Chip.replaceCluster]
    rw [hlcid]
    dsimp only
    rw [hsearch]
    exact if_pos (Bool.or_eq_true_iff.2 hbad)
  · have hsearch : (if (h.rg r).inUse then none else h.reserveOf r) = some n := by rw [hfree, hreserve]; rfl
    dsimp only [Chip.replaceCluster]
    rw [hlcid]
    dsimp only
    rw [hsearch]
    exact if_neg (Bool.eq_false_iff.1 (Bool.or_eq_false_iff.2 ⟨hwhole, hkept⟩))

theorem useReserve_takes_over : Claims.reserveRule := by
  intro ch k l c
  refine ⟨fun hnone => by rw [Chip.useReserve, hnone], ?_⟩
  intro n hreserve h
  refine ⟨fun howned => ?_, fun howned => ?_⟩
  · rw [Chip.useReserve, hreserve]
    exact if_pos howned
  · rw [Chip.useReserve, hreserve]
    exact if_neg (Bool.eq_false_iff.1 howned)

/-- A cluster that differs from another in its scratchpad alone: its words, their flags and their errors. -/
def Cluster.SameButWords (c d : Cluster) : Prop :=
  ∃ spd written subst spdErr, c = { d with spd := spd, written := written, subst := subst, spdErr := spdErr }

theorem Cluster.writePhys_sameButWords (sub : Nat) (n : Nat) : ∀ (c d : Cluster) (a : Nat) (bytes : List Byte), c.SameButWords d →
    (c.writePhys sub a bytes n).SameButWords d := by
  induction n with
  | zero => exact fun c d a bytes h => h
  | succ n ih =>
    intro c d a bytes h
    rw [Cluster.writePhys]
    split
    · exact h
    · obtain ⟨spd, written, subst, spdErr, rfl⟩ := h
      exact ih _ _ _ _ ⟨_, _, _, _, rfl⟩

/-- The words that an image carries are written and nothing else changes. -/
theorem Cluster.carry_sameButWords (carry : List (Nat × List Byte)) (c : Cluster) :
    (carry.foldl (fun y b => y.writePhys 0 b.1 b.2 (b.2.length + 1)) c).SameButWords c :=
  List.foldlRecOn (motive := fun y : Cluster => y.SameButWords c) carry _ ⟨_, _, _, _, rfl⟩ fun _ h _ _ => Cluster.writePhys_sameButWords _ _ _ _ _ _ h

theorem standIn_stands_in : Claims.standsIn := by
  intro ch k old new mir t
  cases hcurrent : mir.current with
  | none =>
    have ht : t = ch.standIn k old new mir := rfl
    rw [Chip.standIn, hcurrent] at ht
    rw [ht]
    exact ⟨⟨rfl, rfl, rfl, rfl, rfl, rfl, rfl, rfl, rfl, rfl, rfl⟩, fun _ => ⟨rfl, rfl, rfl, rfl, rfl, rfl⟩, nofun⟩
  | some img =>
    have ht : t = ch.standIn k old new mir := rfl
    rw [Chip.standIn, hcurrent] at ht
    dsimp only at ht
    obtain ⟨spd, written, subst, spdErr, hcarry⟩ := Cluster.carry_sameButWords img.carry _
    rw [ht, hcarry]
    refine ⟨⟨rfl, rfl, rfl, rfl, rfl, rfl, rfl, rfl, rfl, rfl, rfl⟩, nofun, ?_⟩
    rintro _ ⟨⟩
    exact ⟨rfl, rfl, rfl, rfl, rfl, rfl, rfl, rfl, rfl⟩

/-- A cluster with no fill or copy in progress is fenced alone. -/
theorem Chip.fence_cl {ch : Chip} (k : Clock) {c : Nat} (hfills : (ch.works.filter fun w => decide (w.kind = .fillCopy c)) = []) :
    (ch.fence k c).cl c =
      { ch.cl c with svc := .fenced, epoch := (ch.cl c).epoch + 1, capture := none, opBusy := none, staged := [], acted := 0, yielding := false } := by
  dsimp only [Chip.fence]
  rw [hfills]
  exact Chip.modCl_cl_of_ne_default ch c fun h => nomatch congrArg Cluster.svc h

theorem fence_leaves : Claims.fencedCluster := by
  intro ch k c hfills
  dsimp only
  rw [Chip.fence_cl k hfills]
  exact ⟨rfl, rfl, rfl, rfl, rfl, rfl, rfl, rfl, rfl⟩

theorem restore_restores : Claims.restoredCluster := by
  intro c old img f mixed t
  exact ⟨rfl, rfl, rfl, rfl, rfl, rfl, rfl, rfl, rfl, rfl, rfl, rfl, rfl, rfl, rfl, rfl⟩

/-! ### Reintegration (R478) -/

theorem reintegration_returns : Claims.reintegrationRow := by
  intro s c since n hsvc
  refine ⟨fun hn b => exec_of_effect (t := s.chip) rfl ?_, ?_, ?_⟩
  · simp [Chip.reintegrate, hsvc, hn]
  · intro hn hrows h
    refine exec_of_effect rfl ?_
    simp [Chip.reintegrate, hsvc, Nat.not_lt.2 hn, hrows]
    rfl
  · intro hn pass hfails h
    have hnot : (pass && !(s.chip.cl c).rowsPending) = false := by
      rcases hfails with hpass | hrows
      · rw [hpass, Bool.false_and]
      · rw [hrows, Bool.not_true, Bool.and_false]
    have hfailed : s.chip.reintegrate s.clk c pass = match (h.cl c).lcid with | some l => h.useReserve s.clk l c | none => h := by
      simp only [Chip.reintegrate, hsvc, if_neg (Nat.not_lt.2 hn), hnot, Bool.false_eq_true, if_false]
      rfl
    refine ⟨fun hnone => exec_of_effect rfl (hfailed.trans ?_), fun l hlcid => exec_of_effect rfl (hfailed.trans ?_)⟩
    · rw [hnone]
    · rw [hlcid]

/-! ### RESET (R480) -/

theorem reset_queues_or_refuses : Claims.resetRow := by
  intro s q htaken
  refine ⟨fun u hunit hzero hzero' hmode hworks => reset_of_unit htaken hunit hzero hzero' hmode hworks, fun hkind => exec_of_taken_refused htaken rfl ?_⟩
  have hunit : resetUnit s.chip q = .error (.badField, some 0) := by
    obtain ⟨m, hm⟩ : ∃ m, beAt q.payload 0 1 = m + 8 := ⟨_, (Nat.sub_add_cancel hkind).symm⟩
    unfold resetUnit
    rw [hm]
    rfl
  dsimp only
  rw [hunit]
  rfl

theorem resetUnit_by_kind : Claims.resetKinds := by
  intro ch q
  dsimp only
  refine ⟨fun hkind => ?_, fun hkind hid => ?_, fun hkind hid => ?_, fun hkind => ?_, fun hkind hmgmt => ?_, fun hkind hmgmt hid => ?_, fun hkind hmgmt hid => ?_,
    fun hkind hmgmt hid => ?_⟩
  · simp [resetUnit, hkind]
  · cases hserves : ch.pcid (beAt q.payload 2 2) <;> simp [resetUnit, hkind, hid, hserves]
  · simp [resetUnit, hkind, hid]
  · simp [resetUnit, hkind]
  · rcases hkind with hkind | hkind | hkind
    · simp [resetUnit, hkind, hmgmt]
    · simp [resetUnit, hkind, hmgmt]
    · simp [resetUnit, hkind, hmgmt]
  · simp [resetUnit, hkind, hmgmt, hid]
  · simp [resetUnit, hkind, hmgmt, hid]
  · simp [resetUnit, hkind, hmgmt, Nat.lt_one_iff.1 hid]

/-- Settles O57: a step by whether its fault heads a free queue, the reserve and the fence by what their clusters read, RESET by its kind. -/
theorem recoveryStepRows : Obligations.RecoveryStepRows :=
  ⟨resets_start_or_idle, steps_start_or_idle, rows_detect, replaceCluster_substitutes, useReserve_takes_over, standIn_stands_in, fence_leaves, restore_restores,
   reintegration_returns, reset_queues_or_refuses, resetUnit_by_kind⟩

end Sys2Proof.Machine

/-! # Package reset, watchdogs and the tally (O58; the suspects' round is log entry 34's, the end of a step of cause 0 entry 35's; an empty wait
table at a suspect's turn and a watch that begins again are the model's own) -/

namespace Sys2Proof.Machine

/-! ### Package reset (spec/16_faults_recovery.md R452) -/

/-- A command of clocks, pins and block whose effect r is known. -/
theorem exec_of_all {s : State} {i : Instr} {r : Clock × ModulePins × Chip} {k : Clock} {m : ModulePins} {ch : Chip}
    (hexec : exec i s = .next { s with clk := r.1, mod := r.2.1, chip := r.2.2 }) (h : r = (k, m, ch)) :
    exec i s = .next { s with clk := k, mod := m, chip := ch } := by
  rw [hexec, h]

theorem packageReset_resets : Claims.packageRow := by
  intro s cause
  refine ⟨fun hoff => exec_of_all rfl (if_pos hoff), fun f pkg c hon htake => exec_of_all rfl ?_, fun hon hnone hcause => exec_of_all rfl ?_,
    fun hnone hcause => exec_of_all rfl ?_⟩
  · dsimp only
    rw [if_neg (not_not.2 hon), htake]
  · dsimp only
    rw [if_neg (not_not.2 hon), hnone]
    exact if_pos hcause
  · dsimp only
    rw [hnone]
    exact (congrArg _ (if_neg hcause)).trans (ite_self _)

theorem packageReset_leaves : Claims.packageLeaves := by
  intro ch k cause d t
  exact ⟨rfl, rfl, rfl, rfl, rfl, rfl, rfl, rfl, rfl, rfl, rfl, rfl, rfl, rfl, rfl, rfl, rfl, rfl, rfl, rfl, rfl, rfl, rfl⟩

/-! ### The end of a step, and the watchdogs (R451, R453, R454) -/

theorem stepComplete_ends : Claims.stepCompleteRow := by
  intro s id
  refine ⟨fun hnone => exec_of_effect (t := s.chip) rfl ?_, fun x hfind hup => ?_⟩
  · dsimp only [Chip.stepDone]
    rw [hnone]
  · have hup : ¬ (!(s.chip.ready || s.chip.inRecoveryMode)) = true := by rw [Bool.or_eq_true_iff.2 hup]; exact Bool.false_ne_true
    intro ch ch' ch''
    refine exec_of_effect rfl ?_
    dsimp only [Chip.stepDone]
    rw [hfind]
    exact if_neg hup

theorem stepWatchdog_expires : Claims.stepWatchdogRow := by
  intro s id x hfind w
  refine ⟨fun hearly => exec_of_module_idle rfl ?_, fun hlate hunit => exec_of_module rfl ?_, fun hlate hunit => exec_of_module rfl ?_⟩
  · dsimp only
    rw [hfind]
    exact if_pos hearly
  · dsimp only
    rw [hfind]
    exact (if_neg (Nat.not_lt.2 hlate)).trans (if_neg hunit)
  · dsimp only
    rw [hfind]
    exact (if_neg (Nat.not_lt.2 hlate)).trans (if_pos hunit)

theorem mgmtStart_times_out : Claims.mgmtTimeoutRow := by
  intro s
  refine ⟨fun t hreset hlate hnot => exec_of_module rfl ?_, fun t hreset hwaits => exec_of_module_idle rfl ?_, fun hnone => exec_of_module_idle rfl ?_⟩
  · dsimp only
    rw [hreset]
    refine if_pos ?_
    rw [decide_eq_true hlate, hnot]
    rfl
  · dsimp only
    rw [hreset]
    refine if_neg ?_
    rcases hwaits with hearly | hstarted
    · simp [Nat.not_le.2 hearly]
    · simp [hstarted]
  · dsimp only
    rw [hnone]

/-! ### The tally (R469, R470) -/

theorem tallyScan_scans : Claims.tallyRow := by
  intro s t twice
  refine ⟨fun hnot => exec_of_effect (t := s.chip) rfl (if_pos ?_), fun hready hdue hquiet => ?_⟩
  · rcases hnot with hready | hearly
    · simp [hready]
    · simp [hearly]
  · intro ch
    have hgo : ¬ (!s.chip.ready || decide (s.clk.localNs < s.chip.rcv.lastScan + 100000)) = true := by simp [hready, Nat.not_lt.2 hdue]
    have hscan (hung : List Party) (h : (if twice then (t.filter fun r => !r.live).map (·.party) else []) = hung) :
        exec .tallyScan s = .next (Claims.after s (if hung.isEmpty then ch else ch.beginRound s.clk hung)) := by
      refine exec_of_effect rfl ((if_neg hgo).trans ?_)
      rw [← h]
      exact if_pos (List.isEmpty_iff.2 hquiet)
    refine ⟨fun honce => hscan [] (if_neg (Bool.eq_false_iff.1 honce)), fun htwice => ?_⟩
    have hsome : ((t.filter fun r => !r.live).map (·.party)).isEmpty = false := by
      obtain ⟨r, hr, hhung⟩ := List.any_eq_true.1 htwice
      obtain ⟨hdead, -⟩ := Bool.and_eq_true_iff.1 hhung
      have hmem : r.party ∈ (t.filter fun r => !r.live).map (·.party) := List.mem_map_of_mem (List.mem_filter.2 ⟨hr, hdead⟩)
      exact Bool.eq_false_iff.2 fun hempty => List.ne_nil_of_mem hmem (List.isEmpty_iff.1 hempty)
    rw [hscan _ (if_pos htwice), hsome]
    rfl

theorem suspect_replays : Claims.suspectRow := by
  intro s p ctx turn
  refine ⟨fun hnone => exec_of_effect (t := s.chip) rfl ?_, fun p' ctx' x hturn hother => exec_of_effect (t := s.chip) rfl ?_, fun hturn => ?_⟩
  · replace hnone : (s.chip.rcv.suspects.find? fun x => x.2.2.waits) = none := hnone
    dsimp only [Chip.suspectReplay]
    rw [hnone]
  · replace hturn : (s.chip.rcv.suspects.find? fun x => x.2.2.waits) = some (p', ctx', x) := hturn
    dsimp only [Chip.suspectReplay]
    rw [hturn]
    cases x with
    | todo =>
      refine if_pos ?_
      rcases hother with hp | hctx | htodo
      · simp [hp]
      · simp [hctx]
      · exact absurd rfl htodo
    | replaying _ => rfl
    | held => rfl
    | named => rfl
  · intro ch ch'
    replace hturn : (s.chip.rcv.suspects.find? fun x => x.2.2.waits) = some (p, ctx, .todo) := hturn
    refine exec_of_effect rfl ?_
    dsimp only [Chip.suspectReplay]
    rw [hturn]
    exact if_neg (by simp)

/-! ### The no-progress watchdog (R471) -/

theorem noProgress_names : Claims.noProgressRow := by
  intro s p ctx
  refine ⟨fun hnone => exec_of_effect (t := s.chip) rfl ?_, ?_⟩
  · dsimp only [Chip.noProgress]
    rw [hnone]
  · intro y hctx idle
    refine ⟨fun hquiet => exec_of_effect (t := s.chip) rfl ?_, fun hvalid hpaused hheld hdue hbusy => exec_of_effect rfl ?_⟩
    · dsimp only [Chip.noProgress]
      rw [hctx]
      refine if_pos ?_
      rcases hquiet with hinvalid | hpaused | hheld | hearly | hidle
      · simp [hinvalid]
      · simp [hpaused]
      · simp [hheld]
      · simp [hearly]
      · rw [show ((s.chip.startedSlots p ctx).isEmpty && (s.chip.startedTasks p ctx).isEmpty) = true from hidle, Bool.or_true]
    · dsimp only [Chip.noProgress]
      rw [hctx]
      refine if_neg ?_
      rw [hvalid, hpaused, hheld, decide_eq_false (Nat.not_lt.2 hdue),
        show ((s.chip.startedSlots p ctx).isEmpty && (s.chip.startedTasks p ctx).isEmpty) = false from hbusy]
      exact Bool.false_ne_true

/-- Settles O58: a reset by its fault, a step's end and the watchdogs by what they find, the tally by what its two tables tell. -/
theorem packageAndHangRows : Obligations.PackageAndHangRows :=
  ⟨packageReset_resets, packageReset_leaves, stepComplete_ends, stepWatchdog_expires, mgmtStart_times_out, tallyScan_scans, suspect_replays, noProgress_names⟩

end Sys2Proof.Machine

/-! # Port bring-up and the link layer (O54; credit for both channels in any control block and the hello's 5 ms are log entry 37's) -/

namespace Sys2Proof.Machine

/-! ### Bring-up (spec/14_fabric.md R402, R403) -/

theorem portBringUp_steps : Claims.bringUpRow := by
  intro s p m x
  refine ⟨fun hst => exec_of_effect rfl ?training, ?measuring, fun hst hlate => exec_of_effect rfl ?late, fun hst hearly => exec_of_effect (t := s.chip) rfl ?early,
    fun htraining hmeasuring hhello => exec_of_effect (t := s.chip) rfl ?other⟩
  case training =>
    replace hst : (s.chip.prt p).st = .training := hst
    dsimp only [Chip.bringUp]
    rw [hst]
    rfl
  case measuring =>
    intro hst y
    replace hst : (s.chip.prt p).st = .measuring := hst
    refine exec_of_effect rfl ?_
    dsimp only [Chip.bringUp]
    rw [hst]
    dsimp only [Chip.measured]
    cases linkBad m <;> rfl
  case late =>
    replace hst : (s.chip.prt p).st = .hello := hst
    dsimp only [Chip.bringUp]
    rw [hst]
    exact if_pos hlate
  case early =>
    replace hst : (s.chip.prt p).st = .hello := hst
    dsimp only [Chip.bringUp]
    rw [hst]
    exact if_neg (Nat.not_le.2 hearly)
  case other =>
    replace htraining : (s.chip.prt p).st ≠ .training := htraining
    replace hmeasuring : (s.chip.prt p).st ≠ .measuring := hmeasuring
    replace hhello : (s.chip.prt p).st ≠ .hello := hhello
    dsimp only [Chip.bringUp]
    cases hst : (s.chip.prt p).st with
    | training => exact absurd hst htraining
    | measuring => exact absurd hst hmeasuring
    | hello => exact absurd hst hhello
    | disabled => rfl
    | up => rfl
    | failed => rfl

theorem portBringUpRetry_trains : Claims.retryRow := by
  intro s p x
  refine ⟨fun hst henabled hcable hlate => exec_of_effect rfl (if_pos ?_), fun hnot => exec_of_effect (t := s.chip) rfl (if_neg ?_)⟩
  · rw [show (s.chip.prt p).st = .failed from hst, henabled, show (s.chip.prt p).cable = true from hcable, decide_eq_true hlate]
    rfl
  · replace hnot : (s.chip.prt p).st ≠ .failed ∨ s.chip.portEnabled p = false ∨ (s.chip.prt p).cable = false ∨
      s.clk.localNs < (s.chip.prt p).failedAt + 1000000000 := hnot
    rcases hnot with hst | hdisabled | hcable | hearly
    · simp [hst]
    · simp [hdisabled]
    · simp [hcable]
    · simp [Nat.not_le.2 hearly]

/-! ### The hello exchange and cables (R404, R499) -/

theorem hello_greets : Claims.helloRow := by
  intro s p h f
  refine ⟨fun hst => exec_of_effect rfl ?_, fun hst => exec_of_effect (t := s.chip) rfl (if_pos hst)⟩
  refine (if_neg (not_not.2 hst)).trans ?_
  dsimp only
  cases Config.ed25519Verify h.idPub (helloSigned h) h.sig && decide (h.xs = s.chip.fabric.xs) && decide (h.ys = s.chip.fabric.ys) &&
    decide (h.zs = s.chip.fabric.zs) && decide (h.self = s.chip.fabric.partnerOf p) <;> rfl

@[simp] theorem Chip.modPort_portEnabled (ch : Chip) (i : Nat) (f : Port → Port) (p : Nat) : (ch.modPort i f).portEnabled p = ch.portEnabled p := rfl

@[simp] theorem Chip.modPort_ready (ch : Chip) (i : Nat) (f : Port → Port) : (ch.modPort i f).ready = ch.ready := rfl

@[simp] theorem Chip.modPort_inRecoveryMode (ch : Chip) (i : Nat) (f : Port → Port) : (ch.modPort i f).inRecoveryMode = ch.inRecoveryMode := rfl

/-- A cable that changes at one of the 8 ports. -/
theorem cablePresence_of_port {s : State} {p : Nat} (there : Bool) (hp : p < 8) :
    exec (.cablePresenceChange p there) s = .next (Claims.after s (s.chip.cableChange s.clk p there)) :=
  exec_of_effect rfl (if_neg (Nat.not_le.2 hp))

theorem cablePresence_changes : Claims.cableRow := by
  intro s p x
  refine ⟨fun hp there => exec_of_effect (t := s.chip) rfl (if_pos hp), fun hp => ⟨fun henabled hst hup => ?trains, fun hst => ?pulled, fun hnot => ?keeps,
    fun hst => ?ends, fun hst => ?out⟩⟩
  case trains =>
    replace hst : (s.chip.prt p).st = .disabled ∨ (s.chip.prt p).st = .failed := hst
    refine exec_of_effect (cablePresence_of_port true hp) (if_pos ?_)
    simpa [henabled, hup] using hst
  case pulled =>
    replace hst : (s.chip.prt p).st = .up := hst
    exact exec_of_effect (cablePresence_of_port false hp) (if_pos hst)
  case keeps =>
    refine exec_of_effect (cablePresence_of_port true hp) (if_neg ?_)
    replace hnot : s.chip.portEnabled p = false ∨ ((s.chip.prt p).st ≠ .disabled ∧ (s.chip.prt p).st ≠ .failed) ∨
      (s.chip.ready = false ∧ s.chip.inRecoveryMode = false) := hnot
    rcases hnot with hdisabled | ⟨hused, hnotFailed⟩ | ⟨hready, hmode⟩
    · simp [hdisabled]
    · simp [hused, hnotFailed]
    · simp [hready, hmode]
  case ends =>
    replace hst : (s.chip.prt p).st = .training ∨ (s.chip.prt p).st = .measuring ∨ (s.chip.prt p).st = .hello := hst
    refine exec_of_effect (cablePresence_of_port false hp) ?_
    rcases hst with hst | hst | hst
    · simp [Chip.cableChange, hst]
      rfl
    · simp [Chip.cableChange, hst]
      rfl
    · simp [Chip.cableChange, hst]
      rfl
  case out =>
    replace hst : (s.chip.prt p).st = .disabled ∨ (s.chip.prt p).st = .failed := hst
    refine exec_of_effect (cablePresence_of_port false hp) ?_
    rcases hst with hst | hst
    · simp [Chip.cableChange, hst]
    · simp [Chip.cableChange, hst]

/-! ### The link layer (R406) -/

theorem hopAcknowledge_frees : Claims.hopAckRow := by
  intro s p n
  exact ⟨fun hup => exec_of_effect rfl (if_pos hup), fun hdown => exec_of_effect (t := s.chip) rfl (if_neg (Bool.eq_false_iff.1 hdown))⟩

/-- A port that is not up is left by what only a link that is up does. -/
theorem not_up {b : Bool} (hup : b = true) : ¬ (!b) = true := by
  rw [hup]
  exact Bool.false_ne_true

theorem hopReplay_replays : Claims.hopReplayRow := by
  intro s p n x again ch
  refine ⟨fun hup hfew => exec_of_effect rfl ?_, fun hup hmany => exec_of_effect rfl ?_, fun hdown => exec_of_effect (t := s.chip) rfl (if_pos ?_)⟩
  · refine (if_neg (not_up hup)).trans (if_neg ?_)
    rw [any_eq_false fun f hf => decide_eq_false (Nat.not_le.2 (Nat.succ_lt_succ (hfew f hf)))]
    exact Bool.false_ne_true
  · obtain ⟨f, hf, hseven⟩ := hmany
    exact (if_neg (not_up hup)).trans (if_pos (List.any_eq_true.2 ⟨f, hf, decide_eq_true (Nat.succ_le_succ hseven)⟩))
  · rw [hdown]
    rfl

theorem fecUncorrectable_counts : Claims.fecRow := by
  intro s p ts ch
  refine ⟨fun hup hfew => exec_of_effect rfl ?_, fun hup hmany => exec_of_effect rfl ?_, fun hdown => exec_of_effect (t := s.chip) rfl (if_pos ?_)⟩
  · exact (if_neg (not_up hup)).trans (if_neg (Nat.not_le.2 hfew))
  · exact (if_neg (not_up hup)).trans (if_pos hmany)
  · rw [hdown]
    rfl

theorem linkTimeouts_fail : Claims.linkTimeoutRows := by
  intro s p x
  refine ⟨fun vc hup hwaits hlate => exec_of_effect rfl (if_pos ?credit), fun vc hnot => exec_of_effect (t := s.chip) rfl (if_neg ?credited),
    fun lost hup hlost => exec_of_effect rfl (if_pos ?silent), fun lost hnot => exec_of_effect (t := s.chip) rfl (if_neg ?heard)⟩
  case credit =>
    obtain ⟨f, hf, hvc⟩ := hwaits
    rw [hup, List.any_eq_true.2 ⟨f, hf, decide_eq_true hvc⟩, decide_eq_true hlate]
    rfl
  case credited =>
    rcases hnot with hdown | hnone | hearly
    · simp [hdown]
    · rw [any_eq_false fun f hf => decide_eq_false (hnone f hf), Bool.and_false]
      exact Bool.false_ne_true
    · rw [decide_eq_false (Nat.not_le.2 hearly), Bool.and_false]
      exact Bool.false_ne_true
  case silent =>
    rw [hup, Bool.true_and]
    rcases hlost with hlost | hlate
    · rw [hlost, Bool.true_or]
    · rw [decide_eq_true hlate, Bool.or_true]
  case heard =>
    rcases hnot with hdown | ⟨hkept, hearly⟩
    · simp [hdown]
    · rw [hkept, decide_eq_false (Nat.not_le.2 hearly), Bool.or_false, Bool.and_false]
      exact Bool.false_ne_true

/-! ### The frame scheduler (R416) -/

theorem portFrameSend_sends : Claims.frameSendRow := by
  intro s p
  refine ⟨fun hnot => exec_of_effect (t := s.chip) rfl ?_, ?_⟩
  · rcases hnot with hdown | hnone
    · exact if_pos (by rw [hdown]; rfl)
    · dsimp only [Chip.portSend]
      rw [hnone]
      exact ite_self _
  · intro f d hup hnext n bytes rest
    refine exec_of_effect rfl ((if_neg (not_up hup)).trans ?_)
    rw [hnext]

/-- Settles O54: a port by its state, a control block by whether the link is up and by its limits, a send by the frame that is next. -/
theorem linkRows : Obligations.LinkRows :=
  ⟨portBringUp_steps, portBringUpRetry_trains, hello_greets, cablePresence_changes, hopAcknowledge_frees, hopReplay_replays, fecUncorrectable_counts,
   linkTimeouts_fail, portFrameSend_sends⟩

end Sys2Proof.Machine

/-! # Frames, flows, barrier frames and collectives (O55; causes 15 and 16 are log entry 38's, flow ids and the barrier payload entry 25's, frames
dropped past a gap entry 37's) -/

namespace Sys2Proof.Machine

/-! ### Frames that arrive (spec/14_fabric.md R405, R406, R409, R416) -/

theorem nextFrame_of_barrier : Claims.barrierFirst := by
  intro ch p f hfind
  dsimp only [Chip.nextFrame]
  rw [hfind]

section
variable {ch : Chip} {k : Clock} {p : Nat} {bs : List Byte} (f : Chip → Chip)

/-- Nothing arrives at a port that is not up, and no header in fewer than 32 bytes. -/
theorem Chip.hopIn_of_deaf (h : ch.portUp p = false ∨ bs.length < 32) : ch.hopIn k p bs f = ch := by
  refine if_pos ?_
  rcases h with hdown | hshort
  · rw [hdown]
    rfl
  · rw [decide_eq_true hshort, Bool.or_true]

/-- A frame at a port that is up is judged by its number. -/
theorem Chip.hopIn_of_up (hup : ch.portUp p = true) (hlen : 32 ≤ bs.length) : ch.hopIn k p bs f =
    let c := ch.modPort p fun y => y.heard k
    if (frameHdr bs).hseq < (ch.prt p).rxHseq then c.send (.control p 0 ((ch.prt p).rxHseq - 1))
    else if (ch.prt p).rxHseq < (frameHdr bs).hseq then c
    else f ((c.modPort p fun y => { y with rxHseq := ((frameHdr bs).hseq + 1) % 2 ^ 32 }).send (.control p 0 (frameHdr bs).hseq)) :=
  if_neg (by rw [hup, decide_eq_false (Nat.not_lt.2 hlen)]; exact Bool.false_ne_true)

/-- A frame received before is acknowledged again. -/
theorem Chip.hopIn_of_old (hup : ch.portUp p = true) (hlen : 32 ≤ bs.length) (hold : (frameHdr bs).hseq < (ch.prt p).rxHseq) :
    ch.hopIn k p bs f = (ch.modPort p fun y => y.heard k).send (.control p 0 ((ch.prt p).rxHseq - 1)) :=
  (Chip.hopIn_of_up f hup hlen).trans (if_pos hold)

/-- A frame past one not received whole is dropped. -/
theorem Chip.hopIn_of_gap (hup : ch.portUp p = true) (hlen : 32 ≤ bs.length) (hgap : (ch.prt p).rxHseq < (frameHdr bs).hseq) :
    ch.hopIn k p bs f = ch.modPort p fun y => y.heard k :=
  (Chip.hopIn_of_up f hup hlen).trans ((if_neg (Nat.lt_asymm hgap)).trans (if_pos hgap))

/-- The frame that the receiver waits for is acknowledged and passed on. -/
theorem Chip.hopIn_of_next (hup : ch.portUp p = true) (hlen : 32 ≤ bs.length) (hnext : (ch.prt p).rxHseq = (frameHdr bs).hseq) : ch.hopIn k p bs f =
    f (((ch.modPort p fun y => y.heard k).modPort p fun y => { y with rxHseq := ((frameHdr bs).hseq + 1) % 2 ^ 32 }).send (.control p 0 (frameHdr bs).hseq)) :=
  (Chip.hopIn_of_up f hup hlen).trans ((if_neg hnext.le.not_gt).trans (if_neg hnext.ge.not_gt))

end

theorem frames_arrive : Claims.frameInRow := by
  intro s p bs h heard acked
  refine ⟨fun hdeaf => ⟨exec_of_effect (t := s.chip) rfl (Chip.hopIn_of_deaf _ hdeaf), exec_of_effect (t := s.chip) rfl (Chip.hopIn_of_deaf _ hdeaf)⟩,
    fun hup hlen hold => ?_, fun hup hlen hnext hdst => ⟨?_, ?_⟩, fun hup hlen hnext hdst => ⟨?_, ?_⟩, fun hup hlen hgap => ⟨?_, ?_⟩⟩
  · exact ⟨exec_of_effect rfl (Chip.hopIn_of_old _ hup hlen hold), exec_of_effect rfl (Chip.hopIn_of_old _ hup hlen hold)⟩
  · exact exec_of_effect rfl ((Chip.hopIn_of_next _ hup hlen hnext).trans (if_pos hdst))
  · exact exec_of_effect rfl ((Chip.hopIn_of_next _ hup hlen hnext).trans (if_pos hdst))
  · exact exec_of_effect rfl ((Chip.hopIn_of_next _ hup hlen hnext).trans (if_neg (not_not.2 hdst)))
  · exact exec_of_effect rfl ((Chip.hopIn_of_next _ hup hlen hnext).trans (if_neg (not_not.2 hdst)))
  · exact exec_of_effect rfl (Chip.hopIn_of_gap _ hup hlen hgap)
  · exact exec_of_effect rfl (Chip.hopIn_of_gap _ hup hlen hgap)

/-! ### Flows (R411, R415) -/

theorem flowAcknowledge_frees : Claims.flowAckRow := by
  intro s job dst flow n
  refine ⟨fun hnone => exec_of_effect (t := s.chip) rfl ?_, fun f hflow => ⟨fun hnot => exec_of_effect (t := s.chip) rfl ?_,
    fun hlive hsent hother => exec_of_effect rfl ?_, fun hlive hsent hstream => exec_of_effect rfl ?_⟩⟩
  · dsimp only [Chip.flowAck]
    rw [hnone]
  · dsimp only [Chip.flowAck]
    rw [hflow]
    refine if_pos ?_
    rcases hnot with hfailed | hearly
    · simp [hfailed]
    · simp [hearly]
  · dsimp only [Chip.flowAck]
    rw [hflow]
    refine (if_neg ?_).trans (if_pos hother)
    rw [hlive, decide_eq_false (Nat.not_le.2 hsent)]
    exact Bool.false_ne_true
  · dsimp only [Chip.flowAck]
    rw [hflow]
    refine (if_neg ?_).trans (if_neg (Nat.not_le.2 hstream))
    rw [hlive, decide_eq_false (Nat.not_le.2 hsent)]
    exact Bool.false_ne_true

theorem flows_resend : Claims.flowResendRows := by
  intro s job dst flow n
  refine ⟨fun m j f hslot hflow => ⟨fun hkept => exec_of_effect rfl ?_, fun hgone => exec_of_effect (t := s.chip) rfl ?_⟩,
    fun hnone => ⟨exec_of_effect (t := s.chip) rfl ?_, exec_of_effect (t := s.chip) rfl ?_⟩,
    fun f x hflow hkept => ⟨fun hlate => exec_of_effect rfl ?_, fun hearly => exec_of_effect (t := s.chip) rfl ?_⟩⟩
  · dsimp only [Chip.flowNack]
    rw [hslot, hflow]
    exact if_pos hkept
  · dsimp only [Chip.flowNack]
    rw [hslot, hflow]
    exact if_neg (Bool.eq_false_iff.1 hgone)
  · dsimp only [Chip.flowNack]
    rw [hnone]
    cases s.chip.jobSlot job <;> rfl
  · dsimp only [Chip.flowTimer]
    rw [hnone]
  · dsimp only [Chip.flowTimer]
    rw [hflow]
    dsimp only
    rw [hkept]
    exact if_pos hlate
  · dsimp only [Chip.flowTimer]
    rw [hflow]
    dsimp only
    rw [hkept]
    exact if_neg (Nat.not_le.2 hearly)

/-! ### Barriers across packages (R418, R419; spec/01_architecture.md R31) -/

/-- A barrier frame for this device at a port that is up is taken. -/
theorem barrierFrame_here {s : State} {port job bar gen src : Nat} {rel : Bool} (hup : s.chip.portUp port = true) :
    exec (.barrierFrame port job bar gen src s.chip.fabric.selfId rel) s = .next (Claims.after s (s.chip.barrierHere s.clk job bar gen src rel)) :=
  exec_of_effect rfl ((if_neg (not_up hup)).trans (if_neg (not_not.2 rfl)))

theorem barrierFrame_joins : Claims.barrierFrameRow := by
  intro s port job bar gen src rel
  refine ⟨fun hdown dst => exec_of_effect (t := s.chip) rfl (if_pos ?_), fun hup => ⟨fun dst hdst => exec_of_effect rfl ?_, fun hnone => ?_, ?_⟩⟩
  · rw [hdown]
    rfl
  · exact (if_neg (not_up hup)).trans (if_pos hdst)
  · refine exec_of_effect (barrierFrame_here hup) ?_
    dsimp only [Chip.barrierHere]
    rw [hnone]
  · intro n j hslot x
    refine ⟨fun hnot => exec_of_effect (t := s.chip) (barrierFrame_here hup) ?absorbed, fun hjob hgen harrives hnew => exec_of_effect (barrierFrame_here hup) ?arrives,
      fun hjob hgen hreleases => exec_of_effect (barrierFrame_here hup) ?releases⟩
    case absorbed =>
      replace hnot : ((s.chip.pt j.part).bar bar).job ≠ some job ∨ ((s.chip.pt j.part).bar bar).arrGen.toNat ≠ gen ∨
        (rel = false ∧ src ∈ ((s.chip.pt j.part).bar bar).children) := hnot
      dsimp only [Chip.barrierHere]
      rw [hslot]
      rcases hnot with hjob | hgen | ⟨harrives, hold⟩
      · exact if_pos (by simp [hjob])
      · exact if_pos (by simp [hgen])
      · dsimp only
        rw [harrives, if_neg Bool.false_ne_true, if_pos hold, ite_self]
    case arrives =>
      have hmine : ¬ (decide (x.job ≠ some job) || decide (x.arrGen.toNat ≠ gen)) = true := by simp [hjob, hgen]
      dsimp only [Chip.barrierHere]
      rw [hslot, harrives]
      exact (if_neg hmine).trans ((if_neg Bool.false_ne_true).trans (if_neg hnew))
    case releases =>
      have hmine : ¬ (decide (x.job ≠ some job) || decide (x.arrGen.toNat ≠ gen)) = true := by simp [hjob, hgen]
      dsimp only [Chip.barrierHere]
      rw [hslot, hreleases]
      exact (if_neg hmine).trans (if_pos rfl)

theorem jobBarrier_times_out : Claims.jobTimeoutRow := by
  intro s p b x
  refine ⟨fun n j t hjob hdone => ⟨fun htimeout hfirst hlate => exec_of_effect rfl ?_, fun hnot => exec_of_effect (t := s.chip) rfl ?_⟩,
    fun hnone => exec_of_effect (t := s.chip) rfl ?_⟩
  · replace hjob : ((s.chip.pt p).bar b).job.bind s.chip.jobSlot = some (n, j) := hjob
    replace hdone : ((s.chip.pt p).bar b).localDone = some t := hdone
    dsimp only
    rw [hjob, hdone]
    refine if_pos ?_
    rw [decide_eq_true htimeout, show ((s.chip.pt p).bar b).timedOut = false from hfirst, decide_eq_true hlate]
    rfl
  · replace hjob : ((s.chip.pt p).bar b).job.bind s.chip.jobSlot = some (n, j) := hjob
    replace hdone : ((s.chip.pt p).bar b).localDone = some t := hdone
    replace hnot : j.timeout = 0 ∨ ((s.chip.pt p).bar b).timedOut = true ∨ s.clk.localNs < t + j.timeout * 1000 := hnot
    dsimp only
    rw [hjob, hdone]
    refine if_neg ?_
    rcases hnot with hzero | htold | hearly
    · simp [hzero]
    · simp [htold]
    · simp [Nat.not_le.2 hearly]
  · replace hnone : ((s.chip.pt p).bar b).localDone = none := hnone
    dsimp only
    rw [hnone]
    cases ((s.chip.pt p).bar b).job.bind s.chip.jobSlot <;> rfl

/-! ### Collectives (R420, R422) -/

theorem collective_completes : Claims.collectiveRow := by
  intro s id c n j hfind hslot others got chunks
  refine ⟨fun hidle ok => exec_of_effect (t := s.chip) rfl ?idle, fun hstarted hfailed => exec_of_effect rfl ?failed,
    fun hstarted hnot => exec_of_effect (t := s.chip) rfl ?waits, ?_⟩
  case idle =>
    dsimp only [Chip.collDone]
    rw [hfind]
    dsimp only
    rw [hslot]
    exact if_pos (by rw [hidle]; rfl)
  case failed =>
    dsimp only [Chip.collDone]
    rw [hfind]
    dsimp only
    rw [hslot]
    exact (if_neg (not_up hstarted)).trans ((if_pos rfl).trans (if_pos hfailed))
  case waits =>
    have hshort : (c.failed || got.any fun g => decide (g.2.length < chunks)) = true := by
      rcases hnot with hfailed | ⟨g, hg, hless⟩
      · rw [hfailed, Bool.true_or]
      · rw [List.any_eq_true.2 ⟨g, hg, decide_eq_true hless⟩, Bool.or_true]
    dsimp only [Chip.collDone]
    rw [hfind]
    dsimp only
    rw [hslot]
    exact (if_neg (not_up hstarted)).trans ((if_neg (not_up rfl)).trans (if_pos hshort))
  intro src hstarted hlive hhere hread out hmay
  have hwhole : ¬ (c.failed || got.any fun g => decide (g.2.length < chunks)) = true := by
    rw [hlive, any_eq_false fun g hg => decide_eq_false (Nat.not_lt.2 (hhere g hg))]
    exact Bool.false_ne_true
  refine exec_of_effect rfl ?_
  dsimp only [Chip.collDone]
  rw [hfind]
  dsimp only
  rw [hslot]
  refine (if_neg (not_up hstarted)).trans ((if_neg (not_up rfl)).trans ((if_neg hwhole).trans ?_))
  rw [hread]
  exact if_neg (Bool.eq_false_iff.1 (any_eq_false hmay))

/-- Settles O55: a frame by its number at the hop and its destination, a flow's frame by what is kept, a collective by what has arrived. -/
theorem frameRows : Obligations.FrameRows :=
  ⟨nextFrame_of_barrier, frames_arrive, flowAcknowledge_frees, flows_resend, barrierFrame_joins, jobBarrier_times_out, collective_completes⟩

end Sys2Proof.Machine

/-! # The events of the ladder, the links, the watchdogs and the tally complete (O60; the events are R465's, R499's and log entry 35's) -/

namespace Sys2Proof.Machine

/-! ### The steps of the ladder (spec/16_faults_recovery.md R451, R452, R478) -/

/-- A step that begins is in progress on its unit since now. -/
theorem Chip.beginStep_inStep (c : Chip) (k : Clock) (f : FaultRec) (pkg : Bool) : Claims.InStep (c.beginStep k f pkg) k f.unit := by
  have hkept (t : Chip) (ps : List Nat) (g : Chip → Nat → Partition → Partition) (h : Chip → Nat → Nat → Bool) :
      (ps.foldl (fun c p => (c.pauseCtxs k p (h c p)).modPt p (g c p)) t).rcv = t.rcv :=
    List.foldlRecOn (motive := fun u : Chip => u.rcv = t.rcv) ps _ rfl fun _ hu _ _ => hu
  unfold Chip.beginStep
  dsimp only [Claims.InStep]
  rw [hkept _ _ (fun _ _ x => { x with faults := upd 0 x.faults f.unit.code (· + 1), recovering := x.recovering || decide (3 ≤ f.unit.code) })
    (fun c p => c.ctxsOn p f.unit)]
  exact ⟨_, List.mem_append_right _ (List.mem_singleton_self _), rfl, rfl⟩

theorem recoveryEvents_complete : Claims.recoveryEventsComplete := by
  intro s f pkg c
  obtain ⟨hctx, -, hengine, -, hpart, -⟩ := resets_start_or_idle s f pkg c
  obtain ⟨hcluster, -, hstream, -, hdie, -⟩ := steps_start_or_idle s f pkg c
  have hbegun := Chip.beginStep_inStep c s.clk f pkg
  refine ⟨fun p ctx cause hstarts => ⟨_, hbegun, hctx p ctx cause hstarts⟩, fun n cause hstarts => ⟨_, hbegun, hcluster n cause hstarts⟩,
    fun e cause hstarts => ⟨_, hbegun, hengine e cause hstarts⟩, fun r cause hstarts => ⟨_, hbegun, hstream r cause hstarts⟩,
    fun p cause hstarts => ⟨_, hbegun, hpart p cause hstarts⟩, fun d cause sr pats bad hstarts => ⟨_, hbegun, hdie d cause sr pats bad hstarts⟩, ?_, ?_⟩
  · intro cause hon hfault
    obtain ⟨-, hqueued, hdetected, -⟩ := packageReset_resets s cause
    cases htake : s.chip.takeFault .package cause with
    | some r => exact ⟨_, hqueued r.1 r.2.1 r.2.2 hon htake, rfl, rfl, rfl, rfl⟩
    | none => exact ⟨_, hdetected hon htake (hfault.resolve_left (by simp [htake])), rfl, rfl, rfl, rfl⟩
  · intro n since m hsvc hm hrows
    obtain ⟨-, hpasses, -⟩ := reintegration_returns s n since m hsvc
    exact ⟨_, hpasses hm hrows⟩

/-! ### The links (spec/14_fabric.md R403, R404, R406, R416) -/

/-- Packets sent one after another join the output in their order. -/
theorem Chip.foldl_send_wire {α : Type} (l : List α) (out : α → Out) (ch : Chip) : (l.foldl (fun c f => c.send (out f)) ch).wire = ch.wire ++ l.map out := by
  induction l generalizing ch with
  | nil => exact (List.append_nil _).symm
  | cons a l ih => rw [List.foldl_cons, ih, Chip.send_wire, List.append_assoc]; rfl

@[simp] theorem Chip.send_prt (ch : Chip) (o : Out) (p : Nat) : (ch.send o).prt p = ch.prt p := rfl

theorem Chip.modPort_wf (ch : Chip) (i : Nat) (f : Port → Port) (h : Store.wf {} ch.fabric.ports = true) : Store.wf {} (ch.modPort i f).fabric.ports = true :=
  upd_wf i f h

/-- The epochs learned from other devices are no part of a port. -/
theorem Chip.srcEpochs_prt (ch : Chip) (epochs : Store (Option Nat)) (p : Nat) :
    ({ ch with fabric := { ch.fabric with srcEpochs := epochs } } : Chip).prt p = ch.prt p := rfl

theorem linkEvents_complete : Claims.linkEventsComplete := by
  intro s p hwf x
  have hread (f : Port → Port) : (s.chip.modPort p f).prt p = f (s.chip.prt p) := by rw [Chip.modPort_prt _ _ _ hwf, if_pos rfl]
  have hup (hst : x.st = .up) : s.chip.portUp p = true := decide_eq_true hst
  refine ⟨fun m hst => ?training, fun hst henabled hcable hlate => ?retry, fun h hst hsigned hxs hys hzs hself => ?hello, fun hp henabled hst hready => ?cable,
    fun n hst => ?ack, fun n hst hfew => ?replay, fun hst hfew => ?fec, fun vc hst hwaits hlate => ?credit, fun lost hst hlost => ?silent, fun hst hnext => ?send,
    fun m hst => ?measuring⟩
  case training =>
    obtain ⟨htrains, -⟩ := portBringUp_steps s p m
    refine ⟨_, htrains hst, ?_⟩
    dsimp only [Claims.after]
    rw [hread]
    cases m.lock <;> rfl
  case retry =>
    obtain ⟨htrains, -⟩ := portBringUpRetry_trains s p
    refine ⟨_, htrains hst henabled hcable hlate, ?_⟩
    dsimp only [Claims.after]
    rw [hread]
  case hello =>
    obtain ⟨hgreets, -⟩ := hello_greets s p h
    have hgood : (Config.ed25519Verify h.idPub (helloSigned h) h.sig && decide (h.xs = s.chip.fabric.xs) && decide (h.ys = s.chip.fabric.ys) &&
      decide (h.zs = s.chip.fabric.zs) && decide (h.self = s.chip.fabric.partnerOf p)) = true := by simp [hsigned, hxs, hys, hzs, hself]
    refine ⟨_, (hgreets hst).trans (congrArg (fun t => Host.Outcome.next (Claims.after s t)) (if_pos hgood)), ?_, ?_⟩
    · rw [Chip.srcEpochs_prt, hread]
    · rw [Chip.srcEpochs_prt, hread]
  case cable =>
    obtain ⟨-, hin⟩ := cablePresence_changes s p
    obtain ⟨htrains, -⟩ := hin hp
    have hread' : ((s.chip.modPort p fun x => { x with cable := true }).modPort p fun x => { x with st := .training, cause := 0 }).prt p =
        { s.chip.prt p with cable := true, st := .training, cause := 0 } := by
      rw [Chip.modPort_prt _ _ _ (Chip.modPort_wf _ _ _ hwf), if_pos rfl, hread]
    exact ⟨_, htrains henabled hst (.inl hready), congrArg Port.st hread', congrArg Port.cable hread'⟩
  case ack =>
    obtain ⟨hfrees, -⟩ := hopAcknowledge_frees s p n
    exact ⟨_, hfrees (hup hst), congrArg Port.replay (hread _)⟩
  case replay =>
    obtain ⟨hreplays, -⟩ := hopReplay_replays s p n
    refine ⟨_, hreplays (hup hst) fun f hf => ?_, Chip.foldl_send_wire _ _ _⟩
    obtain ⟨hmem, hn⟩ := List.mem_filter.1 hf
    exact hfew f hmem (of_decide_eq_true hn)
  case fec =>
    obtain ⟨hcounts, -⟩ := fecUncorrectable_counts s p
    refine ⟨_, hcounts (hup hst) ?_, ?_, ?_⟩
    · rw [List.length_append]
      exact Nat.succ_lt_succ hfew
    · exact congrArg Port.fecUe (hread _)
    · dsimp only [Claims.after]
      rw [Chip.send_wire, hread]
      rfl
  case credit =>
    obtain ⟨hfails, -⟩ := linkTimeouts_fail s p
    exact hfails vc (hup hst) hwaits hlate
  case silent =>
    obtain ⟨-, -, hfails, -⟩ := linkTimeouts_fail s p
    exact hfails lost (hup hst) hlost
  case send =>
    obtain ⟨⟨f, d⟩, hframe⟩ := Option.isSome_iff_exists.1 hnext
    obtain ⟨-, hsends⟩ := portFrameSend_sends s p
    exact ⟨_, _, hsends f d (hup hst) hframe, rfl, congrArg Port.txHseq (hread _)⟩
  case measuring =>
    obtain ⟨-, hmeasures, -⟩ := portBringUp_steps s p m
    refine ⟨_, hmeasures hst, ?_⟩
    dsimp only [Claims.after]
    cases linkBad m with
    | none => exact congrArg Port.st (hread _)
    | some c => exact congrArg Port.st (hread _)

/-! ### Step ends, watchdogs and the tally (spec/16_faults_recovery.md R453, R454, R469 to R471) -/

theorem ladderEvents_complete : Claims.ladderEventsComplete := by
  intro s
  refine ⟨fun id x hfind hready => ?ends, fun id x hfind hlate hunit => ?watchdog, fun t hreset hlate hnot => ?start, fun hready hdue hquiet hlive => ?tally,
    fun p ctx hturn => ?suspect, fun p ctx y hctx hvalid hpaused hheld hdue hwork => ?progress⟩
  case ends =>
    obtain ⟨-, hends⟩ := stepComplete_ends s id
    exact hends x hfind (.inl hready)
  case watchdog =>
    obtain ⟨-, hgives, -⟩ := stepWatchdog_expires s id x hfind
    exact hgives hlate hunit
  case start =>
    obtain ⟨hasks, -⟩ := mgmtStart_times_out s
    exact ⟨_, hasks t hreset hlate hnot, rfl, rfl⟩
  case tally =>
    obtain ⟨-, hscans⟩ := tallyScan_scans s
    obtain ⟨hkeeps, -⟩ := hscans hready hdue hquiet
    refine ⟨_, hkeeps (any_eq_false fun r hr => ?_), rfl, rfl, rfl⟩
    rw [List.all_eq_true.1 hlive r hr]
    rfl
  case suspect =>
    obtain ⟨-, -, hreplays⟩ := suspect_replays s p ctx
    exact ⟨_, hreplays hturn, rfl⟩
  case progress =>
    obtain ⟨-, hnames⟩ := noProgress_names s p ctx
    obtain ⟨-, hnames⟩ := hnames y hctx
    refine ⟨_, hnames hvalid hpaused hheld hdue ?_⟩
    rcases hwork with hslots | htasks
    · simp [hslots]
    · simp [htasks]

/-- Settles O60: each event's row under its condition, with what the port or the block then reads. -/
theorem recoveryAndLinkEventsComplete : Obligations.RecoveryAndLinkEventsComplete := ⟨recoveryEvents_complete, linkEvents_complete, ladderEvents_complete⟩

end Sys2Proof.Machine

/-! # A fill of an lcid that is none (O37: its row of SCRATCHPAD_FILL and SCRATCHPAD_COPY fails) -/

namespace Sys2Proof.Machine

/-- A device that is READY, with one cluster, of lcid 0, that is idle and asks for 128 bytes of a fill. -/
def fillReady : State :=
  { State.reset with chip := { clusters := [(0, { svc := .owned, lcid := some 0, opLen := 128 })], lcidMap := [(0, some 0)], boot := { phase := 6 } } }

/-- The lcid 4096 runs over its field of the address: the go of its cluster's engine is the low member word of barrier 0 (R390). -/
theorem scratchpadFill_over_lcids (p : Nat) (s : State) : exec (.scratchpadFill p 4096) s = exec (.barMaskWrite p 0 false 3#32) s := rfl

/-- No engine starts by a write of a barrier's member word. -/
theorem barMaskWrite_opBusy {t : State} (h : exec (.barMaskWrite 0 0 false 3#32) fillReady = .next t) : (t.chip.cl 0).opBusy = none := by
  have hidle : ((writeReg 0 (mkAddr 4 0 0 6) 3#32 fillReady.clk fillReady.chip).cl 0).opBusy = none := by decide
  obtain rfl := Host.Outcome.next.inj h
  exact hidle

/-- Refutes O37: its row of fills asks nothing of the lcid. With lcid 4096, which no well-formed command
has, the address written is barrier 0's member word, and its unit field, 0, is read as the lcid of an idle cluster: every condition of the row
holds, and no engine starts. -/
theorem not_registerRows : ¬ Obligations.RegisterRows := by
  rintro ⟨-, -, -, -, -, hfill, -⟩
  have hstarts := hfill fillReady 0 4096 0 1 (.inl rfl) (by decide) (by decide) (by decide) (by decide) (by decide) (by decide)
  rw [if_pos rfl, scratchpadFill_over_lcids] at hstarts
  exact absurd (barMaskWrite_opBusy hstarts) (by decide)

end Sys2Proof.Machine
